-- ==== Sys2Proof/Word.lean ====
section
/-!
DEFINITION. The word types of the Emmeuno (00 R1-R4): bytes, 32-bit register and instruction words,
64-bit double words, and the plain types every other file names.
-/
namespace Sys2Proof

/-- A byte of memory, of a bank or of a record. -/
abbrev Byte := BitVec 8

/-- A register or instruction word (03 R51, 02 R15). -/
abbrev Word := BitVec 32

/-- A 64-bit value: a time stamp, a page-table entry, a register of a front-end hart. -/
abbrev DWord := BitVec 64

/-- A code address: 48 bits (02 R15). -/
abbrev CodeAddr := BitVec 48

/-- A register field of an instruction word: v0 to v127 (03 R62). -/
abbrev Reg := BitVec 7

/-- A set of fibre indices of one group: bit i is fibre index i (02 R21). -/
abbrev Mask := BitVec 64

end Sys2Proof
end

