-- ==== Sys2Proof/Syntax.lean ====
section
/-!
DEFINITION. The syntax of the Emmeuno: the operands of every instruction format (03 R54-R61), and one
constructor for each row of spec/opcode_table.json. Nothing here says what an instruction does.
-/
namespace Sys2Proof

/-- What the lane pair's operand latch keeps (02 R40). It never changes a result (R41). -/
inductive Hold where
  | none | a | b | d
  deriving DecidableEq, Repr

/-- The hint of a branch or jump (03 R66, 02 R30). -/
inductive Hint where
  | none | likely | unlikely | uniform
  deriving DecidableEq, Repr

/-- Registers, or entries, per lane of a memory instruction (03 R71). -/
inductive Size where
  | one | two | four
  deriving DecidableEq, Repr

/-- The rounding modes (04 R90). -/
inductive RMode where
  | rn | rz | rd | ru | rs
  deriving DecidableEq, Repr

/-- Visibility scopes, narrowest first (12 R262). -/
inductive Scope where
  | grp | core | clu | dev | sys | dom
  deriving DecidableEq, Repr

/-- The scopes of a convergence set (10 R219, R230). -/
inductive CvScope where
  | group | quad | core
  deriving DecidableEq, Repr

/-- The system registers (06 R142). -/
inductive SysReg where
  | pred | repc | lnk | lnkHi | place | grp | tvec | tvecHi | fcause | fpc | fpcHi | ftime | ftimeHi
  | fops (i : Fin 8) | wake | ny (i : Fin 16) | rasthr | lvl (i : Fin 8) | clk
  deriving DecidableEq, Repr

/-- LA with a hold field and three registers (03 R54). -/
structure LaneOp3 where
  park : Bool
  hold : Hold
  d : Reg
  a : Reg
  b : Reg
  deriving DecidableEq, Repr

/-- LA whose b field is a selector that the constructor stands for (03 R71). -/
structure LaneOp2 where
  park : Bool
  hold : Hold
  d : Reg
  a : Reg
  deriving DecidableEq, Repr

/-- LI (03 R55). -/
structure LaneImm where
  park : Bool
  hold : Hold
  d : Reg
  imm : BitVec 14
  deriving DecidableEq, Repr

/-- `cvt`: conversion number and mode of the selector in b (04 R103). -/
structure CvtOp where
  park : Bool
  hold : Hold
  d : Reg
  a : Reg
  conv : BitVec 4
  mode : RMode
  deriving DecidableEq, Repr

/-- LB and UB (03 R57, R59). -/
structure LaneBranch where
  park : Bool
  hint : Hint
  c : Reg
  off : BitVec 14
  deriving DecidableEq, Repr

/-- LM with a size selector (03 R56, R71). -/
structure MemOp where
  park : Bool
  size : Size
  d : Reg
  a : Reg
  b : Reg
  deriving DecidableEq, Repr

/-- Three registers d, a, b. -/
structure Regs3 where
  park : Bool
  d : Reg
  a : Reg
  b : Reg
  deriving DecidableEq, Repr

/-- Two registers d, a. -/
structure Regs2 where
  park : Bool
  d : Reg
  a : Reg
  deriving DecidableEq, Repr

/-- Two registers a, b. -/
structure RegsAB where
  park : Bool
  a : Reg
  b : Reg
  deriving DecidableEq, Repr

/-- One register a. -/
structure RegA where
  park : Bool
  a : Reg
  deriving DecidableEq, Repr

/-- One register d. -/
structure RegD where
  park : Bool
  d : Reg
  deriving DecidableEq, Repr

/-- A word without operands. -/
structure ParkOnly where
  park : Bool
  deriving DecidableEq, Repr

/-- UE with three register groups (03 R61). -/
structure EngOp3 where
  park : Bool
  a : Reg
  b : Reg
  c : Reg
  deriving DecidableEq, Repr

/-- UE whose b field must be 0. -/
structure EngOp2 where
  park : Bool
  a : Reg
  c : Reg
  deriving DecidableEq, Repr

/-- `mma` and `mmas` (10 R231). -/
structure MmaOp where
  park : Bool
  cv : BitVec 3
  a : Reg
  b : Reg
  deriving DecidableEq, Repr

/-- `cvdecl` (10 R230). -/
structure CvdeclOp where
  park : Bool
  scope : CvScope
  cv : BitVec 3
  count : BitVec 14
  deriving DecidableEq, Repr

/-- UI with imm14 (03 R59). -/
structure UImm where
  park : Bool
  d : Reg
  imm : BitVec 14
  deriving DecidableEq, Repr

/-- UI whose function field extends the immediate to 17 bits (03 R73). -/
structure UImm17 where
  park : Bool
  d : Reg
  imm : BitVec 17
  deriving DecidableEq, Repr

/-- UJ (03 R60). -/
structure JumpOp where
  park : Bool
  hint : Hint
  off : BitVec 22
  deriving DecidableEq, Repr

/-- `rep` with an immediate count (03 R74). -/
structure RepImm where
  sd : BitVec 2
  sa : BitVec 2
  sb : BitVec 2
  n : BitVec 8
  deriving DecidableEq, Repr

/-- `rep` with a register count (03 R74). -/
structure RepReg where
  d : Reg
  sd : BitVec 2
  sa : BitVec 2
  sb : BitVec 2
  deriving DecidableEq, Repr

/-- `fence` (12 R272). -/
structure FenceOp where
  park : Bool
  scope : Scope
  deriving DecidableEq, Repr

/-- `bsr` (02 R45). -/
structure BsD where
  park : Bool
  d : Reg
  n : BitVec 4
  deriving DecidableEq, Repr

/-- `bsw` (02 R45). -/
structure BsA where
  park : Bool
  a : Reg
  n : BitVec 4
  deriving DecidableEq, Repr

/-- `bsadd` (02 R45). -/
structure BsDA where
  park : Bool
  d : Reg
  a : Reg
  n : BitVec 4
  deriving DecidableEq, Repr

/-- `srd` and `swr` (06 R141). -/
structure SysOp where
  park : Bool
  d : Reg
  reg : SysReg
  deriving DecidableEq, Repr

/-- `trap` and `brk` (06 R147). -/
structure CodeOp where
  park : Bool
  code : BitVec 14
  deriving DecidableEq, Repr

/-- The R-type of the front-end extension (11 R260). -/
structure HartOp where
  rd : BitVec 5
  rs1 : BitVec 5
  rs2 : BitVec 5
  deriving DecidableEq, Repr

/-- What the switch knows of another member's part in a collective (20 R371). -/
structure CollPart where
  rank : Nat
  op : BitVec 4
  len : Nat
  data : List Byte
  down : Bool
  deriving DecidableEq, Repr

/-- Where a compositing contribution comes from: a packet of this device, by its place in the list of
fabric commands in flight, or another device's packet on a plane (20 R374). -/
inductive CompFrom where
  | own (i : Nat)
  | other (plane : Nat) (packet : List Byte)
  deriving DecidableEq, Repr

/-- A pending write that may move: an entry of a write buffer, or a write pending at a point (12 R265). -/
inductive MoveRef where
  | buffer (i : Nat)
  | point (i : Nat)
  deriving DecidableEq, Repr

/-- A host access to device memory over CXL.mem (07 R166), and a host read of the register space of CXL.io (22 R380), for
which the opcode table has no row of its own (DEDUCED, log 44). -/
inductive HostAccess where
  | read (addr len : Nat)
  | write (addr : Nat) (data : List Byte)
  | register (offset : Nat)
  deriving DecidableEq, Repr

/-- The counters of corrected errors (22 R381). -/
inductive CeCounter where
  | bank | slice | hbm
  deriving DecidableEq, Repr

/-- The functions that have a readiness bit of their own, the ports apart (22 R381, R383). -/
inductive DevFunction where
  | hbm (i : Nat)
  | cluster (i : Nat)
  | head (i : Nat)
  | cxl
  | frontEnd
  deriving DecidableEq, Repr

/-- What the power and thermal sensors report (22 R389). -/
structure PowerReading where
  overPower : Bool
  overTemp : Bool
  powerBelowStepUp : Bool
  tempBelowStepUp : Bool
  deriving DecidableEq, Repr

/-- The instructions and events of the device: one constructor for each row of the opcode table. The
word rows carry their encoded operands. The event rows carry what says which instance of the event
occurs; an event of another agent (host, fabric, environment) carries what that agent supplies. -/
inductive Instr where
  /-- iadd (R112). -/
  | iadd (o : LaneOp3)
  /-- isub (R112). -/
  | isub (o : LaneOp3)
  /-- iaddi (R113). -/
  | iaddi (o : LaneImm)
  /-- imul (R112). -/
  | imul (o : LaneOp3)
  /-- imulh.s (R112). -/
  | imulhS (o : LaneOp3)
  /-- imulh.u (R112). -/
  | imulhU (o : LaneOp3)
  /-- imad (R112). -/
  | imad (o : LaneOp3)
  /-- imin.s (R112). -/
  | iminS (o : LaneOp3)
  /-- imin.u (R112). -/
  | iminU (o : LaneOp3)
  /-- imax.s (R112). -/
  | imaxS (o : LaneOp3)
  /-- imax.u (R112). -/
  | imaxU (o : LaneOp3)
  /-- iabs (R117). -/
  | iabs (o : LaneOp2)
  /-- popc (R117). -/
  | popc (o : LaneOp2)
  /-- clz (R117). -/
  | clz (o : LaneOp2)
  /-- ctz (R117). -/
  | ctz (o : LaneOp2)
  /-- brev (R117). -/
  | brev (o : LaneOp2)
  /-- icmp.eq (R114). -/
  | icmpEq (o : LaneOp3)
  /-- icmp.ne (R114). -/
  | icmpNe (o : LaneOp3)
  /-- icmp.lt.s (R114). -/
  | icmpLtS (o : LaneOp3)
  /-- icmp.lt.u (R114). -/
  | icmpLtU (o : LaneOp3)
  /-- icmp.ge.s (R114). -/
  | icmpGeS (o : LaneOp3)
  /-- icmp.ge.u (R114). -/
  | icmpGeU (o : LaneOp3)
  /-- sel (R114). -/
  | sel (o : LaneOp3)
  /-- movi (R113). -/
  | movi (o : LaneImm)
  /-- lui (R113). -/
  | lui (o : LaneImm)
  /-- ori (R113). -/
  | ori (o : LaneImm)
  /-- and (R115). -/
  | andL (o : LaneOp3)
  /-- andn (R115). -/
  | andn (o : LaneOp3)
  /-- or (R115). -/
  | orL (o : LaneOp3)
  /-- xor (R115). -/
  | xorL (o : LaneOp3)
  /-- shl (R115). -/
  | shl (o : LaneOp3)
  /-- shr (R115). -/
  | shr (o : LaneOp3)
  /-- sar (R115). -/
  | sar (o : LaneOp3)
  /-- bfe.s (R116). -/
  | bfeS (o : LaneOp3)
  /-- bfe.u (R116). -/
  | bfeU (o : LaneOp3)
  /-- bfi (R116). -/
  | bfi (o : LaneOp3)
  /-- ilv.2 (R118). -/
  | ilv2 (o : LaneOp3)
  /-- ilv.3 (R118). -/
  | ilv3 (o : LaneOp3)
  /-- dil.2 (R118). -/
  | dil2 (o : LaneOp3)
  /-- dil.3 (R118). -/
  | dil3 (o : LaneOp3)
  /-- rnd (R119). -/
  | rnd (o : LaneOp3)
  /-- fadd (R120). -/
  | fadd (o : LaneOp3)
  /-- fsub (R120). -/
  | fsub (o : LaneOp3)
  /-- fmul (R120). -/
  | fmul (o : LaneOp3)
  /-- ffma (R120). -/
  | ffma (o : LaneOp3)
  /-- fmin (R121). -/
  | fmin (o : LaneOp3)
  /-- fmax (R121). -/
  | fmax (o : LaneOp3)
  /-- fcmp.eq (R122). -/
  | fcmpEq (o : LaneOp3)
  /-- fcmp.lt (R122). -/
  | fcmpLt (o : LaneOp3)
  /-- fcmp.le (R122). -/
  | fcmpLe (o : LaneOp3)
  /-- fcmp.un (R122). -/
  | fcmpUn (o : LaneOp3)
  /-- fdiv (R120). -/
  | fdiv (o : LaneOp3)
  /-- frcp (R123). -/
  | frcp (o : LaneOp2)
  /-- frsq (R123). -/
  | frsq (o : LaneOp2)
  /-- fsqrt (R123). -/
  | fsqrt (o : LaneOp2)
  /-- fex2 (R123). -/
  | fex2 (o : LaneOp2)
  /-- flg2 (R123). -/
  | flg2 (o : LaneOp2)
  /-- fsinpi (R123). -/
  | fsinpi (o : LaneOp2)
  /-- fcospi (R123). -/
  | fcospi (o : LaneOp2)
  /-- hadd2 (R124). -/
  | hadd2 (o : LaneOp3)
  /-- hmul2 (R124). -/
  | hmul2 (o : LaneOp3)
  /-- hfma2 (R124). -/
  | hfma2 (o : LaneOp3)
  /-- hmin2 (R124). -/
  | hmin2 (o : LaneOp3)
  /-- hmax2 (R124). -/
  | hmax2 (o : LaneOp3)
  /-- cvt (R125). -/
  | cvt (o : CvtOp)
  /-- shfl.idx (R126). -/
  | shflIdx (o : Regs3)
  /-- shfl.xor (R126). -/
  | shflXor (o : Regs3)
  /-- shfl.up (R126). -/
  | shflUp (o : Regs3)
  /-- shfl.dn (R126). -/
  | shflDn (o : Regs3)
  /-- vote.any (R127). -/
  | voteAny (o : Regs2)
  /-- vote.all (R127). -/
  | voteAll (o : Regs2)
  /-- vote.ballot (R127). -/
  | voteBallot (o : Regs2)
  /-- qdx.c (R128). -/
  | qdxC (o : Regs2)
  /-- qdx.f (R128). -/
  | qdxF (o : Regs2)
  /-- qdy.c (R128). -/
  | qdyC (o : Regs2)
  /-- qdy.f (R128). -/
  | qdyF (o : Regs2)
  /-- brz (R137). -/
  | brz (o : LaneBranch)
  /-- brnz (R137). -/
  | brnz (o : LaneBranch)
  /-- fend (R139). -/
  | fend (o : ParkOnly)
  /-- fspawn (R140). -/
  | fspawn (o : Regs3)
  /-- mma (R233). -/
  | mma (o : MmaOp)
  /-- mmas (R233). -/
  | mmas (o : MmaOp)
  /-- ldb (R167). -/
  | ldb (o : MemOp)
  /-- stb (R167). -/
  | stb (o : MemOp)
  /-- atb.add (R169). -/
  | atbAdd (o : Regs3)
  /-- atb.exch (R169). -/
  | atbExch (o : Regs3)
  /-- atb.cas (R169). -/
  | atbCas (o : Regs3)
  /-- atb.and (R169). -/
  | atbAnd (o : Regs3)
  /-- atb.or (R169). -/
  | atbOr (o : Regs3)
  /-- atb.xor (R169). -/
  | atbXor (o : Regs3)
  /-- atb.min.u (R169). -/
  | atbMinU (o : Regs3)
  /-- atb.max.u (R169). -/
  | atbMaxU (o : Regs3)
  /-- atb.min.s (R169). -/
  | atbMinS (o : Regs3)
  /-- atb.max.s (R169). -/
  | atbMaxS (o : Regs3)
  /-- atb64.add (R169). -/
  | atb64Add (o : Regs3)
  /-- atb64.exch (R169). -/
  | atb64Exch (o : Regs3)
  /-- atb64.cas (R169). -/
  | atb64Cas (o : Regs3)
  /-- atb64.min.u (R169). -/
  | atb64MinU (o : Regs3)
  /-- atb64.max.u (R169). -/
  | atb64MaxU (o : Regs3)
  /-- redb.add (R169). -/
  | redbAdd (o : Regs3)
  /-- redb.fadd (R169). -/
  | redbFadd (o : Regs3)
  /-- redb.and (R169). -/
  | redbAnd (o : Regs3)
  /-- redb.or (R169). -/
  | redbOr (o : Regs3)
  /-- redb.xor (R169). -/
  | redbXor (o : Regs3)
  /-- redb.min.u (R169). -/
  | redbMinU (o : Regs3)
  /-- redb.max.u (R169). -/
  | redbMaxU (o : Regs3)
  /-- lds (R181). -/
  | lds (o : MemOp)
  /-- sts (R181). -/
  | sts (o : MemOp)
  /-- ats.add (R183). -/
  | atsAdd (o : Regs3)
  /-- ats.exch (R183). -/
  | atsExch (o : Regs3)
  /-- ats.cas (R183). -/
  | atsCas (o : Regs3)
  /-- ats.and (R183). -/
  | atsAnd (o : Regs3)
  /-- ats.or (R183). -/
  | atsOr (o : Regs3)
  /-- ats.xor (R183). -/
  | atsXor (o : Regs3)
  /-- ats.min.u (R183). -/
  | atsMinU (o : Regs3)
  /-- ats.max.u (R183). -/
  | atsMaxU (o : Regs3)
  /-- ats.min.s (R183). -/
  | atsMinS (o : Regs3)
  /-- ats.max.s (R183). -/
  | atsMaxS (o : Regs3)
  /-- lda (R181). -/
  | lda (o : MemOp)
  /-- sta (R181). -/
  | sta (o : MemOp)
  /-- ldw (R182). -/
  | ldw (o : Regs3)
  /-- cva (R241). -/
  | cva (o : MemOp)
  /-- acw (R242). -/
  | acw (o : MemOp)
  /-- trace (R317). -/
  | trace (o : Regs2)
  /-- tres (R317). -/
  | tres (o : Regs3)
  /-- gframe (R321). -/
  | gframe (o : Regs3)
  /-- gupd (R322). -/
  | gupd (o : Regs3)
  /-- smp (R350). -/
  | smp (o : Regs3)
  /-- smpd (R350). -/
  | smpd (o : Regs3)
  /-- smpl (R350). -/
  | smpl (o : Regs3)
  /-- ldimg (R351). -/
  | ldimg (o : MemOp)
  /-- stimg (R351). -/
  | stimg (o : MemOp)
  /-- emitv (R334). -/
  | emitv (o : Regs3)
  /-- emitp (R334). -/
  | emitp (o : Regs3)
  /-- export (R345). -/
  | exportPixel (o : Regs2)
  /-- uadd (R133). -/
  | uadd (o : Regs3)
  /-- usub (R133). -/
  | usub (o : Regs3)
  /-- umul (R133). -/
  | umul (o : Regs3)
  /-- uand (R133). -/
  | uand (o : Regs3)
  /-- uor (R133). -/
  | uor (o : Regs3)
  /-- uxor (R133). -/
  | uxor (o : Regs3)
  /-- ushl (R133). -/
  | ushl (o : Regs3)
  /-- ushr (R133). -/
  | ushr (o : Regs3)
  /-- usar (R133). -/
  | usar (o : Regs3)
  /-- ucmp.eq (R133). -/
  | ucmpEq (o : Regs3)
  /-- ucmp.ne (R133). -/
  | ucmpNe (o : Regs3)
  /-- ucmp.lt.s (R133). -/
  | ucmpLtS (o : Regs3)
  /-- ucmp.ge.s (R133). -/
  | ucmpGeS (o : Regs3)
  /-- ucmp.lt.u (R133). -/
  | ucmpLtU (o : Regs3)
  /-- ucmp.ge.u (R133). -/
  | ucmpGeU (o : Regs3)
  /-- uaddi (R134). -/
  | uaddi (o : UImm)
  /-- umovi (R134). -/
  | umovi (o : UImm17)
  /-- ului (R134). -/
  | ului (o : UImm17)
  /-- jmp (R135). -/
  | jmp (o : JumpOp)
  /-- ubrz (R135). -/
  | ubrz (o : LaneBranch)
  /-- ubrnz (R135). -/
  | ubrnz (o : LaneBranch)
  /-- call (R135). -/
  | call (o : JumpOp)
  /-- ret (R136). -/
  | ret (o : ParkOnly)
  /-- jr (R136). -/
  | jr (o : RegA)
  /-- rep (R78). -/
  | repImmediate (o : RepImm)
  /-- rep (R78). -/
  | repRegister (o : RepReg)
  /-- nop (R145). -/
  | nop (o : ParkOnly)
  /-- park (R145). -/
  | park (o : ParkOnly)
  /-- binit (R200). -/
  | binit (o : RegsAB)
  /-- barr (R200). -/
  | barr (o : Regs2)
  /-- barr.f (R200). -/
  | barrF (o : Regs2)
  /-- bexp (R200). -/
  | bexp (o : RegsAB)
  /-- bwait (R201). -/
  | bwait (o : RegsAB)
  /-- fence (R272). -/
  | fence (o : FenceOp)
  /-- batt (R186). -/
  | batt (o : Regs2)
  /-- bres (R187). -/
  | bres (o : Regs3)
  /-- bgive (R188). -/
  | bgive (o : RegsAB)
  /-- brel (R191). -/
  | brel (o : RegA)
  /-- bmap (R192). -/
  | bmap (o : Regs2)
  /-- cpy (R212). -/
  | cpy (o : EngOp3)
  /-- cpyo (R212). -/
  | cpyo (o : EngOp3)
  /-- gath (R212). -/
  | gath (o : EngOp3)
  /-- mcast (R214). -/
  | mcast (o : EngOp3)
  /-- cvdecl (R230). -/
  | cvdecl (o : CvdeclOp)
  /-- rinit (R206). -/
  | rinit (o : Regs2)
  /-- racq (R206). -/
  | racq (o : Regs2)
  /-- rdone (R206). -/
  | rdone (o : Regs2)
  /-- enq (R255). -/
  | enq (o : EngOp3)
  /-- deq (R255). -/
  | deq (o : EngOp3)
  /-- qarm (R255). -/
  | qarm (o : EngOp3)
  /-- qstat (R255). -/
  | qstat (o : EngOp3)
  /-- send (R362). -/
  | send (o : EngOp2)
  /-- recv (R363). -/
  | recv (o : EngOp3)
  /-- mstat (R365). -/
  | mstat (o : EngOp2)
  /-- coll (R371). -/
  | coll (o : EngOp2)
  /-- comp (R373). -/
  | comp (o : EngOp2)
  /-- bsr (R45). -/
  | bsr (o : BsD)
  /-- bsw (R45). -/
  | bsw (o : BsA)
  /-- bsadd (R45). -/
  | bsadd (o : BsDA)
  /-- srd (R141). -/
  | srd (o : SysOp)
  /-- swr (R141). -/
  | swr (o : SysOp)
  /-- time (R144). -/
  | time (o : RegD)
  /-- yield (R146). -/
  | yield (o : ParkOnly)
  /-- trap (R147). -/
  | trap (o : CodeOp)
  /-- brk (R147). -/
  | brk (o : CodeOp)
  /-- ntfy (R50). -/
  | ntfy (o : RegsAB)
  /-- rfetch (R260). -/
  | rfetch (o : HartOp)
  /-- xbfx (R260). -/
  | xbfx (o : HartOp)
  /-- swait (R260). -/
  | swait (o : HartOp)
  /-- disp (R260). -/
  | disp (o : HartOp)
  /-- RING_DOORBELL (R258). -/
  | ringDoorbell (ring : Nat) (wptr : Word)
  /-- LAUNCH (R249). -/
  | launch (ring : Nat)
  /-- QCFG (R258). -/
  | qcfg (ring : Nat)
  /-- QFLUSH (R257). -/
  | qflush (ring : Nat)
  /-- INVAL (R157). -/
  | inval (ring : Nat)
  /-- SIGNAL (R258). -/
  | signal (ring : Nat)
  /-- NOP_COMMAND (R258). -/
  | nopCommand (ring : Nat)
  /-- BLOCK_RESERVE (R250). -/
  | blockReserve (block : Nat)
  /-- GANG_RESERVE (R250). -/
  | gangReserve (launch : Nat)
  /-- LAUNCH_COMPLETION (R252). -/
  | launchCompletion (launch : Nat)
  /-- SUBSET_YIELD (R32). -/
  | subsetYield (group : Nat)
  /-- RESULT_RETURN (R35). -/
  | resultReturn (i : Nat)
  /-- CORE_WAKE (R47). -/
  | coreWake (core : Nat)
  /-- NOTIFY_WRITE_ARRIVAL (R49). -/
  | notifyWriteArrival (i : Nat)
  /-- RUN_AHEAD_STOP (R164). -/
  | runAheadStop (group : Nat)
  /-- ASYNC_FAULT_ENQUEUE (R283). -/
  | asyncFaultEnqueue (i : Nat)
  /-- TRAP_ENTRY (R286). -/
  | trapEntry (group : Nat)
  /-- FAULT_LOG_WRITE (R289). -/
  | faultLogWrite (i : Nat)
  /-- FLACK (R288). -/
  | flack (entry : Word)
  /-- GIVE_DRAIN_COMPLETE (R188). -/
  | giveDrainComplete (i : Nat)
  /-- RELEASE_DRAIN_COMPLETE (R191). -/
  | releaseDrainComplete (i : Nat)
  /-- BANK_CLEAR_DONE (R178). -/
  | bankClearDone (bank : Nat)
  /-- DELIVERY_LANDING (R190). -/
  | deliveryLanding (i : Nat)
  /-- BARRIER_UNIT_APPLY (R197). -/
  | barrierUnitApply (i : Nat)
  /-- COPY_COMMAND_COMPLETE (R215). -/
  | copyCommandComplete (command : Nat)
  /-- RING_FILL_START (R207). -/
  | ringFillStart (command : Nat)
  /-- RING_FILL_COUNT (R207). -/
  | ringFillCount (command : Nat)
  /-- MMA_SET_START (R234). -/
  | mmaSetStart (block core cv : Nat)
  /-- MMA_OP_COMPLETE (R234). -/
  | mmaOpComplete (i : Nat)
  /-- TRACE_COMPLETE (R317). -/
  | traceComplete (ray : Nat)
  /-- MESSAGE_ARRIVAL (R362). -/
  | messageArrival (i : Nat)
  /-- WB_MOVE (R265). -/
  | wbMove (w : MoveRef)
  /-- PROMOTION_SERVE (R271). -/
  | promotionServe (i : Nat)
  /-- SLICE_ATOMIC_APPLY (R170). -/
  | sliceAtomicApply (i : Nat)
  /-- HOST_MEM_ACCESS (R166). -/
  | hostMemAccess (access : HostAccess)
  /-- REGISTER_WRITE (R5). -/
  | registerWrite (offset : Nat) (value : Word)
  /-- UNASSIGNED_WORD (R67). -/
  | unassignedWord (w : Word)
  /-- HOST_WRITE_TO_HOST_LINE (R263). -/
  | hostWriteToHostLine (addr : Nat) (data : List Byte)
  /-- SWAIT_TIMEOUT (R260). -/
  | swaitTimeout (hart : Nat)
  /-- RING_ERR_CLEAR (R258). -/
  | ringErrClear (ring : Nat)
  /-- MIGRATE (R166). -/
  | migrate (ring : Nat)
  /-- MOVE (R259). -/
  | move (ring : Nat)
  /-- PREEMPT_REQUEST (R251). -/
  | preemptRequest (block victim : Nat)
  /-- PREEMPT_SAVE (R293). -/
  | preemptSave (block : Nat)
  /-- BLOCK_RESTORE (R294). -/
  | blockRestore (block : Nat)
  /-- CORE_CLOCK_GATE (R46). -/
  | coreClockGate (core : Nat)
  /-- CORE_POWER_GATE (R47). -/
  | corePowerGate (core : Nat)
  /-- BASE_DIE_BOX_TEST (R319). -/
  | baseDieBoxTest (ray : Nat)
  /-- COLLECTIVE_COMPLETE (R371). -/
  | collectiveComplete (entry : Nat) (others : List CollPart)
  /-- COMP_ARRIVAL (R374). -/
  | compArrival (source : CompFrom) (now : DWord)
  /-- TILE_CLOSE (R374). -/
  | tileClose (i : Nat) (now : DWord)
  /-- TILE_DELIVERY (R376). -/
  | tileDelivery (i : Nat)
  /-- SW_PATH_ENQUEUE (R341). -/
  | swPathEnqueue (pass : Nat)
  /-- TILE_RESOLVE (R342). -/
  | tileResolve (pass tile : Nat)
  /-- TILE_FINISH (R346). -/
  | tileFinish (pass tile : Nat)
  /-- PASS_DONE (R347). -/
  | passDone (pass : Nat)
  /-- FRAME_START (R352). -/
  | frameStart (head : Nat)
  /-- HEAD_LINK_UP (R352). -/
  | headLinkUp (head : Nat)
  /-- POINT_FILL (R266). -/
  | pointFill (point key : Nat)
  /-- POINT_DROP (R266). -/
  | pointDrop (point key : Nat)
  /-- HOST_NOTIFY_WRITE (R382). -/
  | hostNotifyWrite (offset : Nat) (value : Word)
  /-- CAP_WRITE (R381). -/
  | capWrite (value : Word)
  /-- CORRECTED_ERROR_COUNT_READ (R381). -/
  | correctedErrorCountRead (counter : CeCounter)
  /-- GROUP_TABLE_WRITE (R367). -/
  | groupTableWrite (offset : Nat) (value : Word)
  /-- BOOT_VERIFY (R387). -/
  | bootVerify (image : Option (List Byte))
  /-- FUNCTION_READY (R383). -/
  | functionReady (f : DevFunction)
  /-- AVMAL_LINK_DOWN (R384). -/
  | avmalLinkDown (port : Nat)
  /-- AVMAL_LINK_UP (R384). -/
  | avmalLinkUp (port fabricNumber : Nat)
  /-- TIME_STAMP_DISCIPLINE (R386). -/
  | timeStampDiscipline (ahead : Bool)
  /-- GET_CERTIFICATE (R387). -/
  | getCertificate (slot offset length : Nat)
  /-- CHALLENGE (R387). -/
  | challenge (slot : Nat) (nonce : BitVec 256)
  /-- GET_MEASUREMENTS (R387). -/
  | getMeasurements (index : Nat)
  /-- SIGNAL_LINE_SET (R260). -/
  | signalLineSet (line : Nat)
  /-- HEAD_LINK_LOST (R352). -/
  | headLinkLost (head : Nat)
  /-- SCAN_OUT_LINE (R352). -/
  | scanOutLine (head y : Nat) (late : Bool)
  /-- POWER_THERMAL_LIMIT (R389). -/
  | powerThermalLimit (r : PowerReading)
  /-- GOLDEN_SOURCE_ADVANCE (R357). -/
  | goldenSourceAdvance (die : Nat)
  /-- TSL_READ (R385). -/
  | tslRead
  /-- DEVICE_RESET (R387). -/
  | deviceReset
  /-- THERMAL_TRIP (R389). -/
  | thermalTrip
  /-- CLOCK_STEP_DOWN (R389). -/
  | clockStepDown
  /-- CLOCK_STEP_UP (R389). -/
  | clockStepUp
  /-- GET_VERSION (R387). -/
  | getVersion
  /-- GET_CAPABILITIES (R387). -/
  | getCapabilities
  /-- NEGOTIATE_ALGORITHMS (R387). -/
  | negotiateAlgorithms
  /-- GET_DIGESTS (R387). -/
  | getDigests
  deriving DecidableEq, Repr

end Sys2Proof
end

