-- ==== Sys2Proof/Config.lean ====
section
/-!
DEFINITION. What the model takes as fixed for one device, and the free values: constants without a body,
so that no proof can learn what they are. A free value is applied to the counter `free` of the state, or
to the operands it depends on.
-/
namespace Sys2Proof

/-- One turn of the machine: which agent makes the next step (12 R264-R268; DESIGN CHOICE, log 3). (DEDUCED, log 9.) -/
inductive Turn where
  /-- The next issue of a group. -/
  | issue (group : Nat)
  /-- The next instruction of a front-end hart. -/
  | hart (h : Nat)
  /-- An event of the opcode table. -/
  | event (i : Instr)
  /-- Ticks of the time-stamp counter pass (22 R385). -/
  | elapse (ticks : Nat)
  /-- A soft error spoils the residue of a register of one fibre (13 R295). -/
  | softRegister (group fibre reg : Nat)
  /-- A soft error spoils the next result a group's pipes produce (13 R295). -/
  | softResult (group : Nat)
  /-- An uncorrectable error strikes the 8 bytes of memory or bank that hold a location (13 R296). -/
  | softMemory (key : Nat)
  /-- A corrected error is counted (13 R296, 22 R381). -/
  | corrected (c : CeCounter)
  /-- The front end rewrites a compressed page with every line as is (07 R162). -/
  | pageRewrite (root va : Nat)
  deriving DecidableEq, Repr, Inhabited

/-- The turn that comes next when the schedule holds none (DESIGN CHOICE, log 3). -/
opaque Config.freeTurn : Nat → Turn

/-- A free choice among finitely many alternatives (DESIGN CHOICE, log 4): which of several cached translations an
access uses (07 R157), which position of equals is taken. -/
opaque Config.freeChoice : Nat → Nat

/-- A free byte (DESIGN CHOICE, log 4): device-private bytes of a save area (13 R292). -/
opaque Config.freeByte : Nat → Byte

/-- A free word (DESIGN CHOICE, log 4). -/
opaque Config.freeWord : Nat → Word

/-- The fabric groups that the switches hold, as their manager has configured them (20 R367): a group's number of
ranks by its GID (DESIGN CHOICE, log 27). -/
opaque Config.switchGroup : Nat → Option Nat

/-- Bytes of hart-local memory; 11 R260 gives no size (DESIGN CHOICE, log 11). -/
opaque Config.hartLocalSize : Nat

/-- Whether the boot ROM's key verifies a firmware image (22 R387; PRESUMED, log 12). -/
opaque Config.imageVerifies : List Byte → Bool

/-- The certificate chain of a slot (22 R387; PRESUMED, log 12). -/
opaque Config.certificateChain : Nat → List Byte

/-- The signature that the identity key makes over a transcript (22 R387; PRESUMED, log 12). -/
opaque Config.identitySignature : List Byte → List Byte

end Sys2Proof
end

