-- ==== Sys2Proof/Machine/State.lean ====
section
/-!
DEFINITION. The state of the Emmeuno: everything the spec gives the machine, as plain data, and the
state after reset. Things that come and go (groups, blocks, launches, commands, results on their way)
are kept in tables from a serial number to a record; large arrays are kept as sparse tables that list
only the entries that differ from their reset value.
-/
namespace Sys2Proof.Machine

/-- A sparse array, or a table of records: keys strictly rising. -/
abbrev Sparse (β : Type) := List (Nat × β)

/-- Memory and banks: one byte per listed address, addresses strictly rising, no byte 0 listed (DESIGN CHOICE, log 1). -/
abbrev Memory := List Host.Cell

/-! ### Faults of the device (13 R278-R282) -/

/-- The causes of R278. -/
inductive Cause where
  | illegal | window | pending | nonuniform | repeats | converge | xlate | protect | migrate | bounds
  | format | detached | bankbound | spacekind | give | overrun | msgovf | queue | node | depth | residue
  | ecc | trap | brk
  deriving DecidableEq, Repr

/-- A fault record (R281): cause, source, faulting lane of the slot, PC, time stamp and operands. -/
structure FaultRec where
  cause : Cause
  async : Bool
  lane : Nat
  src : Nat
  pc : CodeAddr
  time : DWord
  ops : List Word
  xops : Word
  deriving DecidableEq, Repr

/-- Who sent a unit or command: the group, its number in its block, the block, the core, and the block's
resident number there. -/
structure Origin where
  group : Nat
  num : Nat
  block : Nat
  core : Nat
  resident : Nat
  deriving DecidableEq, Repr

/-! ### The ordering machine (12) -/

/-- A tag: core, scope and number of the release (R270). -/
structure Tag where
  core : Nat
  scope : Scope
  rel : Nat
  deriving DecidableEq, Repr

/-- The compression of a page (07 R162): scheme, page base and page size. -/
structure Comp where
  scheme : Nat
  base : Nat
  size : Nat
  deriving DecidableEq, Repr

/-- An entry of a write buffer (12 R261). The halves say which half bytes it writes (a 4-bit element
writes one); `full` says that its access covers the whole 8 bytes around it (13 R296); `seq` is its place in the
order of entering. -/
structure WbEntry where
  core : Nat
  key : Nat
  lo : Bool
  hi : Bool
  val : Byte
  full : Bool
  comp : Option Comp
  group : Nat
  tag : Option Tag
  seq : Nat
  deriving DecidableEq, Repr

/-- A write pending at a point (R265). Points: a core, or 192 + a cluster. -/
structure PointWrite where
  point : Nat
  entry : WbEntry
  deriving DecidableEq, Repr

/-- A point's copy of one half byte; `loc` is twice the key, plus one for the high half (R261). -/
structure PointCopy where
  point : Nat
  loc : Nat
  val : BitVec 4
  tag : Option Tag
  deriving DecidableEq, Repr

/-- A promotion request (R271): the core that must move its writes, up to which entry, for whom. -/
structure Promotion where
  core : Nat
  before : Nat
  group : Nat
  deriving DecidableEq, Repr

structure Order where
  wb : List WbEntry
  writes : List PointWrite
  copies : List PointCopy
  homeTags : Sparse Tag
  curTags : Sparse Tag
  promotions : List Promotion
  seq : Nat
  deriving DecidableEq, Repr

/-! ### Results on their way to registers (02 R34, R35) -/

/-- Who produces a pending result: what R46 tells apart. -/
inductive Producer where
  | load | atomic | bankSwitch | port | queueUnit | copyEngine | traversal | message | fabric
  deriving DecidableEq, Repr

/-- A result that has been produced and not yet written: one lane's, or every lane's; the status of a message or
fabric command frees that command's slot (20 R359, R369); `bank` names the bank that a lane access read it from (08 R189). -/
structure Result where
  group : Nat
  lane : Option Nat
  reg : Nat
  vals : List Word
  spec : Bool
  command : Option Nat := none
  bank : Option Nat := none
  deriving DecidableEq, Repr

/-! ### Groups and fibres (02, 06) -/

/-- A fibre's own state besides its registers (02 R15, R16; 03 R78; 06 R143; 11 R246). `flags` holds the
stored bits of the predicate word: HELP, TRAP and the sticky flags. -/
structure Fibre where
  pc : CodeAddr
  flags : Word
  repc : Word
  link : CodeAddr
  lvl : List Word
  rewait : Bool
  deriving DecidableEq, Repr

/-- What the matrix scoreboard holds a word on (10 R230, R235): the registers that it would write in its lanes and in every
lane, the bank locations of the entries that it would access, and the Closed convergence register that it declares. -/
structure MatrixHold where
  laneW : List Nat := []
  uniW : List Nat := []
  entries : List Nat := []
  closed : Option Nat := none
  deriving DecidableEq, Repr

/-- What a waiting subset waits for. -/
inductive Wait where
  /-- Nothing: it is eligible. -/
  | none
  /-- A park marker (02 R36). -/
  | park
  /-- A phase other than the given one, of the object at a bank location (09 R201); `park` says that the
  word carried the park marker. -/
  | phase (bank off : Nat) (p : Word) (park : Bool)
  /-- The matrix scoreboard (10 R235). -/
  | matrix (h : MatrixHold)
  /-- The end of another subset's handler, to enter its own (13 R286). -/
  | handler (f : FaultRec)
  /-- The last pending bit, to enter the handler (13 R286); `skip` advances the resume PC by 4. -/
  | entry (f : FaultRec) (skip : Bool)
  deriving DecidableEq, Repr

/-- A subset: the fibres at one PC (02 R29), its wait, the group's issue count when its waiting time
started, and its own issue count while it is current (R32). -/
structure Subset where
  mask : Mask
  wait : Wait
  since : Nat
  count : Nat
  deriving DecidableEq, Repr

/-- A page of a fault batch (07 R165). -/
structure BatchPage where
  vpn : Nat
  migrating : Bool
  fetch : Bool
  write : Bool
  deriving DecidableEq, Repr

/-- Why a whole group issues nothing. -/
inductive GroupHold where
  /-- A report waits for the fault log, or the front end for the host (13 R288, R289). -/
  | report
  /-- Work stopped on MIGRATE at an address (13 R288). -/
  | migrating (va : Nat)
  /-- The host has refused a page for a group that is saved: its fault is taken after the restore (13 R288, R294). -/
  | answered (f : FaultRec)
  deriving DecidableEq, Repr

/-- The checkpoint and batch of a run-ahead (07 R164). -/
structure RunAhead where
  regs : Sparse Word
  pend : Sparse Producer
  bad : List Nat
  fibres : Sparse Fibre
  current : Option Subset
  waiting : List Subset
  tags : List Tag
  fault : FaultRec
  batch : List BatchPage
  count : Nat
  stop : Bool
  deriving DecidableEq, Repr

/-- A fault that has entered the fault queue of its group (13 R283). -/
abbrev QueuedFault := FaultRec

/-- A pixel fibre that the tile unit creates, by its number in its block (18 R343-R345): pixel, coverage mask,
whether it is a helper, the sequence number of its primitive, the registers it starts with, and what it last
exported: the mask and the four channels. -/
structure PixelFibre where
  index : Nat
  x : Nat
  y : Nat
  mask : Word
  helper : Bool
  seq : Nat
  regs : List Word
  shown : Option (Word × List Word)
  deriving DecidableEq, Repr

/-- A group. Register keys are 128 · fibre index + register. `repeating` says that its current subset stands
between two iterations of a `rep` (03 R76, R79). -/
structure Group where
  block : Nat
  num : Nat
  core : Nat
  part : Nat
  row : Nat
  first : Nat
  width : Nat
  wbase : Nat
  wsize : Nat
  regs : Sparse Word
  pend : Sparse Producer
  bad : List Nat
  badResult : Bool
  fibres : Sparse Fibre
  current : Option Subset
  waiting : List Subset
  issues : Nat
  fcause : Word
  fpc : Word
  fpcHi : Word
  ftime : Word
  ftimeHi : Word
  xops : Word
  fops : List Word
  faults : List QueuedFault
  tags : List Tag
  hold : Option GroupHold
  runAhead : Option RunAhead
  rasterPass : Option Nat
  rasterBatch : Nat
  pixels : List PixelFibre
  repeating : Bool
  deriving DecidableEq, Repr

/-! ### Blocks, banks and convergence registers (02 R42, 08, 10) -/

/-- The bank spaces (08 R172). -/
inductive Space where
  | scr | act | wgt | acc
  deriving DecidableEq, Repr

/-- The state of a slot (08 R175). A reserved slot names its reservation table entry, the barrier address
and that barrier's bank with its generation; a give may have been accepted, and the reservation may have
been cancelled after that. A pre-empted block's slot may stand for image `k` of its save area. -/
inductive SlotState where
  | empty
  | mapped (bank : Nat)
  | reserved (entry : Nat) (bar : Word) (barBank : Nat) (barGen : BitVec 8) (accepted cancelled : Bool)
  | image (k : Nat)
  deriving DecidableEq, Repr

structure Slot where
  space : Space
  num : Nat
  st : SlotState
  deriving DecidableEq, Repr

/-- A signature of a convergence set (10 R233). -/
structure Signature where
  group : Nat
  lane : Nat
  pos : Nat
  reg : Nat
  regs : Nat
  deriving DecidableEq, Repr

/-- A set that is open or closed (10 R229). `first` is the first signature's sender, PC and partition, `word` its word,
`regions` the (bank, offset, bytes) of C; `lost` says that a slot of A, C or the fence object has been released or given
since (R237); `seq` is the place of the last signature in the order of entering; `closed` is the number of its closing. -/
structure CvSet where
  scope : CvScope
  count : Nat
  sigs : List Signature
  first : Option (Origin × CodeAddr × Nat)
  word : Word
  params : List Word
  regions : List (Nat × Nat × Nat)
  aBank : Nat
  barBank : Option Nat
  lost : Bool
  seq : Nat
  closed : Option Nat
  deriving DecidableEq, Repr

/-- A started matrix operation (10 R234): the word and parameters, and by position the registers that were
captured, with the array quarters it uses. -/
structure MatOp where
  org : Origin
  cv : Nat
  scope : CvScope
  count : Nat
  word : Word
  params : List Word
  pc : CodeAddr
  regions : List (Nat × Nat × Nat)
  aBank : Nat
  quarters : List Nat
  captured : List (Nat × List Word)
  signers : List Nat
  seq : Nat
  closed : Nat
  deriving DecidableEq, Repr

/-- The place of a block on one core: its resident number, its bank-map registers and its convergence
registers there (02 R42, 08 R176, 10 R228). -/
structure Seat where
  core : Nat
  resident : Nat
  bm : List Nat
  cv : List Nat
  deriving DecidableEq, Repr

/-- Where a block stands (11 R250, R259; 13 R293). -/
inductive BlockPhase where
  | waiting
  | running
  | stopping
  | saved
  /-- A restore found its area spoilt (13 R292): the front end ends it. -/
  | failed
  deriving DecidableEq, Repr

/-- A place of a group on a core, and the live fibres there (02 R398). -/
structure Spot where
  part : Nat
  row : Nat
  first : Nat
  width : Nat
  wbase : Nat
  wsize : Nat
  fibres : Nat
  deriving DecidableEq, Repr

/-- A give that has been accepted, or a release, until its drain ends (08 R188, R191). -/
structure Drain where
  bank : Nat
  give : Option (Nat × Space × Nat)
  bar : Word
  barBank : Nat
  barGen : BitVec 8
  org : Origin
  pc : CodeAddr
  word : Word
  slotAddr : Word
  before : Nat
  deriving DecidableEq, Repr

/-- A block. Its slots keep what is in its windows; `cores` are the cores it is placed on, in ascending order,
and `seats` its places there while it is on them. `issued` says that its first issue has acquired (12 R273).
`yieldsTo` is the block that pre-empts it, and `freed` the banks that such blocks have released for it (13 R293). `moveTo` is
the entry of a MOVE and its ring, `reserved` and `newBanks` what its new cores hold for it, and `moveRing` the ring whose MOVE
completes at its next issue (11 R259). -/
structure Block where
  launch : Nat
  num : Nat
  entry : Word
  phase : BlockPhase
  cores : List Nat
  seats : List Seat
  groups : List Nat
  bs : List Word
  tvec : Word
  tvecHi : Word
  slots : List Slot
  cvs : Sparse CvSet
  area : Nat
  areaLen : Nat
  started : Nat
  issued : Bool
  pixels : List PixelFibre
  arrivals : List Drain
  saved : List (Nat × Group)
  yieldsTo : Option Nat
  freed : List Nat := []
  moveTo : Option (Word × Nat)
  reserved : List (Seat × List (Nat × Spot))
  newBanks : List Nat
  moveRing : Option Nat
  deriving DecidableEq, Repr

/-- A fault that a unit has found and that has not entered a fault queue, or a report (13 R283), with the
status word the unit writes when it enters, and the copy command whose slot it then frees. -/
structure HeldFault where
  org : Origin
  f : FaultRec
  result : Option Result
  command : Option Nat
  deriving DecidableEq, Repr

/-! ### Operations on their way to memory slices and bank ports (07 R170, 08 R183, 09 R197) -/

/-- The operations of `atb`, `ats` and `redb` (07 R169). -/
inductive AtomOp where
  | add | exch | cas | and | or | xor | minU | maxU | minS | maxS | fadd
  deriving DecidableEq, Repr

/-- One lane's part of an atomic: the location, the operand and, for cas, the new value. -/
structure AtomLane where
  lane : Nat
  key : Nat
  comp : Option Comp
  v : DWord
  new : DWord
  deriving DecidableEq, Repr

/-- The lanes of one atomic or reduction that touch one line, on their way to its slice (07 R170). `pass` is set
for a contribution that a raster back end makes to a visibility buffer (18 R339). -/
structure SliceOp where
  org : Origin
  op : AtomOp
  wide : Bool
  dest : Option Nat
  lanes : List AtomLane
  pc : CodeAddr
  word : Word
  tag : Option Tag
  seq : Nat
  pass : Option Nat
  deriving DecidableEq, Repr

/-- What a unit does at a bank port (09 R197). -/
inductive PortOp where
  | binit (expa : Nat)
  | arrive (k : Nat) (dest : Option Nat)
  | expect (n : Nat)
  | ringInit (dest : Nat)
  | ringAcquire (dest : Nat)
  | ringDone (dest : Nat)
  | atomic (op : AtomOp) (dest : Nat) (lanes : List AtomLane)
  deriving DecidableEq, Repr

/-- A unit on its way to the port of a bank; `also` gives the bank and offset of FREE and of FILL, the barrier objects that
a ring unit works on (09 R206). -/
structure PortUnit where
  org : Origin
  bank : Nat
  off : Nat
  op : PortOp
  pc : CodeAddr
  word : Word
  addr : Word
  seq : Nat
  tag : Option Tag
  also : List (Nat × Nat) := []
  deriving DecidableEq, Repr

/-! ### The bank switch (08) -/

/-- Where a bank is (08 R178). -/
inductive BankState where
  | free
  | clearing
  | held
  deriving DecidableEq, Repr

/-- A reservation table entry (08 R187): its sequence number, and the reserving block and slot. -/
structure ResEntry where
  seq : BitVec 24
  owner : Option (Nat × Space × Nat)
  deriving DecidableEq, Repr

/-- What a delivery is part of (08 R190). -/
inductive DeliveryOf where
  | mcast (command : Nat) (target : Nat)
  | message (receive : Nat)
  | collective (command : Nat)
  deriving DecidableEq, Repr

/-- A delivery on its way to a bank, with the generations taken at acceptance (08 R190, 09 R214). -/
structure Delivery where
  of : DeliveryOf
  block : Nat
  space : Space
  slot : Nat
  bank : Nat
  gen : BitVec 8
  off : Nat
  data : List Byte
  side : List (Nat × Byte)
  ready : Bool
  bar : Option (Nat × Nat × BitVec 8)
  count : Nat
  deriving DecidableEq, Repr

/-! ### The copy engine (09 R208-R217) -/

/-- The functions of the copy engine (09 R208). -/
inductive CopyFn where
  | cpy | cpyo | gath | mcast
  deriving DecidableEq, Repr

/-- Where a copy command stands. -/
inductive CopyPhase where
  /-- Accepted; a ring fill waits for its slot. -/
  | queued
  /-- A ring fill has its slot and has written it (09 R207). -/
  | filled
  /-- Stopped at a line for page service, after `done` elements (09 R216). -/
  | stopped
  /-- An `mcast` waits for its deliveries. -/
  | delivering
  /-- Withdrawn by a pre-emption (13 R293). -/
  | withdrawn
  deriving DecidableEq, Repr

/-- A command in one of the 16 slots of a core's copy engine: its operand record and progress. `space` is the space of
its bank side, `bankOff` the offset of its data there; for a ring fill both are the slot's, and `slots` is the ring's
number of slots (09 R207). -/
structure CopyCmd where
  org : Origin
  slot : Nat
  fn : CopyFn
  pc : CodeAddr
  word : Word
  t : List Word
  record : List Word
  vc : Word
  c : Nat
  root : Nat
  seq : Nat
  fill : Option Nat
  phase : CopyPhase
  next : Nat
  stale : Nat
  waiting : Nat
  space : Nat
  slots : Nat
  bankSlot : Nat
  bankOff : Nat
  bank : Nat
  area : Nat
  listBank : Nat
  banks : List Nat
  barBank : Nat
  barOff : Nat
  ring : Option Nat
  migrating : Option Nat
  service : Option Nat
  deriving DecidableEq, Repr

/-! ### The traversal unit (16) -/

/-- What a lane has asked of the traversal unit (16 R317, R320). -/
inductive RayOp where
  | ray
  | gframe
  | gupd
  deriving DecidableEq, Repr

/-- A state record (16 R315). `trail` and `bpath` are the bit fields of three bits a step. -/
structure Trail where
  kind : Nat
  depth : Nat
  trail : Nat
  hit : Bool
  tbest : Word
  bprim : Word
  bu : Word
  bv : Word
  bpath : Nat
  bdepth : Nat
  check : Word
  deriving DecidableEq, Repr

/-- Where a traversal goes on: from the root; at the procedural leaf of its state record, which it finishes with
a parameter; from its state record; or from where the unit itself left it. A parameter that is still to be
offered is carried along (16 R317, R328). -/
inductive RayMode where
  | fresh
  | tres (t : Word)
  | record (offer : Option Word)
  | inner (t : Trail) (offer : Option Word)
  deriving DecidableEq, Repr

/-- Where a lane's operation stands (16 R328): the fault of a refused one waits for the trap return. -/
inductive RayPhase where
  | queued
  | stopped
  | migrating (va : Nat)
  | refused (f : FaultRec)
  deriving DecidableEq, Repr

/-- A lane's operation in the traversal unit: the registers captured at issue (a ray record, or a handle with
its operands and the root pair), the key of its state record, and for `gupd` the number of its instruction and the key
of the leaf that its walk found at issue. -/
structure Ray where
  org : Origin
  lane : Nat
  op : RayOp
  pc : CodeAddr
  word : Word
  dest : Nat
  regs : List Word
  mode : RayMode
  record : Nat
  root : Nat
  seq : Nat
  tag : Option Tag
  unit : Nat
  line : Option Nat
  phase : RayPhase
  deriving DecidableEq, Repr

/-! ### Launches, queues and the front end (11) -/

/-- The fields of a launch record (11 R243). -/
structure LaunchRec where
  code : Nat
  map : Nat
  root : Nat
  narg : Nat
  nowait : Bool
  gang : Bool
  head : Nat
  blklvl : Nat
  nlvl : Nat
  cls : Nat
  ncv : Nat
  nacc : Nat
  nwgt : Nat
  nact : Nat
  nscr : Nat
  ra : Nat
  wid : Nat
  lvls : List Word
  args : List Word
  deriving DecidableEq, Repr

/-- How far the completion word of a launch is (11 R252, 13 R288). -/
inductive WordPhase where
  | due
  | service
  | migrating (va : Nat)
  deriving DecidableEq, Repr

/-- A launch, from its command until its completion word. `source` orders it (11 R250): a ring number, or
64 plus a queue number; `comp` is the completion address. Block b has the serial number `first` + b; `left`
blocks have not ended. `flush` holds, for every ended block, a core and the place of the block's end in the
order of entering. `status`, `reason` and `place` make up the completion word. `slow` says that the command
that brought it completes with the word. -/
structure Launch where
  record : LaunchRec
  recPa : Nat
  source : Nat
  stamp : DWord
  comp : Nat
  rank : Nat
  map : List Word
  first : Nat
  count : Nat
  left : Nat
  gang : Bool
  unitCores : Sparse Nat
  flush : List (Nat × Nat)
  status : Nat
  reason : Nat
  place : Nat
  noRoot : Option Cause
  word : WordPhase
  ring : Option Nat
  slow : Bool
  queue : Option (Nat × Nat × Nat)
  pass : Option (Nat × Nat)
  deriving DecidableEq, Repr

/-- The barrier object that a queue is armed with, and the group that armed it (11 R255). -/
structure Arm where
  bank : Nat
  off : Nat
  gen : BitVec 8
  org : Origin
  pc : CodeAddr
  word : Word
  deriving DecidableEq, Repr

/-- A configured hardware queue (11 R253). `launched` counts the blocks it has launched; `claims` are the
runs of claimed records that FREE has not passed: first index, count, and whether their block has ended. -/
structure Queue where
  base : Nat
  root : Nat
  binding : Nat
  log2cap : Nat
  batch : Nat
  tail : Word
  head : Word
  free : Word
  armed : Option Arm
  launched : Nat
  claims : List (Nat × Nat × Bool)
  deriving DecidableEq, Repr

/-! ### The raster pipeline (18) -/

/-- An open batch: the core of its group, the vertex slots that were written, and the primitive slots (R333). -/
structure Batch where
  core : Nat
  vtx : Sparse (List Word)
  prim : Sparse Nat
  deriving DecidableEq, Repr

/-- An assembled triangle: its primitive id and its three vertex slots of eight words (R335). -/
structure Prim where
  id : Word
  verts : List (List Word)
  deriving DecidableEq, Repr

/-- A resolved tile (R342-R346): the bytes of the target tile, the launch of its pixel blocks, and whether it is
finished. -/
structure PassTile where
  bytes : List Byte
  launch : Option Nat
  finished : Bool
  deriving DecidableEq, Repr

/-- A raster unit has stopped at a page (R399): address, tile, and whether the page migrates. -/
structure PassStop where
  va : Nat
  tile : Nat
  migrating : Bool
  deriving DecidableEq, Repr

/-- An open pass (R331, R332): its record as it was read, the launch that opened it, its batches, its counters,
the contributions that are not yet on their way (address, word, core), the records that wait for the software
queue, its resolved tiles, the pixel launch record once checked, and how it ends. -/
structure Pass where
  va : Nat
  root : Nat
  launch : Nat
  record : List Word
  batches : Sparse Batch
  closed : Nat
  counts : List Nat
  prims : List Prim
  todo : List (Nat × DWord × Nat)
  nextBatch : Nat
  held : Sparse (List (Nat × DWord × Nat))
  flush : List (Nat × Nat)
  soft : List (List Byte)
  softUsed : Bool
  flushed : Bool
  tiles : Sparse PassTile
  pix : Option LaunchRec
  status : Nat
  reason : Nat
  sub : Nat
  stop : Option PassStop
  deriving DecidableEq, Repr

/-- A display head (R352, 20 R376, 21 R378): its registers, what it latched at its last frame start (image address, address space,
width, height, rgba8), and the line it sent last: its number and its pixels' colours. -/
structure Head where
  base : Word
  baseH : BitVec 20
  root : Word
  rootH : BitVec 8
  size : Word
  en : Bool
  fmt : Bool
  bpc10 : Bool
  lanes : BitVec 2
  rate : BitVec 3
  period : Word
  linkUp : Bool
  under : Bool
  drop : Bool
  deadline : DWord
  frames : Word
  siga : Word
  sigaH : BitVec 20
  missing : DWord
  lframe : Word
  image : Option (Nat × Nat × Nat × Nat × Bool)
  lines : List Nat
  line : Option (Nat × List (Option (Nat × Nat × Nat)))
  sent : Option (Nat × List (Nat × Nat × Nat))
  deriving DecidableEq, Repr

/-! ### Messages and the fabric (20) -/

/-- A posted receive (20 R363): the block and cluster, the match, the landing place with the generations of its
bank and of the barrier's bank. -/
structure Receive where
  block : Nat
  cluster : Nat
  any : Bool
  scl : Nat
  tag : Word
  cap : Nat
  slot : Nat
  bank : Nat
  gen : BitVec 8
  off : Nat
  bar : Nat × Nat × BitVec 8
  deriving DecidableEq, Repr

/-- An entry of a cluster's overflow queue (20 R362). -/
structure Overflow where
  cluster : Nat
  root : Nat
  source : Nat
  tag : Word
  data : List Byte
  deriving DecidableEq, Repr

/-- A `send` or `recv` that holds a message slot of its core until its status is written (20 R359, R362);
`flying` says that its message has not been settled. -/
structure Message where
  org : Origin
  pc : CodeAddr
  c : Nat
  words : List Word
  dest : Nat
  tag : Word
  data : List Byte
  root : Nat
  flying : Bool
  deriving DecidableEq, Repr

/-- What a fabric command carries: a contribution to collective k of a group table entry (R371), or a
compositing packet (R372); a refused one still names its entry, where there is one (R367). -/
inductive FabricWork where
  | coll (entry : Nat) (k : Word) (op : Nat) (data : List Byte)
  | comp (entry : Nat) (packet : List Byte)
  | refused (entry : Option Nat)
  deriving DecidableEq, Repr

/-- A fabric command that holds a slot of its core until its status is written (20 R369). -/
structure FabricCmd where
  org : Origin
  pc : CodeAddr
  c : Nat
  words : List Word
  plane : Nat
  work : FabricWork
  flying : Bool
  deriving DecidableEq, Repr

/-- An entry of the group table (20 R367). -/
structure GroupEntry where
  valid : Bool
  myrank : BitVec 10
  gid : BitVec 16
  nrank : BitVec 10
  late : Word
  seq : Word
  deriving DecidableEq, Repr

/-- The key of a compositing tile: GROUP, FRAME, TX and TY (20 R374). -/
structure TileKey where
  group : Nat
  frame : Nat
  tx : Nat
  ty : Nat
  deriving DecidableEq, Repr

/-- A tile that a switch holds open: what its first header gave, and the contributions by rank (20 R374). -/
structure OpenTile where
  key : TileKey
  deadline : Nat
  mode : Nat
  dkind : Nat
  ddev : Nat
  dhead : Nat
  dpa : Nat
  parts : Sparse (List Byte)
  deriving DecidableEq, Repr

/-- One atomic write of a delivery: the address and bytes of one pixel of a scan-out image, or of its signature (21 R379). -/
structure PixelWrite where
  root : Nat
  va : Nat
  data : List Byte
  deriving DecidableEq, Repr

/-- A merged tile on its way to its destination (20 R376): MISSING, its time of closing, and 3,072 bytes. Once its
delivery to a head has begun, the pixels still to be written, and the signature that follows them (21 R379). -/
structure ClosedTile where
  key : TileKey
  dkind : Nat
  ddev : Nat
  dhead : Nat
  dpa : Nat
  missing : Nat
  closedAt : DWord
  data : List Byte
  pixels : Option (List PixelWrite)
  sig : Option PixelWrite
  deriving DecidableEq, Repr

/-- The message units, the fabric engines, and what the switches hold for them; `clocks` is the last time, by plane, at which
something happened at a switch (20 R374). -/
structure Fabric where
  receives : List Receive
  overflow : List Overflow
  messages : Sparse Message
  commands : Sparse FabricCmd
  fabid : Option (BitVec 10)
  table : Sparse GroupEntry
  open_ : List OpenTile
  shut : List ClosedTile
  closed : List TileKey
  clocks : Sparse Nat := []
  deriving DecidableEq, Repr

/-! ### The host's side (22) -/

/-- The answers of the boot ROM to SPDM requests (22 R387). -/
inductive SpdmAnswer where
  | versions (l : List (Nat × Nat))
  | capabilities (cert chal meas keyExchange : Bool)
  | algorithms (hash asym : String)
  | digests (l : List (Nat × List Byte))
  | certificate (portion : List Byte) (remainder : Nat)
  | challengeAuth (digest nonce signature : List Byte)
  | measurements (l : List (Nat × List Byte))
  | error
  deriving DecidableEq, Repr

/-- The SPDM requester's connection: the bytes exchanged so far, and the last answer. -/
structure Spdm where
  transcript : List Byte
  answer : Option SpdmAnswer
  deriving DecidableEq, Repr

/-- A command ring (11 R258). `late` counts the commands that were fetched and complete later. -/
structure Ring where
  base : Word
  host : Bool
  baseH : BitVec 24
  en : Bool
  err : Bool
  log2n : BitVec 5
  wptr : Word
  rptr : Word
  done : Word
  late : Nat
  deriving DecidableEq, Repr

/-- A MIGRATE command between its second and its third step (07 R166): its ring, address space, page, and the
new physical address. -/
structure Migration where
  ring : Nat
  root : Nat
  va : Nat
  pa : Nat
  host : Bool
  deriving DecidableEq, Repr

/-- A front-end hart (11 R260; the base RV64 state is PRESUMED, log 10). -/
structure Hart where
  regs : Sparse DWord
  pc : DWord
  mepc : DWord
  mcause : DWord
  mtval : DWord
  mtvec : DWord
  mstatus : DWord
  fregs : Sparse DWord
  fcsr : Word
  local_ : Memory
  waiting : Option (BitVec 5 × DWord)
  deriving DecidableEq, Repr

/-- The kinds of fault log entries (13 R289). -/
inductive ReportKind where
  | blockEnded | pageService | endedGroup | completion
  deriving DecidableEq, Repr

/-- Who is stopped for a page service. -/
inductive ServiceOf where
  | group (g : Nat)
  | command (c : Nat)
  | ray (r : Nat)
  | completion (launch : Nat)
  | pass (p : Nat)
  | none
  deriving DecidableEq, Repr

/-- A report to the host, waiting for room in the fault log or, once written as entry `index`, for the
host's answer (13 R288, R289). -/
structure Report where
  kind : ReportKind
  f : FaultRec
  core : Nat
  resident : Nat
  group : Nat
  block : Nat
  of : ServiceOf
  words : List Word
  index : Option Nat
  deriving DecidableEq, Repr

/-- The fault log and save pool registers (13 R289); `pool` is the pool in effect: its base and its bytes. -/
structure FaultLog where
  saveBase : Word
  saveBaseH : BitVec 24
  saveLen : Word
  base : Word
  host : Bool
  baseH : BitVec 24
  en : Bool
  log2n : BitVec 5
  wptr : Word
  rptr : Word
  pool : Nat × Nat
  deriving DecidableEq, Repr

/-! ### Translation (07 R155-R157) -/

/-- The outcome of a table walk. -/
inductive Walk where
  | absent
  | malformed
  | leaf (level : Nat) (entry : DWord)
  deriving DecidableEq, Repr

/-- A table entry of an address space that the device has cached (07 R157): its place, the virtual addresses that it
stands for, its contents, and the ranges that invalidations have covered since. -/
structure CachedEntry where
  root : Nat
  addr : Nat
  first : Nat
  span : Nat
  entry : DWord
  gone : List (Nat × Nat)
  deriving DecidableEq, Repr

/-! ### Cores (02 R46-R49, 18 R338) -/

inductive Gate where
  | running | clock | power
  deriving DecidableEq, Repr

/-- The registers of a core; `due` holds the reasons of a wake that has not happened yet (02 R47). -/
structure Core where
  wakeFrom : BitVec 2
  wakeBits : BitVec 4
  due : BitVec 4
  rasthr : Word
  gate : Gate
  deriving DecidableEq, Repr

/-- A notify write on its way (02 R50). Where the release of its `ntfy` still waits for a `gupd`, `sent` names the group
and its core, and the place of the `ntfy` in the order of entering. -/
structure NotifyWrite where
  core : Nat
  reg : Nat
  value : Word
  sent : Option (Nat × Nat × Nat) := none
  deriving DecidableEq, Repr

/-! ### Power, readiness and the status block (22) -/

/-- The core clock in MHz, its cap, and what the sensors last reported (22 R388, R389): power above 2,200 W,
a die at or above 105 °C, power below 2,100 W and every die below 95 °C; the trip. -/
structure Power where
  mhz : BitVec 10
  cap : BitVec 10
  hot : Bool
  overPower : Bool
  low : Bool
  cool : Bool
  trip : Bool
  deriving DecidableEq, Repr

/-- The status block (22 R381): the readiness bits, the latched half of the counter, the counts of corrected
errors, the boot state, the measurement registers (22 R387) and the ticks since the counter was last
disciplined (22 R386). -/
structure Status where
  fe : Bool
  cxl : Bool
  heads : BitVec 4
  clusters : BitVec 16
  hbm : BitVec 8
  ports : BitVec 18
  tsh : Word
  ceBank : Word
  ceSlice : Word
  ceHbm : Word
  boot : BitVec 8
  measures : List (List Byte)
  sinceAdjust : Nat
  deriving DecidableEq, Repr

/-! ### The machine -/

/-- Why the machine stops with a fault. -/
inductive Fault where
  /-- A fibre word is executed while no group is issuing: raised by every meaning of a fibre word when
  `cur` names no group with a current subset. Step never does that. Safe. -/
  | noIssuer
  /-- A hart word is executed for a hart that does not exist. Step never does that. Safe. -/
  | noHart
  deriving DecidableEq, Repr

/-- Why an instruction is refused. -/
inductive Refusal where
  /-- The instruction has no meaning in this model: answered by an arm of `exec` only. Safe. -/
  | notModelled (mnemonic : String)
  deriving DecidableEq, Repr

/-- The whole machine.

- The model's own (log 3, 4, 20): `schedule` is the turns that come next; `free` counts free values; `cur` and
  `hart` say whose instruction is being performed, `word` and `wordOff` which word and how far beyond the PC it
  stands (a `rep` runs the word behind it); `nextId` numbers what comes into being; `compPages` is the compression
  of physical pages; `cvClosed` numbers the closings of convergence sets; `hostSaw` is what the host read last.
- Time and memory: `tsc` (22 R385); `mem` holds device memory, host memory and banks by key (07 R149, 08 R174),
  `errors` the keys with uncorrectable errors (13 R296); `ord` the ordering machine (12 R261); `cached` the cached
  translations (07 R157); `sliceOps` and `portUnits` what is on its way to slices and bank ports (07 R170, 09 R197).
- Work: `groups`, `blocks` and `launches` (02, 11); `results` on their way to registers (02 R34), `held` faults on
  their way to fault queues (13 R283), `reports` to the host and the fault `log` (13 R288, R289).
- Banks: `bankGen` and `bankState` (08 R178), `resTable` (R187, by 256 · cluster + entry), `drains` (R188, R191),
  `deliveries` (R190).
- Units: `copies` (09 R208), `matOps` (10 R234), `rays` (16 R317), `passes` (18 R331), `heads` (18 R352), `queues`
  (11 R253), `rings` (R258), `harts`, their `signals` and the clusters' inputs (R260), `cores` (02 R46-R48), `notify`
  registers and writes to them (R49, R50), `power` and `status` (22), `migrations` (07 R166), `fabric` (20), `golden`
  source numbers by mesh (20 R357) and `spdm` (22 R387). -/
structure State where
  schedule : List Turn
  free : Nat
  cur : Option Nat
  hart : Option Nat
  word : Word
  wordOff : Nat
  tsc : DWord
  nextId : Nat
  mem : Memory
  errors : List Nat
  ord : Order
  cached : List CachedEntry
  compPages : List Comp
  groups : Sparse Group
  blocks : Sparse Block
  launches : Sparse Launch
  results : List Result
  held : List HeldFault
  reports : List Report
  log : FaultLog
  sliceOps : List SliceOp
  portUnits : List PortUnit
  bankGen : Sparse (BitVec 8)
  bankState : Sparse BankState
  resTable : Sparse ResEntry
  drains : List Drain
  deliveries : List Delivery
  copies : Sparse CopyCmd
  matOps : List MatOp
  rays : Sparse Ray
  passes : Sparse Pass
  heads : Sparse Head
  cvClosed : Nat
  queues : Sparse Queue
  rings : Sparse Ring
  harts : Sparse Hart
  signals : BitVec 64
  clusterInputs : Sparse (List (List Byte))
  cores : Sparse Core
  notify : Sparse Word
  notifyWrites : List NotifyWrite
  power : Power
  status : Status
  migrations : List Migration
  fabric : Fabric
  golden : Sparse Nat
  hostSaw : List Byte
  spdm : Spdm
  deriving DecidableEq, Repr

/-- The machine right after reset (log 1-4, 10). -/
def State.reset : State where
  schedule := []
  free := 0
  cur := none
  hart := none
  word := 0
  wordOff := 0
  tsc := 0
  nextId := 1
  mem := []
  errors := []
  ord := { wb := [], writes := [], copies := [], homeTags := [], curTags := [], promotions := [], seq := 0 }
  cached := []
  compPages := []
  groups := []
  blocks := []
  launches := []
  results := []
  held := []
  reports := []
  log := { saveBase := 0, saveBaseH := 0, saveLen := 0, base := 0, host := false, baseH := 0, en := false,
           log2n := 4, wptr := 0, rptr := 0, pool := (0, 0) }
  sliceOps := []
  portUnits := []
  bankGen := []
  bankState := []
  resTable := []
  drains := []
  deliveries := []
  copies := []
  matOps := []
  rays := []
  passes := []
  heads := []
  cvClosed := 0
  queues := []
  rings := []
  harts := []
  signals := 0
  clusterInputs := []
  cores := []
  notify := []
  notifyWrites := []
  power := { mhz := 600, cap := 600, hot := false, overPower := false, low := true, cool := true, trip := false }
  status := { fe := false, cxl := false, heads := 0, clusters := 0, hbm := 0, ports := 0, tsh := 0, ceBank := 0,
              ceSlice := 0, ceHbm := 0, boot := 0, measures := List.replicate 8 (List.replicate 64 0),
              sinceAdjust := 1023 }
  migrations := []
  fabric := { receives := [], overflow := [], messages := [], commands := [], fabid := none, table := [], open_ := [],
              shut := [], closed := [] }
  golden := []
  hostSaw := []
  spdm := { transcript := [], answer := none }

end Sys2Proof.Machine
end

