-- ==== Sys2Proof/Machine/Table.lean ====
section
/-!
DEFINITION. Sparse tables (keys strictly rising) and memory as a sparse table of bytes: the one way the
model reads and writes anything that is kept by key.
-/
namespace Sys2Proof.Machine

/-- The entry under a key. -/
def Tab.get {β : Type} : Sparse β → Nat → Option β
  | [], _ => none
  | (k, v) :: t, a => if k = a then some v else Tab.get t a

/-- The entry under a key, or a default. -/
def Tab.getD {β : Type} (t : Sparse β) (a : Nat) (d : β) : β :=
  match Tab.get t a with
  | some v => v
  | none => d

/-- Puts an entry in its place. -/
def Tab.put {β : Type} : Sparse β → Nat → β → Sparse β
  | [], a, v => [(a, v)]
  | (k, w) :: t, a, v =>
    if a < k then (a, v) :: (k, w) :: t
    else if a = k then (a, v) :: t
    else (k, w) :: Tab.put t a v

/-- Takes an entry out. -/
def Tab.del {β : Type} (t : Sparse β) (a : Nat) : Sparse β := t.filter fun p => p.1 != a

/-- Writes one element of a sparse array: the default value is not listed. -/
def Tab.store {β : Type} [DecidableEq β] (d : β) (t : Sparse β) (a : Nat) (v : β) : Sparse β :=
  if v = d then Tab.del t a else Tab.put t a v

/-- The keys. -/
def Tab.keys {β : Type} (t : Sparse β) : List Nat := t.map Prod.fst

/-- Changes the entry under a key, where there is one. -/
def Tab.modify {β : Type} (t : Sparse β) (a : Nat) (f : β → β) : Sparse β :=
  match Tab.get t a with
  | some v => Tab.put t a (f v)
  | none => t

/-- Keys strictly rising. -/
def Tab.sorted {β : Type} : Sparse β → Bool
  | [] => true
  | [_] => true
  | (a, _) :: (b, w) :: t => decide (a < b) && Tab.sorted ((b, w) :: t)

/-- What an unlisted location reads as (DESIGN CHOICE, log 1). -/
def Memory.unlisted : Byte := 0

/-- One byte. -/
def Memory.read (m : Memory) (k : Nat) : Byte := Tab.getD m k Memory.unlisted

/-- Writes one byte, keeping the canonical form. -/
def Memory.write (m : Memory) (k : Nat) (b : Byte) : Memory := Tab.store Memory.unlisted m k b

/-- The canonical form: addresses strictly rising, and no byte listed that an unlisted location has. -/
def Memory.wf (m : Memory) : Bool := Tab.sorted m && m.all fun c => c.2 != Memory.unlisted

/-- Consecutive bytes. -/
def Memory.readBytes (m : Memory) (k : Nat) : Nat → List Byte
  | 0 => []
  | n + 1 => Memory.read m k :: Memory.readBytes m (k + 1) n

/-- Writes consecutive bytes. -/
def Memory.writeBytes (m : Memory) (k : Nat) : List Byte → Memory
  | [] => m
  | b :: t => Memory.writeBytes (Memory.write m k b) (k + 1) t

/-- Adds a number to a strictly rising list of numbers. -/
def insertNat : List Nat → Nat → List Nat
  | [], a => [a]
  | k :: t, a => if a < k then a :: k :: t else if a = k then k :: t else k :: insertNat t a

end Sys2Proof.Machine
end

