-- ==== Sys2Proof/Machine/Bits.lean ====
section
/-!
DEFINITION. Bit fields, sign extension and byte order (00 R3, R4; 03 R80), and sets of fibres as masks.
-/
namespace Sys2Proof.Machine

/-- Bits [hi:lo] of a number. -/
def field (x : Nat) (hi lo : Nat) : Nat := (x >>> lo) % 2 ^ (hi + 1 - lo)

/-- Bits [hi:lo] of a word, as a number. -/
def wbits (x : Word) (hi lo : Nat) : Nat := field x.toNat hi lo

/-- Bit i of a word. -/
def wbit (x : Word) (i : Nat) : Bool := x.getLsbD i

/-- A number's low 32 bits. -/
def toWord (n : Nat) : Word := BitVec.ofNat 32 n

/-- The low n bits of x read as two's complement (R80). -/
def sxNat (x n : Nat) : Int :=
  let v := x % 2 ^ n
  if v < 2 ^ (n - 1) then (v : Int) else (v : Int) - (2 ^ n : Nat)

/-- An integer's value modulo 2^32. -/
def intWord (i : Int) : Word := BitVec.ofInt 32 i

/-- x clamped to [lo, hi] (R80). -/
def clamp (x lo hi : Int) : Int := if x < lo then lo else if hi < x then hi else x

/-- The n bytes of a number, least significant first (R3). -/
def bytesOf : Nat → Nat → List Byte
  | 0, _ => []
  | n + 1, v => BitVec.ofNat 8 v :: bytesOf n (v >>> 8)

/-- The number whose bytes these are, least significant first. -/
def ofBytes : List Byte → Nat
  | [] => 0
  | b :: t => b.toNat + 2 ^ 8 * ofBytes t

/-- The bytes of words, in order. -/
def bytesOfWords (ws : List Word) : List Byte := ws.flatMap fun w => bytesOf 4 w.toNat

/-- Bytes cut into little-endian words. -/
def wordsOfBytes : List Byte → List Word
  | a :: b :: c :: d :: t => toWord (ofBytes [a, b, c, d]) :: wordsOfBytes t
  | _ => []

/-- The indices of a mask, ascending. -/
def lanesOf (m : Mask) : List Nat := (List.range 64).filter m.getLsbD

/-- The mask with one index. -/
def laneBit (i : Nat) : Mask := BitVec.twoPow 64 i

/-- The mask of a list of indices. -/
def maskOf (l : List Nat) : Mask := l.foldl (fun m i => m ||| laneBit i) 0

/-- Element i of a list, or a default. -/
def nth {α : Type} (l : List α) (i : Nat) (d : α) : α :=
  match l[i]? with
  | some x => x
  | none => d

/-- Replaces element i, where there is one. -/
def setNth {α : Type} (l : List α) (i : Nat) (x : α) : List α := l.set i x

/-- A list of words made 8 long with zeros. -/
def pad8 (l : List Word) : List Word := (l ++ List.replicate 8 0).take 8

/-- A code address as a number of bits, and its two halves. -/
def codeLo (a : CodeAddr) : Word := a.setWidth 32
def codeHi (a : CodeAddr) : Word := (a >>> 32).setWidth 32

/-- A code address from its halves (06 R143). -/
def codeAddr (lo hi : Word) : CodeAddr := BitVec.ofNat 48 (lo.toNat + hi.toNat * 2 ^ 32)

/-- One bit of the CRC-64 of ECMA-182. -/
def crcBit (c : DWord) : DWord := if c.msb then (c <<< 1) ^^^ 0x42F0E1EBA9EA3693 else c <<< 1

/-- The CRC-64 of ECMA-182, from zero, not reflected (16 R316, 13 R292). -/
def crc64 (bs : List Byte) : DWord :=
  bs.foldl (fun c b => (List.range 8).foldl (fun c _ => crcBit c) (c ^^^ ((b.setWidth 64 : DWord) <<< 56))) (0 : DWord)

end Sys2Proof.Machine
end

