-- ==== Sys2Proof/Machine/Flags.lean ====
section
/-!
DEFINITION. The bits of the predicate word (02 R16) and the sticky flags as sets that operations answer
with (R17, 04 R87).
-/
namespace Sys2Proof.Machine

/-- HELP and TRAP of the predicate word. -/
def flagHELP : Word := 0x2
def flagTRAP : Word := 0x8

/-- The sticky flags of the predicate word. -/
def flagNV : Word := 0x100
def flagOF : Word := 0x200
def flagUF : Word := 0x400
def flagNX : Word := 0x800
def flagSAT : Word := 0x1000

/-- The bits of the predicate word that `swr` writes: the sticky flags (R16). -/
def stickyMask : Word := 0x1F00

/-- A flag where a condition holds. -/
def flagIf (c : Bool) (f : Word) : Word := if c then f else 0

end Sys2Proof.Machine
end

