-- ==== Sys2Proof/Machine/Home.lean ====
section
/-!
DEFINITION. The homes of locations (12 R263): device memory, host memory and banks as one store of
bytes by key; lossless line compression (07 R162); uncorrectable errors (13 R296).
-/
namespace Sys2Proof.Machine

/-! ### Keys of locations (07 R149, 08 R174) -/

/-- The first physical address beyond device memory (07 R149). -/
def deviceEnd : Nat := 0x6000000000

/-- The key of a physical address: `host` for host memory. -/
def physKey (host : Bool) (pa : Nat) : Nat := if host then 2 ^ 56 + pa % 2 ^ 56 else pa % 2 ^ 56

/-- The areas of a bank (08 R173). -/
inductive Area where
  | data | scale | bitmap
  deriving DecidableEq, Repr

def Area.size : Area → Nat
  | .data => 262144
  | .scale => 16384
  | .bitmap => 32768

def Area.start : Area → Nat
  | .data => 0
  | .scale => 262144
  | .bitmap => 278528

/-- The key of a byte of a bank; banks are numbered 96 · cluster + number (R9). -/
def bankKey (bank : Nat) (a : Area) (off : Nat) : Nat := 2 ^ 57 + bank * 2 ^ 19 + a.start + off

/-- The bank of a bank location. -/
def keyBank (key : Nat) : Nat := (key - 2 ^ 57) / 2 ^ 19

def isBankKey (key : Nat) : Bool := decide (2 ^ 57 ≤ key)

def isHostKey (key : Nat) : Bool := decide (2 ^ 56 ≤ key) && !isBankKey key

/-! ### Compressed lines (07 R162) -/

/-- Bytes of the descriptor area at the end of a compressed page. -/
def Comp.descBytes (c : Comp) : Nat := c.size / 256

def Comp.inDescriptors (c : Comp) (key : Nat) : Bool := decide (c.base + c.size ≤ key + c.descBytes)

/-- The byte that holds the descriptor of the line of a key, and whether it is the high nibble. -/
def Comp.descKey (c : Comp) (key : Nat) : Nat × Bool :=
  let line := (key - c.base) / 128
  (c.base + c.size - c.descBytes + line / 2, line % 2 == 1)

def nibble (b : Byte) (hi : Bool) : Nat := if hi then b.toNat / 16 else b.toNat % 16

def setNibble (b : Byte) (hi : Bool) (v : Nat) : Byte :=
  if hi then BitVec.ofNat 8 (b.toNat % 16 + 16 * (v % 16)) else BitVec.ofNat 8 (b.toNat / 16 * 16 + v % 16)

/-- The words of a delta form with k-bit differences, from its bytes as one number. -/
def deltaWords (v k : Nat) : Nat → Nat → List Word
  | 0, _ => []
  | n + 1, prev =>
    let d := sxNat (v >>> (32 + k * (30 - n))) k
    let w := (((prev : Int) + d) % 2 ^ 32).toNat
    toWord w :: deltaWords v k n w

/-- The word of lane i of a bit-plane form: planes listed in ascending order under a mask. -/
def planeWord (planes : List (Nat × Nat)) (i : Nat) : Word :=
  toWord (planes.foldl (fun a p => if p.2.testBit i then a + 2 ^ p.1 else a) 0)

/-- The uncompressed 128 bytes of a stored line under a descriptor, or none for 8 to F. -/
def expandLine (desc : Nat) (stored : List Byte) : Option (List Byte) :=
  let v := ofBytes stored
  let w0 := field v 31 0
  if desc = 0 then some stored
  else if desc = 1 then some ((List.replicate 32 (bytesOf 4 w0)).flatten)
  else if desc ≤ 4 then some (bytesOfWords (toWord w0 :: deltaWords v (2 ^ desc) 31 w0))
  else if desc ≤ 7 then
    let js := (List.range 32).filter w0.testBit
    let planes := js.zipIdx.map fun p => (p.1, field v (32 * p.2 + 63) (32 * p.2 + 32))
    some (bytesOfWords ((List.range 32).map (planeWord planes)))
  else none

/-- The differences of a line's words as k-bit values, when they all fit. -/
def deltaForm (ws : List Word) (k : Nat) : Option Nat :=
  let ds := (List.range 31).map fun i => sxNat ((nth ws (i + 1) 0).toNat + 2 ^ 32 - (nth ws i 0).toNat) 32
  if ds.all fun d => decide (-(2 ^ (k - 1) : Nat) ≤ d) && decide (d < (2 ^ (k - 1) : Nat)) then
    some ((nth ws 0 0).toNat + (ds.zipIdx.foldl (fun (a : Nat) (p : Int × Nat) => a + (p.1 % ((2 ^ k : Nat) : Int)).toNat <<< (32 + k * p.2)) 0))
  else none

/-- The smallest form of a line under a scheme: descriptor, and the stored bits with their number. -/
def compressLine (scheme : Nat) (line : List Byte) : Nat × Nat × Nat :=
  let ws := wordsOfBytes line
  let asIs := (0, ofBytes line, 1024)
  match scheme with
  | 1 =>
    match deltaForm ws 4, deltaForm ws 8, deltaForm ws 16 with
    | some v, _, _ => (2, v, 32 + 31 * 4)
    | none, some v, _ => (3, v, 32 + 31 * 8)
    | none, none, some v => (4, v, 32 + 31 * 16)
    | none, none, none => asIs
  | 2 => if ws.all (· == nth ws 0 0) then (1, (nth ws 0 0).toNat, 32) else asIs
  | 3 =>
    let planes := (List.range 32).map fun j =>
      (j, ws.zipIdx.foldl (fun a p => if p.1.getLsbD j then a + 2 ^ p.2 else a) 0)
    let used := planes.filter fun p => p.2 != 0
    let mask := used.foldl (fun a p => a + 2 ^ p.1) 0
    let v := mask + used.zipIdx.foldl (fun a p => a + p.1.2 <<< (32 + 32 * p.2)) 0
    let n := used.length
    if n ≤ 7 then (5, v, 32 + 32 * n) else if n ≤ 15 then (6, v, 32 + 32 * n)
    else if n ≤ 23 then (7, v, 32 + 32 * n) else asIs
  | _ => asIs

/-- The descriptor of the line of a key. -/
def lineDesc (m : Memory) (c : Comp) (key : Nat) : Nat :=
  let d := c.descKey key
  nibble (Memory.read m d.1) d.2

/-- The logical bytes of the line of a key; the flag says that its descriptor is one that is not produced,
so that the line reads with an error. -/
def readLine (m : Memory) (c : Comp) (key : Nat) : List Byte × Bool :=
  let base := key - key % 128
  let stored := Memory.readBytes m base 128
  if c.inDescriptors key then (stored, false)
  else
    match expandLine (lineDesc m c key) stored with
    | some l => (l, false)
    | none => (stored, true)

/-- Stores the logical bytes of the line of a key in its smallest form. Bytes beyond the form stay, and so does the upper
half of a last byte that the form fills by half (DESIGN CHOICE, log 43). -/
def writeLine (m : Memory) (c : Comp) (key : Nat) (line : List Byte) : Memory :=
  let base := key - key % 128
  if c.inDescriptors key then Memory.writeBytes m base line
  else
    let f := compressLine c.scheme line
    let old := ofBytes (Memory.readBytes m base 128)
    let v := (old >>> f.2.2) <<< f.2.2 + f.2.1
    let d := c.descKey key
    let m1 := Memory.writeBytes m base (bytesOf 128 v)
    Memory.write m1 d.1 (setNibble (Memory.read m1 d.1) d.2 f.1)

/-! ### Reading and writing at the home -/

/-- Whether the 8 bytes around a key carry an uncorrectable error (13 R296). -/
def State.errorAt (s : State) (key : Nat) : Bool := s.errors.contains (key / 8)

/-- One byte at its home, and whether it reads with an error. -/
def State.homeRead (s : State) (c : Option Comp) (key : Nat) : Byte × Bool :=
  match c with
  | none => (Memory.read s.mem key, s.errorAt key)
  | some c =>
    let l := readLine s.mem c key
    let base := key - key % 128
    let err := if lineDesc s.mem c key = 0 || c.inDescriptors key then s.errorAt key
      else (List.range 16).any fun i => s.errorAt (base + 8 * i)
    (nth l.1 (key % 128) 0, l.2 || err)

/-- The halves of a byte that a write replaces. -/
def mixByte (old new : Byte) (lo hi : Bool) : Byte :=
  BitVec.ofNat 8 ((if lo then new.toNat % 16 else old.toNat % 16)
    + 16 * (if hi then new.toNat / 16 else old.toNat / 16))

/-- Writes one byte, or one half of it, at its home. A write that covers the 8 bytes clears an error. A line whose descriptor
is one that is not produced is written as if it were stored as is (DESIGN CHOICE, log 43). -/
def State.homeWrite (s : State) (c : Option Comp) (key : Nat) (v : Byte) (lo hi full : Bool) : State :=
  let mem := match c with
    | none => Memory.write s.mem key (mixByte (Memory.read s.mem key) v lo hi)
    | some c =>
      let l := (readLine s.mem c key).1
      let old := nth l (key % 128) 0
      writeLine s.mem c key (setNth l (key % 128) (mixByte old v lo hi))
  { s with mem := mem, errors := if full then s.errors.filter (· != key / 8) else s.errors }

/-- The bytes of one access that go to a line of a compressed page, written together: the line takes its form once (07 R162).
Each write is a key, a byte, and the halves that it replaces. -/
def writeInLine (m : Memory) (c : Comp) (ws : List (Nat × Byte × Bool × Bool)) : Memory :=
  match ws with
  | [] => m
  | w :: _ => writeLine m c w.1 (ws.foldl (fun l p =>
      setNth l (p.1 % 128) (mixByte (nth l (p.1 % 128) 0) p.2.1 p.2.2.1 p.2.2.2)) (readLine m c w.1).1)

/-- The bytes of one access at their home, line by line; those of plain memory each for itself. -/
def writeBytesOf (m : Memory) (c : Option Comp) (ws : List (Nat × Byte × Bool × Bool)) : Memory :=
  match c with
  | none => ws.foldl (fun m p => Memory.write m p.1 (mixByte (Memory.read m p.1) p.2.1 p.2.2.1 p.2.2.2)) m
  | some c =>
    let lines := ws.foldl (fun (l : List Nat) p => if l.contains (p.1 / 128) then l else l ++ [p.1 / 128]) []
    lines.foldl (fun m n => writeInLine m c (ws.filter fun p => p.1 / 128 == n)) m

/-- Writes the bytes of one access at their home. -/
def State.homeWrites (s : State) (c : Option Comp) (ws : List (Nat × Byte × Bool × Bool)) : State :=
  { s with mem := writeBytesOf s.mem c ws }

/-- The words of eight bytes that a range wholly covers lose their errors (13 R296). -/
def State.clearErrors (s : State) (key n : Nat) : State :=
  { s with errors := s.errors.filter fun e => !(decide (key ≤ 8 * e) && decide (8 * e + 8 ≤ key + n)) }

/-- Whole bytes from a key on, as writes. -/
def byteWrites (key : Nat) (bs : List Byte) : List (Nat × Byte × Bool × Bool) :=
  bs.zipIdx.map fun p => (key + p.2, p.1, true, true)

/-- Consecutive bytes at the home of plain memory. -/
def State.readHome (s : State) (key n : Nat) : List Byte := Memory.readBytes s.mem key n

/-- Writes whole bytes at the home of plain memory; 8-byte words wholly covered lose their errors. -/
def State.writeHome (s : State) (key : Nat) (bs : List Byte) : State :=
  { s with
    mem := Memory.writeBytes s.mem key bs
    errors := s.errors.filter fun e => !(decide (key ≤ 8 * e) && decide (8 * e + 8 ≤ key + bs.length)) }

/-- The compression that an access by physical address meets (R162; DEDUCED, log 20). -/
def State.compAt (s : State) (key : Nat) : Option Comp :=
  s.compPages.find? fun c => decide (c.base ≤ key) && decide (key < c.base + c.size)

/-- Consecutive bytes at a physical address, as every client reads them (07 R162). -/
def State.readPa (s : State) (key n : Nat) : List Byte :=
  if s.compPages.isEmpty then s.readHome key n
  else (List.range n).map fun i => (s.homeRead (s.compAt (key + i)) (key + i)).1

/-- The parts of consecutive bytes that stand in one line each: first key and bytes. -/
def lineParts : Nat → Nat → List Byte → List (Nat × List Byte)
  | 0, _, _ => []
  | n + 1, key, bs =>
    let k := 128 - key % 128
    if bs.isEmpty then [] else (key, bs.take k) :: lineParts n (key + k) (bs.drop k)

/-- Writes whole bytes at a physical address, as every client does (07 R162). -/
def State.writePa (s : State) (key : Nat) (bs : List Byte) : State :=
  if s.compPages.isEmpty then s.writeHome key bs
  else
    ((lineParts (bs.length / 128 + 2) key bs).foldl
      (fun (s : State) p => s.homeWrites (s.compAt p.1) (byteWrites p.1 p.2)) s).clearErrors key bs.length

/-- The memory slice of a line, and its stack (07 R150). -/
def sliceOf (pa : Nat) : Nat := field pa 12 7 ^^^ field pa 18 13 ^^^ field pa 24 19
def stackOf (pa : Nat) : Nat := sliceOf pa / 8

/-- The stack bits of the lines of n bytes of device memory are set: until then an access waits at its slice (22 R383). -/
def State.stacksReady (s : State) (pa n : Nat) : Bool :=
  (List.range ((pa % 128 + n + 127) / 128)).all fun i => s.status.hbm.getLsbD (stackOf (pa + 128 * i))

/-- Whether any of n bytes from a key carries an error. -/
def State.anyError (s : State) (key n : Nat) : Bool :=
  s.errors.any fun e => decide (key < 8 * e + 8) && decide (8 * e < key + n)

end Sys2Proof.Machine
end

