-- ==== Sys2Proof/Machine/Ops.lean ====
section
/-!
DEFINITION. The named operations over groups, registers and subsets; the shared course of an issue; and
taking an exception and returning from one (13 R283-R287).
-/
namespace Sys2Proof.Machine

/-! ### Groups and registers -/

def State.group? (s : State) (g : Nat) : Option Group := Tab.get s.groups g

def State.setGroup (s : State) (g : Nat) (x : Group) : State := { s with groups := Tab.put s.groups g x }

def State.modGroup (s : State) (g : Nat) (f : Group → Group) : State :=
  { s with groups := Tab.modify s.groups g f }

def State.block? (s : State) (b : Nat) : Option Block := Tab.get s.blocks b

def State.modBlock (s : State) (b : Nat) (f : Block → Block) : State :=
  { s with blocks := Tab.modify s.blocks b f }

/-- The block of a group. -/
def State.blockOf (s : State) (g : Group) : Option Block := s.block? g.block

/-- A fresh serial number. -/
def State.fresh (s : State) : Nat × State := (s.nextId, { s with nextId := s.nextId + 1 })

/-- A free choice below n (DESIGN CHOICE, log 4). -/
def State.choose (s : State) (n : Nat) : Nat × State :=
  if n ≤ 1 then (0, s) else (Config.freeChoice s.free % n, { s with free := s.free + 1 })

/-- n free words (DESIGN CHOICE, log 4): values that the spec leaves open. -/
def State.freeWords (s : State) (n : Nat) : List Word × State :=
  ((List.range n).map fun i => Config.freeWord (s.free + i), { s with free := s.free + n })

/-- The key of register r of fibre index l. -/
def regKey (l r : Nat) : Nat := 128 * l + r

/-- Register r of the lane with fibre index l (02 R18). -/
def Group.reg (g : Group) (l r : Nat) : Word := Tab.getD g.regs (regKey l r) 0

/-- Writes one register of one lane. The new value carries a good residue (13 R295). -/
def Group.setReg (g : Group) (l r : Nat) (v : Word) : Group :=
  { g with regs := Tab.store 0 g.regs (regKey l r) v, bad := g.bad.filter (· != regKey l r) }

/-- Consecutive registers of one lane. -/
def Group.regList (g : Group) (l r : Nat) : Nat → List Word
  | 0 => []
  | n + 1 => g.reg l r :: g.regList l (r + 1) n

/-- Writes consecutive registers of one lane. -/
def Group.setRegs (g : Group) (l r : Nat) : List Word → Group
  | [] => g
  | v :: t => (g.setReg l r v).setRegs l (r + 1) t

/-- The lanes of a group. -/
def Group.lanes (g : Group) : List Nat := List.range g.width

/-- Writes a register in every lane of the group (02 R22, 06 R129). -/
def Group.bcast (g : Group) (r : Nat) (v : Word) : Group := g.lanes.foldl (fun g l => g.setReg l r v) g

/-- Writes consecutive registers in every lane of the group. -/
def Group.bcasts (g : Group) (r : Nat) : List Word → Group
  | [] => g
  | v :: t => (g.bcast r v).bcasts (r + 1) t

/-- The uniform view: the lowest lane's register (03 R80). -/
def Group.uni (g : Group) (r : Nat) : Word := g.reg 0 r

def Group.isPending (g : Group) (l r : Nat) : Bool := (Tab.get g.pend (regKey l r)).isSome

/-- Sets the pending bits of n registers of one lane (R35). -/
def Group.setPend (g : Group) (l r n : Nat) (p : Producer) : Group :=
  { g with pend := (List.range n).foldl (fun t j => Tab.put t (regKey l (r + j)) p) g.pend }

/-- Sets pending bits in every lane of the group. -/
def Group.setPendAll (g : Group) (r n : Nat) (p : Producer) : Group :=
  g.lanes.foldl (fun g l => g.setPend l r n p) g

def Group.clearPend (g : Group) (l r n : Nat) : Group :=
  { g with pend := (List.range n).foldl (fun t j => Tab.del t (regKey l (r + j))) g.pend }

/-- Whether a lane has a pending register. -/
def Group.lanePending (g : Group) (l : Nat) : Bool := g.pend.any fun p => p.1 / 128 == l

/-- Whether any lane of a set has a pending register. -/
def Group.maskPending (g : Group) (m : Mask) : Bool := g.pend.any fun p => m.getLsbD (p.1 / 128)

/-! ### Fibres -/

def Group.fibre? (g : Group) (l : Nat) : Option Fibre := Tab.get g.fibres l

def Group.modFibre (g : Group) (l : Nat) (f : Fibre → Fibre) : Group :=
  { g with fibres := Tab.modify g.fibres l f }

/-- Changes the fibres of a set. -/
def Group.mapFibres (g : Group) (m : Mask) (f : Fibre → Fibre) : Group :=
  { g with fibres := g.fibres.map fun p => if m.getLsbD p.1 then (p.1, f p.2) else p }

def Fibre.helper (f : Fibre) : Bool := f.flags.getLsbD 1
def Fibre.trap (f : Fibre) : Bool := f.flags.getLsbD 3

def Group.isHelper (g : Group) (l : Nat) : Bool :=
  match g.fibre? l with
  | some f => f.helper
  | none => false

/-- ORs sticky flags into a lane's predicate word (R17). -/
def Group.orFlags (g : Group) (l : Nat) (fl : Word) : Group :=
  if fl = 0 then g else g.modFibre l fun f => { f with flags := f.flags ||| fl }

/-- The active lanes of the issuing subset (R22). -/
def Group.active (g : Group) : Mask :=
  match g.current with
  | some u => u.mask
  | none => 0

/-- The PC of a set of fibres at one PC: its lowest fibre's. -/
def Group.pcOf (g : Group) (m : Mask) : CodeAddr :=
  match g.fibres.find? fun p => m.getLsbD p.1 with
  | some p => p.2.pc
  | none => 0

/-- The PC of the issuing subset. -/
def Group.pc (g : Group) : CodeAddr := g.pcOf g.active

/-- Whether every active fibre is a helper. -/
def Group.allHelpers (g : Group) : Bool := (lanesOf g.active).all g.isHelper

def Group.anyTrap (g : Group) : Bool := g.fibres.any fun p => p.2.trap

def Group.maskTrap (g : Group) (m : Mask) : Bool := g.fibres.any fun p => m.getLsbD p.1 && p.2.trap

/-- The wait of the subset that holds a lane. -/
def Group.waitOf (g : Group) (l : Nat) : Wait :=
  match g.waiting.find? fun u => u.mask.getLsbD l with
  | some u => u.wait
  | none => .none

/-- PARK: waiting on a park marker or in `bwait` (R16). -/
def Wait.parks : Wait → Bool
  | .park => true
  | .phase _ _ _ _ => true
  | _ => false

/-- Waiting for its last pending bit before it enters the handler (R286). -/
def Wait.enters : Wait → Bool
  | .entry _ _ => true
  | _ => false

/-- PARK of a fibre (R16, R36): a fibre that stood at a park marker when a queued fault was delivered still waits at
it until its results have returned. -/
def Group.parked (g : Group) (l : Nat) (f : Fibre) : Bool :=
  (g.waitOf l).parks || (f.rewait && (g.waitOf l).enters)

/-- sr.pred as it reads (R16). -/
def Group.predWord (g : Group) (l : Nat) : Word :=
  match g.fibre? l with
  | some f => f.flags ||| 1 ||| (if g.parked l f then 4 else 0)
  | none => 0

/-! ### Subsets (02 R29-R32) -/

/-- Every fibre of a set agrees with the first on the PC, TRAP and sr.repc (R31, R78, R286). -/
def Group.agree (g : Group) (m : Mask) : Bool :=
  match g.fibres.filter fun p => m.getLsbD p.1 with
  | [] => true
  | p :: t => t.all fun q => q.2.pc == p.2.pc && q.2.trap == p.2.trap && q.2.repc == p.2.repc

/-- The fibres of a set grouped by PC, in ascending order of PC. -/
def Group.partsByPc (g : Group) (m : Mask) : List (Nat × Mask) :=
  (g.fibres.filter fun p => m.getLsbD p.1).foldl
    (fun t p => Tab.put t p.2.pc.toNat (Tab.getD t p.2.pc.toNat 0 ||| laneBit p.1)) []

/-- A fresh waiting subset. -/
def newWaiting (m : Mask) (w : Wait) (since : Nat) : Subset :=
  { mask := m, wait := w, since := since, count := 0 }

/-- The current subset stops being current and waits. -/
def Group.stopCurrent (g : Group) (w : Wait) : Group :=
  match g.current with
  | none => g
  | some u => { g with current := none, waiting := g.waiting ++ [newWaiting u.mask w g.issues] }

/-- After the PCs of the current subset have changed: the part that `keep` names, of the parts by PC,
stays current, and the others wait from this issue on, which is counted after it (R30, R136). -/
def Group.splitCurrent (g : Group) (keep : List (Nat × Mask) → Nat) : Group :=
  match g.current with
  | none => g
  | some u =>
    let parts := g.partsByPc u.mask
    let k := keep parts
    let stay := nth parts k (0, u.mask)
    { g with
      current := some { u with mask := stay.2 }
      waiting := g.waiting ++ (parts.eraseIdx k).map fun p => newWaiting p.2 .none (g.issues + 1) }

/-- Counts n issues of the current subset and of its group (R32); a run-ahead stops once 256 instructions have
issued since its own (07 R164). -/
def Group.countIssues (g : Group) (n : Nat) : Group :=
  { g with
    issues := g.issues + n
    current := g.current.map fun u => { u with count := u.count + n }
    runAhead := g.runAhead.map fun r => { r with count := r.count + n, stop := r.stop || decide (257 ≤ r.count + n) } }

/-- Advances the PC of the active fibres (R53). -/
def Group.advance (g : Group) (n : Nat) : Group :=
  g.mapFibres g.active fun f => { f with pc := f.pc + BitVec.ofNat 48 n }

/-! ### Save areas (13 R291, R292) -/

/-- The physical address of the group area of a group. -/
def groupArea (b : Block) (g : Group) : Nat := b.area + 0x4000 + 0x1000 * g.num

/-- The trap frame of fibre index i. -/
def framePa (b : Block) (g : Group) (i : Nat) : Nat := groupArea b g + 0x200 + 32 * i

def Group.faultWords (g : Group) : List Word :=
  [g.fcause, g.fpc, g.fpcHi, g.xops, g.ftime, g.ftimeHi] ++ g.fops

/-- Whether further faults of the group wait: queued, or of a subset that waits to enter (R281, R284). -/
def Group.moreFaults (g : Group) : Bool :=
  !g.faults.isEmpty || g.waiting.any fun u => match u.wait with
    | .handler _ => true
    | .entry _ _ => true
    | _ => false

/-- The fault record is kept current in the save area (R291). -/
def State.mirrorFault (s : State) (g : Nat) : State :=
  match s.group? g with
  | none => s
  | some x =>
    match s.blockOf x with
    | none => s
    | some b => s.writePa (groupArea b x) (bytesOfWords x.faultWords)

/-! ### The fault record (R278, R281) -/

def Cause.code : Cause → Nat
  | .illegal => 0x01
  | .window => 0x02
  | .pending => 0x03
  | .nonuniform => 0x04
  | .repeats => 0x05
  | .converge => 0x06
  | .xlate => 0x10
  | .protect => 0x11
  | .migrate => 0x12
  | .bounds => 0x13
  | .format => 0x14
  | .detached => 0x20
  | .bankbound => 0x21
  | .spacekind => 0x22
  | .give => 0x23
  | .overrun => 0x30
  | .msgovf => 0x40
  | .queue => 0x41
  | .node => 0x50
  | .depth => 0x51
  | .residue => 0x60
  | .ecc => 0x61
  | .trap => 0x70
  | .brk => 0x71

/-- `trap` and `brk` resume at the word that follows, every other synchronous fault at its own word (R286, 06 R147).
(DEDUCED, log 37.) -/
def Cause.skips (c : Cause) : Bool := c == .trap || c == .brk

/-- A cause that the front end services first (R288). -/
def Cause.serviced (c : Cause) : Bool := c == .xlate || c == .migrate

/-- sr.fcause of a record, with MORE (R281). -/
def FaultRec.causeWord (f : FaultRec) (more : Bool) : Word :=
  toWord ((if f.async then 2 ^ 31 else 0) + (if more then 2 ^ 30 else 0) + f.lane % 64 * 2 ^ 20
    + f.src % 16 * 2 ^ 16 + f.cause.code)

/-- Writes the fault record of a group (R281, R282). -/
def Group.setFault (g : Group) (f : FaultRec) (more : Bool) : Group :=
  { g with
    fcause := f.causeWord more
    fpc := codeLo f.pc
    fpcHi := codeHi f.pc
    xops := f.xops
    ftime := f.time.setWidth 32
    ftimeHi := (f.time >>> 32).setWidth 32
    fops := pad8 f.ops }

/-- What an instruction raises: cause, lowest faulting fibre index, and the operand words of R282. -/
structure Trap where
  cause : Cause
  lane : Option Nat := none
  ops : List Word := []
  deriving DecidableEq, Repr

/-- The address of the word that a group is issuing: of the repeated word, under `rep` (03 R77). -/
def State.issuePc (s : State) (g : Group) : CodeAddr := g.pc + BitVec.ofNat 48 s.wordOff

/-- The record of a synchronous fault of a group's current issue. -/
def faultRec (s : State) (g : Group) (t : Trap) : FaultRec where
  cause := t.cause
  async := false
  lane := match t.lane with
    | some l => g.first + l
    | none => 0
  src := 0
  pc := s.issuePc g
  time := s.tsc
  ops := t.ops
  xops := 0

/-! ### Reports to the front end (R288-R290) -/

/-- The resident number of a block on a core. -/
def Block.residentOn (b : Block) (core : Nat) : Nat :=
  match b.seats.find? fun e => e.core == core with
  | some e => e.resident
  | none => 0

/-- Adds a report; the group issues nothing until it is dealt with. -/
def State.reportGroup (s : State) (g : Nat) (x : Group) (k : ReportKind) (f : FaultRec) : State :=
  let res := match s.blockOf x with
    | some b => b.residentOn x.core
    | none => 0
  { s.modGroup g fun y => { y with hold := some .report } with
    reports := s.reports ++ [{ kind := k, f := f, core := x.core, resident := res, group := x.num,
                               block := x.block, of := .group g, words := [], index := none }] }

/-! ### Trap entry (R285, R286) -/

/-- sr.tvec's handler address and enable. -/
def Block.handler (b : Block) : CodeAddr := codeAddr (b.tvec &&& 0xFFFFFFFC) b.tvecHi
def Block.trapEnabled (b : Block) : Bool := b.tvec.getLsbD 0

/-- The trap frame of a fibre: v0 to v3, its link and 8 zero bytes (R292). -/
def frameBytes (g : Group) (l : Nat) (f : Fibre) : List Byte :=
  bytesOfWords (g.regList l 0 4 ++ [codeLo f.link, codeHi f.link, 0, 0])

/-- TAKING AN EXCEPTION: the subset with mask m enters the handler of its block with record f. Each
fibre's frame is saved, its link becomes its resume PC, TRAP becomes 1 and its PC the handler (R286). -/
def State.enterHandler (s : State) (g : Nat) (m : Mask) (f : FaultRec) (skip : Bool) : State :=
  match s.group? g with
  | none => s
  | some x =>
    match s.blockOf x with
    | none => s
    | some b =>
      let s1 := x.fibres.foldl (fun s p =>
        if m.getLsbD p.1 then s.writePa (framePa b x p.1) (frameBytes x p.1 p.2) else s) s
      let x1 := x.mapFibres m fun p =>
        { p with
          link := if skip then p.pc + 4 else p.pc
          flags := p.flags ||| flagTRAP
          pc := b.handler }
      ((s1.setGroup g (x1.setFault f x.moreFaults)).mirrorFault g)

/-- A fault that the handler takes, raised by the current subset: it enters at once, or waits as a park
marker does until no fibre of the subset has a pending bit (R286). -/
def State.trapCurrent (s : State) (g : Nat) (f : FaultRec) (skip : Bool) : State :=
  match s.group? g with
  | none => s
  | some x =>
    if x.maskPending x.active then s.setGroup g (x.stopCurrent (.entry f skip))
    else s.enterHandler g x.active f skip

/-- Stops a run-ahead (07 R164): the rollback is the event RUN_AHEAD_STOP. -/
def Group.stopRunAhead (g : Group) : Group :=
  { g with runAhead := g.runAhead.map fun r => { r with stop := true } }

/-- A synchronous fault at the current issue of a group (R278, R286, R290). -/
def State.raise (s : State) (g : Nat) (t : Trap) : State :=
  match s.group? g with
  | none => s
  | some x =>
    let f := faultRec s x t
    let skip := t.cause.skips
    if x.runAhead.isSome then s.setGroup g x.stopRunAhead
    else if t.cause == .residue then s.reportGroup g x .blockEnded f
    else
      match s.blockOf x with
      | none => s
      | some b =>
        if x.maskTrap x.active || !b.trapEnabled then s.reportGroup g x .blockEnded f
        else if x.anyTrap then s.setGroup g (x.stopCurrent (.handler f))
        else s.trapCurrent g f skip

/-- One page of a fault batch (07 R165). -/
def BatchPage.entry (p : BatchPage) : Nat :=
  p.vpn % 2 ^ 36 * 2 ^ 16 + (if p.migrating then 4 else 0) + (if p.fetch then 2 else 0) + (if p.write then 1 else 0)

/-- Writes the fault batch area of a group (07 R165, 13 R292). -/
def State.writeBatch (s : State) (b : Block) (x : Group) (ps : List BatchPage) : State :=
  s.writePa (groupArea b x + 0x40) (bytesOf 8 ps.length ++ ps.flatMap fun p => bytesOf 8 p.entry)

/-! ### Asynchronous delivery (R283, R284) -/

/-- Whether a queued fault may be delivered: no fibre in a handler and no earlier entry waiting. -/
def Group.deliverable (g : Group) : Bool :=
  !g.faults.isEmpty && !g.anyTrap && g.hold.isNone && g.runAhead.isNone &&
    g.waiting.all fun u => match u.wait with
      | .entry _ _ => false
      | .handler _ => false
      | _ => true

/-- Delivers the oldest queued fault to the subset that is now current: R286 with EN = 1, else the front
end. `again` says that the wait of a park marker applies after the return. -/
def State.deliverCurrent (s : State) (g : Nat) (again : Bool) : State :=
  match s.group? g with
  | none => s
  | some x =>
    match x.faults with
    | [] => s
    | f :: t =>
      match s.blockOf x with
      | none => s
      | some b =>
        let x1 := { x with faults := t }
        if !b.trapEnabled then (s.setGroup g x1).reportGroup g x1 .blockEnded f
        else
          let x2 := x1.mapFibres x1.active fun p => { p with rewait := again }
          (s.setGroup g x2).trapCurrent g f false

/-- The first parked or waiting subset that stopped last, when no subset is current or eligible: the one
a queued fault finds (R283). -/
def Group.lastParked (g : Group) : Option Subset :=
  if g.current.isSome || g.waiting.any (fun u => u.wait == .none) then none
  else (g.waiting.filter fun u => u.wait.parks).foldl
    (fun best u => match best with
      | none => some u
      | some v => if v.since ≤ u.since then some u else best) none

/-- Makes a waiting subset current. -/
def Group.makeCurrent (g : Group) (u : Subset) : Group :=
  { g with
    current := some { u with wait := .none, count := 0 }
    waiting := g.waiting.erase u }

/-- A parked subset with results pending takes a fault of the queue: it waits on for its results, now to enter the
handler, and its waiting time keeps running (R31, R283, R286). -/
def Group.deliverWaiting (x : Group) (u : Subset) (f : FaultRec) : Group :=
  let y := x.mapFibres u.mask fun p => { p with rewait := u.wait == .park }
  { y with waiting := y.waiting.map fun v => if v == u then { u with wait := .entry f false } else v }

/-- Delivery to a subset that is already parked or waiting in `bwait` (R283). -/
def State.deliverParked (s : State) (g : Nat) : State :=
  match s.group? g with
  | none => s
  | some x =>
    if x.deliverable then
      match x.lastParked, x.faults with
      | some u, f :: t =>
        let enabled : Bool := match s.blockOf x with
          | some b => b.trapEnabled
          | none => false
        if enabled && x.maskPending u.mask then s.setGroup g ({ x with faults := t }.deliverWaiting u f)
        else (s.setGroup g (x.makeCurrent u)).deliverCurrent g (u.wait == .park)
      | _, _ => s
    else s

/-! ### Returning from an exception (R287) -/

/-- One fibre's return: the resume PC, the saved link and v0 to v3. -/
def returnFibre (s : State) (b : Block) (g : Group) (l : Nat) : Group :=
  match g.fibre? l with
  | none => g
  | some p =>
    let ws := wordsOfBytes (s.readPa (framePa b g l) 24)
    let g1 := g.setRegs l 0 (ws.take 4)
    g1.modFibre l fun _ =>
      { p with pc := p.link, link := codeAddr (nth ws 4 0) (nth ws 5 0), flags := p.flags &&& ~~~flagTRAP }

/-! ### The course of an issue -/

/-- The current subset parks (R36). During run-ahead it stays current, since no other subset may issue
(07 R164). -/
def Group.parkCurrent (g : Group) : Group :=
  if g.runAhead.isSome then { g with current := g.current.map fun u => { u with wait := .park } }
  else g.stopCurrent .park

/-- The waiting parts of a subset that this issue has formed park when a result of theirs is pending (R36, R138);
`m` holds the fibres that issued the word. -/
def Group.parkParts (x : Group) (m : Mask) : Group :=
  { x with waiting := x.waiting.map fun u =>
      if u.mask &&& m == u.mask && u.wait == .none && u.since == x.issues && x.maskPending u.mask then
        { u with wait := .park } else u }

/-- After a word has taken effect: its park marker (R36, R138), on every part that issued it, and the
delivery point that a marked word is (R283). `m` holds the fibres that issued the word. -/
def State.afterWord (s : State) (g : Nat) (m : Mask) (park : Bool) : State :=
  if !park then s
  else
    match s.group? g with
    | none => s
    | some x =>
      let x1 := x.parkParts m
      if x1.deliverable && x1.current.isSome then (s.setGroup g x1).deliverCurrent g true
      else if x1.maskPending x1.active then s.setGroup g x1.parkCurrent
      else s.setGroup g x1

/-- A word has completed without a fault: one issue is counted, the PCs advance by `adv` (R53), the park
marker takes effect on the fibres `m` that issued it. -/
def State.complete (s : State) (g : Nat) (m : Mask) (adv : Nat) (park : Bool) : State :=
  (s.modGroup g fun x => (x.countIssues 1).advance adv).afterWord g m park

/-- The registers that a lane's operation writes (16 R318, R321, R322). -/
def RayOp.regs : RayOp → Nat
  | .ray => 16
  | .gframe => 8
  | .gupd => 1

/-- Whether a refused operation of a group has had its fault taken: it is neither held nor queued, and no subset still
waits to enter the handler with it. (DEDUCED, log 41.) -/
def State.refusalTaken (s : State) (g : Nat) (x : Group) (r : Ray) : Bool :=
  match r.phase with
  | .refused f => r.org.group == g && !x.faults.contains f && !(s.held.any fun h => h.org.group == g && h.f == f)
      && !x.waiting.any fun u => match u.wait with
        | .entry h _ => h == f
        | .handler h => h == f
        | _ => false
  | _ => false

/-- On a trap return the refused operations whose faults have been taken resume: their destinations are pending
again (16 R328). In a run-ahead the operations themselves stay as they are (06 R148). -/
def State.resumeRefused (s : State) (g : Nat) (x : Group) : State × Group :=
  ({ s with rays := s.rays.map fun p => if x.runAhead.isNone && s.refusalTaken g x p.2 then (p.1, { p.2 with phase := .queued }) else p },
   s.rays.foldl (fun x p =>
     if s.refusalTaken g x p.2 then x.setPend p.2.lane p.2.dest p.2.op.regs .traversal else x) x)

/-- RETURNING FROM AN EXCEPTION: every active fibre returns; the next queued fault enters at once, before
any fibre resumes (R284, R287); otherwise the fibres resume, by PC, and the wait of a park marker at which
the fault was delivered applies again (R283). -/
def State.trapReturn (s : State) (g : Nat) (park : Bool) : State :=
  match s.group? g with
  | none => s
  | some x =>
    match s.blockOf x with
    | none => s
    | some b =>
      let (s, x1) := s.resumeRefused g ((lanesOf x.active).foldl (returnFibre s b) x)
      match x1.deliverable, x1.faults with
      | true, f :: t =>
        let x2 := { x1.countIssues 1 with faults := t }
        if b.trapEnabled then (s.setGroup g x2).trapCurrent g f false
        else (s.setGroup g x2).reportGroup g x2 .blockEnded f
      | _, _ =>
        let again := x1.fibres.any fun p => x1.active.getLsbD p.1 && p.2.rewait
        let x2 := (x1.mapFibres x1.active fun p => { p with rewait := false }).splitCurrent fun _ => 0
        (s.setGroup g x2).complete g x.active 0 (park || again)

/-- How the body of an instruction ends. -/
inductive Done where
  /-- It took effect. -/
  | ok (s : State)
  /-- It raises a fault, without effect. -/
  | trap (t : Trap)
  /-- It raises a fault after it has translated addresses: what it has read of the tables stays cached (07 R157). -/
  | trapAt (s : State) (t : Trap)
  /-- It is held, or its subset or group now waits: nothing is counted and no PC moves. -/
  | hold (s : State)
  deriving DecidableEq, Repr

/-- The body of an instruction: machine, issuing group's number, the group. -/
abbrev Body := State → Nat → Group → Done

/-- The registers a word names (R19, R37): checked against the window; read and written in active lanes;
read in the lowest lane; written in every lane. -/
structure Uses where
  laneR : List Nat := []
  laneW : List Nat := []
  uniR : List Nat := []
  uniW : List Nat := []
  win : List Nat := []
  deriving DecidableEq, Repr

def Uses.all (u : Uses) : List Nat := u.laneR ++ u.laneW ++ u.uniR ++ u.uniW ++ u.win

/-- The first register outside the window (R19). -/
def Group.outside (g : Group) (rs : List Nat) : Option Nat := rs.find? fun r => decide (g.wsize ≤ r)

/-- The first pending register, by lane and then in operand order (R37). -/
def Group.firstPending (g : Group) (u : Uses) : Option (Nat × Nat) :=
  g.lanes.findSome? fun l =>
    let rs := (if g.active.getLsbD l then u.laneR ++ u.laneW else []) ++ (if l == 0 then u.uniR else []) ++ u.uniW
    (rs.find? fun r => g.isPending l r).map fun r => (l, r)

/-- The first register that is read with a bad residue (13 R295). -/
def Group.firstBad (g : Group) (u : Uses) : Option (Nat × Nat) :=
  g.lanes.findSome? fun l =>
    let rs := (if g.active.getLsbD l then u.laneR else []) ++ (if l == 0 then u.uniR else [])
    (rs.find? fun r => g.bad.contains (regKey l r)).map fun r => (l, r)

/-- Steps 2 and 3 of R69, and the residue check of R295. -/
def Group.precheck (g : Group) (word : Word) (u : Uses) : Option Trap :=
  match g.outside u.all with
  | some r => some { cause := .window, ops := [word, toWord r] }
  | none =>
    match g.firstPending u with
    | some (l, r) => some { cause := .pending, lane := some l, ops := [word, toWord r] }
    | none =>
      match g.firstBad u with
      | some (l, r) => some { cause := .residue, lane := some l, ops := [word, toWord r] }
      | none =>
        match g.badResult, u.laneW ++ u.uniW with
        | true, r :: _ => some { cause := .residue, ops := [word, toWord r] }
        | _, _ => none

/-- A register group that must start at a multiple of 4 (R62, R151). -/
def misaligned4 (r : Nat) : Bool := r % 4 != 0

/-- ILLEGAL at the issue of a word. -/
def illegal (s : State) : Done := .trap { cause := .illegal, ops := [s.word] }

/-- The register groups of a word start at multiples of 4: part of step 1 of R69, before the window check. -/
def aligned (rs : List Nat) (k : Body) : Body := fun s g x => if rs.any misaligned4 then illegal s else k s g x

/-- The registers that a group has lent to the matrix engine: lane, first register, number (10 R233). -/
def State.lent (s : State) (g : Nat) (x : Group) : List (Nat × Nat × Nat) :=
  match s.blockOf x with
  | none => []
  | some b => b.cvs.flatMap fun p => (p.2.sigs.filter fun q => q.group == g).map fun q => (q.lane, q.reg, q.regs)

/-- Whether the registers that a word writes, in the lanes `m` and in every lane, include a lent one (10 R235). -/
def State.lentIn (s : State) (g : Nat) (x : Group) (m : Mask) (laneW uniW : List Nat) : Bool :=
  (s.lent g x).any fun (l, r, n) =>
    ((if m.getLsbD l then laneW else []) ++ uniW).any fun d => decide (r ≤ d) && decide (d < r + n)

/-- Whether a word's destinations include a lent register in a lane it writes (10 R235). -/
def State.writesLent (s : State) (g : Nat) (x : Group) (u : Uses) : Bool := s.lentIn g x x.active u.laneW u.uniW

/-- The key of a convergence register of a block: cv n on a core. -/
def cvKey (core cv : Nat) : Nat := 8 * core + cv

/-- Two lists of (bank, offset, bytes) share a location. -/
def piecesMeet (a b : List (Nat × Nat × Nat)) : Bool :=
  a.any fun p => b.any fun q => p.1 == q.1 && decide (p.2.1 < q.2.1 + q.2.2) && decide (q.2.1 < p.2.1 + p.2.2)

/-- Whether an entry at a key lies in a busy region of the core (10 R235). -/
def State.busyAt (s : State) (core key : Nat) : Bool :=
  let p := [(keyBank key, (key - 2 ^ 57) % 2 ^ 19, 8)]
  (s.matOps.any fun m => m.org.core == core && piecesMeet m.regions p)
    || s.blocks.any fun b => b.2.cvs.any fun q => q.1 / 8 == core && piecesMeet q.2.regions p
        && b.2.slots.any fun t => t.st == .mapped (keyBank key)

/-- Whether a convergence register of a group's block is Closed (10 R230). -/
def State.setClosed (s : State) (x : Group) (cv : Nat) : Bool :=
  match s.blockOf x with
  | none => false
  | some b => (Tab.get b.cvs (cvKey x.core cv)).any fun c => c.closed.isSome

/-- Whether what the matrix scoreboard holds a subset on still lasts (10 R235). -/
def State.holdLasts (s : State) (g : Nat) (x : Group) (m : Mask) (h : MatrixHold) : Bool :=
  s.lentIn g x m h.laneW h.uniW || h.entries.any (s.busyAt x.core) || h.closed.any (s.setClosed x)

/-- The subset is held by the matrix scoreboard (10 R235). -/
def State.holdMatrix (s : State) (g : Nat) (x : Group) (h : MatrixHold) : Done :=
  if x.runAhead.isSome then .hold s else .hold (s.setGroup g (x.stopCurrent (.matrix h)))

/-- The hold of a subset by the matrix scoreboard has ended (10 R235). -/
def State.holdEnded (s : State) (g : Nat) (x : Group) (u : Subset) : Bool :=
  match u.wait with
  | .matrix h => !s.holdLasts g x u.mask h
  | _ => false

/-- The subsets whose hold has ended are eligible again, and no other (02 R31, 10 R235). -/
def State.retryMatrix (s : State) (g : Nat) (x : Group) : Group :=
  { x with waiting := x.waiting.map fun u => if s.holdEnded g x u then { u with wait := .none } else u }

/-- The hold of R235, steps 2 and 3 of R69, then the body. -/
def checked (u : Uses) (k : Body) : Body := fun s g x =>
  if s.writesLent g x u then s.holdMatrix g x { laneW := u.laneW, uniW := u.uniW }
  else
    match x.precheck s.word u with
    | some t => .trap t
    | none => k s g x

/-- The outcome of one fibre word: the body is run for the issuing group; `spec` says that run-ahead may
execute the word (06 R148, 07 R164), and `fin` completes it. A word that faults has issued and counts (02 R32). -/
def runWord (spec : Bool) (fin : State → Nat → Mask → State) (k : Body) (s : State) :
    Host.Outcome State Fault Refusal :=
  match s.cur with
  | none => .fault .noIssuer
  | some g =>
    match s.group? g with
    | none => .fault .noIssuer
    | some x =>
      match x.current with
      | none => .fault .noIssuer
      | some _ =>
        if x.runAhead.isSome && !spec then .next (s.setGroup g x.stopRunAhead)
        else
          match k s g x with
          | .ok s' => .next (fin s' g x.active)
          | .trap t => .next ((s.modGroup g fun x => x.countIssues 1).raise g t)
          | .trapAt s' t => .next ((s'.modGroup g fun x => x.countIssues 1).raise g t)
          | .hold s' => .next s'

/-- A word that advances its PC by 4. -/
def stepWord (spec park : Bool) (k : Body) (s : State) : Host.Outcome State Fault Refusal :=
  runWord spec (fun s g m => s.complete g m 4 park) k s

/-- A word that has set the PCs itself. -/
def jumpWord (spec park : Bool) (k : Body) (s : State) : Host.Outcome State Fault Refusal :=
  runWord spec (fun s g m => s.complete g m 0 park) k s

/-- The body's change of its group. -/
def okGroup (s : State) (g : Nat) (x : Group) : Done := .ok (s.setGroup g x)

end Sys2Proof.Machine
end

