-- ==== Sys2Proof/Machine/Xlate.lean ====
section
/-!
DEFINITION. Page tables: the walk of a virtual address, what a leaf says of its page, and the translation
that an access uses (07 R155-R162).
-/
namespace Sys2Proof.Machine

/-- What an access does with a page (R156). -/
inductive AccessKind where
  | read | write | fetch
  deriving DecidableEq, Repr

/-- A page, as its leaf gives it, and the physical address of the byte translated. -/
structure Page where
  pa : Nat
  host : Bool
  base : Nat
  size : Nat
  vbase : Nat
  fmt : Nat
  blk : Nat
  scl : Bool
  cmp : Nat
  cp : Nat
  sig : Bool
  near : Bool
  x : Bool
  w : Bool
  deriving DecidableEq, Repr

/-- The outcome of a translation. -/
inductive Xl where
  | page (p : Page)
  | xlate
  | migrate
  | protect
  deriving DecidableEq, Repr

/-- The key of the byte that a page translates. -/
def Page.key (p : Page) : Nat := physKey p.host p.pa

/-- The compression of the page, where it has one (R162). -/
def Page.comp (p : Page) : Option Comp :=
  if p.cmp = 0 then none else some { scheme := p.cmp, base := physKey p.host p.base, size := p.size }

/-- The same page at another byte of it. -/
def Page.at (p : Page) (va : Nat) : Page := { p with pa := p.base + va % p.size }

/-- The entry index of a virtual address at a level (R155). -/
def levelIndex (va : Nat) : Nat → Nat
  | 0 => field va 51 42
  | 1 => field va 41 32
  | 2 => field va 31 21
  | _ => field va 20 16

/-- The page size of a leaf at a level. -/
def levelSize : Nat → Nat
  | 1 => 2 ^ 32
  | 2 => 2 ^ 21
  | _ => 2 ^ 16

/-- Physical address bits [55:16] of an entry, as an address. -/
def entryPa (e : Nat) : Nat := field e 59 20 * 2 ^ 16

/-- A leaf's format fields hold values that R158 to R162 assign, in combinations they permit. -/
def leafFormatOk (e : Nat) : Bool :=
  let fmt := field e 7 4
  let blk := field e 10 8
  let scl := e.testBit 11
  let cmp := field e 14 12
  let host := e.testBit 16
  let mk := fmt == 1 || fmt == 2
  decide (fmt ≤ 6) && decide (blk ≤ 4) && decide (cmp ≤ 3) && field e 19 18 != 3
    && (decide (fmt < 3) || (blk == 0 && !scl))
    && (cmp == 0 || (!host && !(mk && !scl)))

/-- A leaf at a level is well formed (R156). -/
def leafOk (level e : Nat) : Bool :=
  field e 63 60 == 0 && level != 0
    && (level != 1 || field e 35 20 == 0) && (level != 2 || field e 24 20 == 0) && leafFormatOk e

/-- A table entry is well formed (R156). -/
def tableOk (level e : Nat) : Bool := field e 62 60 == 0 && field e 19 1 == 0 && level != 3

/-- The walk from the table at physical address `pa`, at most `n` levels (R155, R156, 13 R296). A table at or beyond the end
of device memory makes it malformed: R149 speaks of accesses through a leaf (DESIGN CHOICE, log 43). -/
def walkFrom (s : State) (va : Nat) : Nat → Nat → Nat → Walk
  | 0, _, _ => .malformed
  | n + 1, level, pa =>
    let a := pa + 8 * levelIndex va level
    if deviceEnd ≤ a || s.anyError a 8 then .malformed
    else
      let e := ofBytes (s.readPa a 8)
      if e.testBit 0 == false then .absent
      else if e.testBit 63 then
        if tableOk level e then walkFrom s va n (level + 1) (entryPa e) else .malformed
      else if leafOk level e then .leaf level (BitVec.ofNat 64 e) else .malformed

/-- The walk of a virtual address in the address space of a level-0 table. -/
def walk (s : State) (root va : Nat) : Walk := walkFrom s (va % 2 ^ 52) 4 0 root

/-- The page that a leaf gives for a virtual address. -/
def leafPage (level : Nat) (e : DWord) (va : Nat) : Page :=
  let v := e.toNat
  let size := levelSize level
  { pa := entryPa v + va % size, host := v.testBit 16, base := entryPa v, size := size, vbase := va - va % size
    fmt := field v 7 4, blk := field v 10 8, scl := v.testBit 11, cmp := field v 14 12, cp := field v 19 18
    sig := v.testBit 15, near := v.testBit 3, x := v.testBit 2, w := v.testBit 1 }

/-- What a walk means for an access (R149, R156). -/
def Walk.outcome (w : Walk) (va : Nat) (k : AccessKind) : Xl :=
  match w with
  | .absent => .xlate
  | .malformed => .protect
  | .leaf level e =>
    let p := leafPage level e va
    if e.getLsbD 17 then .migrate
    else if (k == .write && !p.w) || (k == .fetch && !p.x) then .protect
    else if !p.host && deviceEnd ≤ p.pa then .protect
    else .page p

/-- The virtual addresses that an entry of a level stands for. -/
def levelSpan (level : Nat) : Nat := if level = 0 then 2 ^ 42 else levelSize level

/-- Whether an invalidated range covers the 64 KiB page of an address (R157). -/
def rangeCovers (r : Nat × Nat) (va : Nat) : Bool :=
  decide (va / 2 ^ 16 * 2 ^ 16 < r.1 + r.2) && decide (r.1 < (va / 2 ^ 16 + 1) * 2 ^ 16)

/-- Whether an access at an address may use a cached entry for the table entry at `a` (R157). -/
def CachedEntry.serves (c : CachedEntry) (root a va : Nat) : Bool :=
  c.root == root && c.addr == a && decide (c.first ≤ va) && decide (va < c.first + c.span) && !c.gone.any fun r => rangeCovers r va

/-- The entries that an access may find at a place of the tables that a level reads: cached ones until an invalidation
covers its address, and the one there now (R157). None stands for a place that cannot be read. -/
def entriesAt (s : State) (root va level a : Nat) : List (Option CachedEntry) :=
  let old := s.cached.filter fun c => c.serves root a va
  if deviceEnd ≤ a || s.anyError a 8 then old.map some ++ [none]
  else
    let now : DWord := BitVec.ofNat 64 (ofBytes (s.readPa a 8))
    let span := levelSpan level
    (old.filter fun c => c.entry != now).map some ++
      [some { root := root, addr := a, first := va - va % span, span := span, entry := now, gone := [] }]

/-- The walks that an access may make, each with the entries that it has read, at most n levels (R155-R157). -/
def walksFrom (s : State) (root va : Nat) : Nat → Nat → Nat → List (Walk × List CachedEntry)
  | 0, _, _ => [(.malformed, [])]
  | n + 1, level, pa =>
    let a := pa + 8 * levelIndex va level
    (entriesAt s root va level a).flatMap fun o => match o with
      | none => [(.malformed, [])]
      | some me =>
        let e := me.entry.toNat
        if e.testBit 0 == false then [(.absent, [me])]
        else if e.testBit 63 then
          if tableOk level e then (walksFrom s root va n (level + 1) (entryPa e)).map fun w => (w.1, me :: w.2)
          else [(.malformed, [me])]
        else if leafOk level e then [(.leaf level me.entry, [me])] else [(.malformed, [me])]

/-- The walks that an access may make. -/
def walkPaths (s : State) (root va : Nat) : List (Walk × List CachedEntry) := walksFrom s root (va % 2 ^ 52) 4 0 root

def walkChoices (s : State) (root va : Nat) : List Walk := (walkPaths s root va).map Prod.fst

/-- Slices know the compression of a page that a leaf has named (R162; DEDUCED, log 20). -/
def noteComp (l : List Comp) (p : Page) : List Comp :=
  let l1 := l.filter fun c => c.base != physKey p.host p.base
  match p.comp with
  | some c => l1 ++ [c]
  | none => l1

/-- The walk that an access makes; the entries that it has read are cached from then on. -/
def State.walkTo (s : State) (root va : Nat) : Walk × State :=
  let ws := walkPaths s root va
  let (i, s1) := s.choose ws.length
  let w := nth ws i (.absent, [])
  (w.1, { s1 with cached := w.2.foldl (fun l c => if l.contains c then l else l ++ [c]) s1.cached })

/-- What a walk means for an access; the slices know the page from then on. -/
def State.follow (s : State) (w : Walk) (va : Nat) (k : AccessKind) : Xl × State :=
  match w.outcome va k with
  | .page p => (.page p, { s with compPages := noteComp s.compPages p })
  | r => (r, s)

/-- Translates a virtual address for an access. -/
def State.translate (s : State) (root va : Nat) (k : AccessKind) : Xl × State :=
  let r := s.walkTo root va
  r.2.follow r.1 (va % 2 ^ 52) k

/-- The lines that an access has translated, each with its walk. -/
abbrev Lines := List (Nat × Walk)

/-- Translates a virtual address for an access that translates each of its 128-byte lines once (R154 step 6). -/
def State.translateLine (s : State) (ls : Lines) (root va : Nat) (k : AccessKind) : Xl × Lines × State :=
  let va := va % 2 ^ 52
  match ls.find? fun p => p.1 == va / 128 with
  | some p => let r := s.follow p.2 va k; (r.1, ls, r.2)
  | none => let w := s.walkTo root va; let r := w.2.follow w.1 va k; (r.1, ls ++ [(va / 128, w.1)], r.2)

/-- A translation invalidation has completed: the cached entries of an address space no longer serve the pages of a range
(R157). -/
def State.invalidate (s : State) (root first len : Nat) : State :=
  { s with cached := s.cached.map fun c => if c.root = root then { c with gone := c.gone ++ [(first, len)] } else c }

/-! ### Faults that the front end services (13 R288) -/

/-- The level-0 table of a group's address space (11 R243). -/
def State.rootOf (s : State) (x : Group) : Nat :=
  match s.blockOf x with
  | none => 0
  | some b =>
    match Tab.get s.launches b.launch with
    | none => 0
    | some l => l.record.root

/-- Whether a walk of the tables finds MIG set. -/
def State.foundMig (s : State) (root va : Nat) : Bool :=
  match walk s root va with
  | .leaf _ e => e.getLsbD 17
  | _ => false

/-- A fetch or access that the front end services first (R288): the fault is reported in the group's record (07 R164), and
XLATE waits for the host's answer, MIGRATE until a walk no longer finds MIG, which may be so at once. (DEDUCED, log 34.) -/
def State.raiseService (s : State) (g : Nat) (f : FaultRec) (va : Nat) (ps : List BatchPage) : State :=
  match s.group? g with
  | none => s
  | some x =>
    match s.blockOf x with
    | none => s
    | some b =>
      let y := x.setFault f x.moreFaults
      let s1 := ((s.writeBatch b x ps).setGroup g y).mirrorFault g
      if f.cause == .migrate then
        if s1.foundMig (s.rootOf x) va then s1.setGroup g { y with hold := some (.migrating va) } else s1
      else s1.reportGroup g y .pageService f

end Sys2Proof.Machine
end

