-- ==== Sys2Proof/Machine/Order.lean ====
section
/-!
DEFINITION. The ordering machine (12): what a load finds, stores into the write buffer, the movement of
writes outward, releases' flushes, acquires and promotion; and the wake of `bwait` when a bank write
changes a phase (09 R201).
-/
namespace Sys2Proof.Machine

/-- No point: for the writes of engines to banks, of which no point holds copies. -/
def noPoint : Nat := 208

/-- The cluster of a core (R9). -/
def clusterOf (core : Nat) : Nat := core / 12

/-- The point number of a cluster; a core's point has the core's number. -/
def clusterPoint (core : Nat) : Nat := 192 + clusterOf core

def Scope.rank : Scope → Nat
  | .grp => 0
  | .core => 1
  | .clu => 2
  | .dev => 3
  | .sys => 4
  | .dom => 5

/-- The rank of the narrowest scope that contains two cores of the device (R262). -/
def narrowest (c d : Nat) : Nat := if c = d then 1 else if clusterOf c = clusterOf d then 2 else 3

def State.modOrd (s : State) (f : Order → Order) : State := { s with ord := f s.ord }

/-- What is sent takes the next number in the order of entering. -/
def State.bumpSeq (s : State) : State := s.modOrd fun o => { o with seq := o.seq + 1 }

/-- The half-byte location of a key (R261). -/
def halfLoc (key : Nat) (hi : Bool) : Nat := 2 * key + if hi then 1 else 0

def WbEntry.covers (e : WbEntry) (key : Nat) (hi : Bool) : Bool := e.key == key && (if hi then e.hi else e.lo)

def WbEntry.overlaps (e f : WbEntry) : Bool := e.key == f.key && ((e.lo && f.lo) || (e.hi && f.hi))

/-! ### Loads (R264) -/

/-- What a load by a group of a core finds for one half of a byte: its value, the tag of the write that
stored it, and whether it was read at its home with an error. -/
def State.loadHalf (s : State) (core : Nat) (group : Option Nat) (c : Option Comp) (key : Nat) (hi : Bool) :
    Nat × Option Tag × Bool :=
  let own := s.ord.wb.filter fun e => e.core == core && some e.group == group && e.covers key hi
  match own.getLast? with
  | some e => (nibble e.val hi, e.tag, false)
  | none =>
    let loc := halfLoc key hi
    let home := let h := s.homeRead c key; (nibble h.1 hi, Tab.get s.ord.homeTags loc, h.2)
    if isBankKey key then home
    else
      match s.ord.copies.find? fun p => p.point == core && p.loc == loc with
      | some p => (p.val.toNat, p.tag, false)
      | none =>
        match s.ord.copies.find? fun p => p.point == clusterPoint core && p.loc == loc with
        | some p => (p.val.toNat, p.tag, false)
        | none => home

/-- What a load finds for one byte, with the tags it returns. -/
def State.loadByte (s : State) (core : Nat) (group : Option Nat) (c : Option Comp) (key : Nat) :
    Byte × List Tag × Bool :=
  let l := s.loadHalf core group c key false
  let h := s.loadHalf core group c key true
  (BitVec.ofNat 8 (l.1 + 16 * h.1), l.2.1.toList ++ h.2.1.toList, l.2.2 || h.2.2)

/-- Consecutive bytes. -/
def State.loadBytes (s : State) (core : Nat) (group : Option Nat) (c : Option Comp) (key : Nat) :
    Nat → List Byte × List Tag × Bool
  | 0 => ([], [], false)
  | n + 1 =>
    let b := s.loadByte core group c key
    let t := s.loadBytes core group c (key + 1) n
    (b.1 :: t.1, b.2.1 ++ t.2.1, b.2.2 || t.2.2)

/-- The group remembers the tags its loads and atomics return (R271). -/
def Group.addTags (g : Group) (ts : List Tag) : Group :=
  { g with tags := ts.foldl (fun l t => if l.contains t then l else l ++ [t]) g.tags }

/-! ### Stores (R264, R270) -/

/-- A byte, or one half of it, enters the write buffer with the current tag of its core; it is an element of its own. -/
def State.storeByte (s : State) (core group : Nat) (c : Option Comp) (key : Nat) (v : Byte) (lo hi full : Bool) :
    State :=
  s.modOrd fun o =>
    { o with
      wb := o.wb ++ [{ core := core, key := key, lo := lo, hi := hi, val := v, full := full, comp := c,
                       group := group, tag := Tab.get o.curTags core, seq := o.seq }]
      seq := o.seq + 1 }

/-- The whole bytes of an element: each eight of them are one entry of the order (07 R167, 08 R181). -/
def State.storeBytes (s : State) (core group : Nat) (c : Option Comp) (key : Nat) (full : Bool) (bs : List Byte) : State :=
  s.modOrd fun o =>
    { o with
      wb := o.wb ++ bs.zipIdx.map fun p =>
        { core := core, key := key + p.2, lo := true, hi := true, val := p.1, full := full, comp := c, group := group
          tag := Tab.get o.curTags core, seq := o.seq + p.2 / 8 }
      seq := o.seq + (bs.length + 7) / 8 }

/-- Two entries are bytes of one element, which moves as a whole: its access is single-copy atomic (07 R167). -/
def WbEntry.together (e f : WbEntry) : Bool :=
  e.core == f.core && e.group == f.group && e.seq == f.seq && e.key / 8 == f.key / 8

/-! ### Waking (02 R47, 09 R201) -/

def Core.init : Core := { wakeFrom := 0, wakeBits := 0, due := 0, rasthr := 0, gate := .running }

def State.core (s : State) (c : Nat) : Core := Tab.getD s.cores c Core.init

def State.setCore (s : State) (c : Nat) (x : Core) : State := { s with cores := Tab.store Core.init s.cores c x }

/-- An event that wakes a gated core reaches it (R47): bit 0 BAR, 1 ENG, 2 NTFY, 3 SCHED. -/
def State.noteWake (s : State) (c : Nat) (bit : BitVec 4) : State :=
  let x := s.core c
  if x.gate == .running then s else s.setCore c { x with due := x.due ||| bit }

/-- A copy that a pending write of its point backs: it may not be dropped (R266). -/
def Order.backed (o : Order) (p : PointCopy) : Bool :=
  o.writes.any fun w => w.point == p.point && w.entry.covers (p.loc / 2) (p.loc % 2 == 1)

/-- Discards the copies of a point that no pending write of the point backs (R266, R271). -/
def Order.discard (o : Order) (point : Nat) : Order :=
  { o with copies := o.copies.filter fun p => p.point != point || o.backed p }

/-- Whether a point is on the path of global locations only, and holds no copy of either half of a byte. -/
def Order.hasCopy (o : Order) (point loc : Nat) : Bool := o.copies.any fun p => p.point == point && p.loc == loc

/-- A point drops its copies of the eight bytes around a key, but for those that a pending write backs (R266). A point
takes and drops copies by eight bytes, so that no load finds one part of an element old and another new (07 R167;
DEDUCED, log 42). -/
def Order.dropEight (o : Order) (point key : Nat) : Order :=
  { o with copies := o.copies.filter fun p => p.point != point || p.loc / 16 != key / 8 || o.backed p }

/-- After a write has left a point: its copy stays there only beside copies of all eight bytes (log 42). -/
def Order.keepEight (o : Order) (point key : Nat) : Order :=
  if (List.range 16).all fun i => o.hasCopy point (16 * (key / 8) + i) then o else o.dropEight point key

/-- The promotion requests that an acquire needs (R271): one for each covered tag that a release or this
acquire is too narrow for. -/
def promotionsOf (core group : Nat) (scope : Scope) (tags : List Tag) : List Promotion :=
  (tags.filter fun t => t.core != core &&
      !(decide (narrowest core t.core ≤ Scope.rank t.scope) && decide (narrowest core t.core ≤ Scope.rank scope))).map
    fun t => { core := t.core, before := t.rel, group := group }

/-- The copies that an acquire discards at once (R271 step 1). -/
def State.discardInside (s : State) (core : Nat) (scope : Scope) : State :=
  s.modOrd fun o =>
    let o1 := if 2 ≤ Scope.rank scope then o.discard core else o
    if 3 ≤ Scope.rank scope then o1.discard (clusterPoint core) else o1

/-- An acquire at a scope by a group (R271). Where promotions are needed, the group issues nothing until
they are served; then the copies at its core and cluster points are discarded. -/
def State.acquire (s : State) (g : Nat) (scope : Scope) : State :=
  match s.group? g with
  | none => s
  | some x =>
    let ps := promotionsOf x.core g scope x.tags
    let s1 := s.discardInside x.core scope
    let x1 := { x with tags := [] }
    if ps.isEmpty then s1.setGroup g x1
    else (s1.modOrd fun o => { o with promotions := o.promotions ++ ps }).setGroup g x1

/-- Whether a subset waits for a change of the phase at a bank location, and it has changed. -/
def Subset.wakes (u : Subset) (bank off : Nat) (phase : Word) : Bool :=
  match u.wait with
  | .phase b o p _ => b == bank && o == off && p != phase
  | _ => false

/-- What a subset waits for once its `bwait` has ended: the marker of the word, where it has one. -/
def Subset.afterPhase (x : Group) (u : Subset) : Wait :=
  match u.wait with
  | .phase _ _ _ true => if x.maskPending u.mask then .park else .none
  | _ => .none

/-- The waiting subsets of `bwait` whose phase has changed go on past their word (R201, R203). -/
def Group.wakeSubsets (x : Group) (bank off : Nat) (phase : Word) : Group :=
  let m := (x.waiting.filter fun u => u.wakes bank off phase).foldl (fun m u => m ||| u.mask) (0 : Mask)
  let x1 := x.mapFibres m fun f => { f with pc := f.pc + 4 }
  { x1 with
    waiting := x1.waiting.map fun u => if u.wakes bank off phase then { u with wait := u.afterPhase x } else u }

/-- The same in the checkpoint of a run-ahead, which leaves waiting subsets alone (07 R164). -/
def Group.wakeCheckpoint (x : Group) (bank off : Nat) (phase : Word) : Group :=
  match x.runAhead with
  | none => x
  | some k =>
    let y := { x with pend := k.pend, fibres := k.fibres, waiting := k.waiting }.wakeSubsets bank off phase
    { x with runAhead := some { k with fibres := y.fibres, waiting := y.waiting } }

/-- Wakes the subsets of a group. -/
def State.wakeGroup (s : State) (g bank off : Nat) (phase : Word) : State :=
  match s.group? g with
  | none => s
  | some x =>
    if x.waiting.any (fun u => u.wakes bank off phase) then
      let y := (x.wakeCheckpoint bank off phase).wakeSubsets bank off phase
      ((s.setGroup g y).noteWake x.core 1).acquire g .clu
    else s

/-- The phase of the barrier object at a bank location. -/
def State.phaseAt (s : State) (bank off : Nat) : Word :=
  toWord (ofBytes (s.readHome (bankKey bank .data off) 4))

/-- Every waiter whose phase now differs wakes (R201). -/
def State.wakePhase (s : State) (bank off : Nat) : State :=
  let p := s.phaseAt bank off
  s.groups.foldl (fun s e => s.wakeGroup e.1 bank off p) s

/-- A write to a bank may change the phase of an object that subsets wait on. -/
def State.wakeAt (s : State) (key : Nat) : State :=
  if isBankKey key then
    let bank := keyBank key
    let off := (key - 2 ^ 57) % 2 ^ 19
    s.wakePhase bank (off - off % 16)
  else s

/-! ### What a `gupd` holds back (07 R170, 16 R322) -/

/-- An operation that was refused waits for a trap return (16 R328). -/
def Ray.refused (r : Ray) : Bool :=
  match r.phase with
  | .refused _ => true
  | _ => false

/-- A `gupd` that has not ended. One that was refused holds nothing back. -/
def Ray.updates (r : Ray) : Bool := r.op == .gupd && !r.refused

/-- Whether a `gupd` may write the byte of a key: one of its vertex, in the leaf that its walk found at issue. -/
def Ray.writesAt (r : Ray) (key : Nat) : Bool :=
  let h := 16 + 9 * wbits (nth r.regs 3 0) 3 0
  match r.line with
  | some k => decide (k + h / 2 ≤ key) && decide (key ≤ k + (h + 8) / 2)
  | none => false

/-- A `gupd` that was issued before an entry came keeps it in the write buffer: it may write to the entry's element, or it is
the entry's group's, the entry is no bank's, and its walk has found no leaf (R265, R275; DEDUCED, log 18). -/
def State.updKeeps (s : State) (e : WbEntry) : Bool :=
  s.rays.any fun r => r.2.updates && decide (r.2.seq ≤ e.seq) &&
    (if r.2.line.isNone then r.2.org.group == e.group && !isBankKey e.key
     else r.2.org.core == e.core && (List.range 8).any fun i => r.2.writesAt (e.key - e.key % 8 + i))

/-! ### Movement outward (R265) -/

/-- A write at a location carries its tag. -/
def WbEntry.setTag (e : WbEntry) (t : Sparse Tag) (hi : Bool) : Sparse Tag :=
  match e.tag with
  | some v => Tab.put t (halfLoc e.key hi) v
  | none => Tab.del t (halfLoc e.key hi)

/-- The tags that a performed write leaves at its home. -/
def WbEntry.leaveTags (e : WbEntry) (t : Sparse Tag) : Sparse Tag :=
  let t1 := if e.lo then e.setTag t false else t
  if e.hi then e.setTag t1 true else t1

/-- A write is performed at its home. -/
def State.performWrite (s : State) (e : WbEntry) : State :=
  let s1 := s.homeWrite e.comp e.key e.val e.lo e.hi e.full
  (s1.modOrd fun o => { o with homeTags := e.leaveTags o.homeTags }).wakeAt e.key

/-- The writes of one element's bytes are performed at their home together (07 R162, R167). -/
def State.performAll (s : State) (es : List WbEntry) : State :=
  match es with
  | [] => s
  | [e] => s.performWrite e
  | e :: _ =>
    let s1 := s.homeWrites e.comp (es.map fun f => (f.key, f.val, f.lo, f.hi))
    let s2 := if e.full then { s1 with errors := s1.errors.filter (· != e.key / 8) } else s1
    s2.modOrd fun o => { o with homeTags := es.foldl (fun t f => f.leaveTags t) o.homeTags }

/-- A write reaches a point: its copy replaces the point's, and it stays pending there. -/
def Order.reach (o : Order) (point : Nat) (e : WbEntry) : Order :=
  let put := fun (l : List PointCopy) (hi : Bool) =>
    let loc := halfLoc e.key hi
    (l.filter fun p => !(p.point == point && p.loc == loc)) ++
      [{ point := point, loc := loc, val := BitVec.ofNat 4 (nibble e.val hi), tag := e.tag }]
  let c1 := if e.lo then put o.copies false else o.copies
  { o with copies := if e.hi then put c1 true else c1, writes := o.writes ++ [{ point := point, entry := e }] }

/-- Entry i of the write buffers may move: no earlier entry of its core is to its location. -/
def Order.bufferMoves (o : Order) (i : Nat) : Bool :=
  match o.wb[i]? with
  | none => false
  | some e => !((o.wb.take i).any fun f => f.core == e.core && f.overlaps e)

/-- Pending write i may move: no earlier write of its point is to its location. -/
def Order.pointMoves (o : Order) (i : Nat) : Bool :=
  match o.writes[i]? with
  | none => false
  | some w => !((o.writes.take i).any fun v => v.point == w.point && v.entry.overlaps w.entry)

/-- An entry leaves the write buffer: a bank write is performed, any other reaches the core point. -/
def State.moveBuffer (s : State) (i : Nat) : State :=
  match s.ord.wb[i]? with
  | none => s
  | some e =>
    let s1 := s.modOrd fun o => { o with wb := o.wb.eraseIdx i }
    if isBankKey e.key then s1.performWrite e else s1.modOrd fun o => o.reach e.core e

/-- The pending writes of a point that are bytes of one element with a pending write. -/
def Order.elementOf (o : Order) (w : PointWrite) : List PointWrite :=
  o.writes.filter fun v => v.point == w.point && v.entry.together w.entry

/-- A pending write moves to the next point outward, or its element is performed at its home. -/
def State.movePoint (s : State) (i : Nat) : State :=
  match s.ord.writes[i]? with
  | none => s
  | some w =>
    if w.point < 192 then
      s.modOrd fun o => ({ o with writes := o.writes.eraseIdx i }.keepEight w.point w.entry.key).reach (clusterPoint w.point) w.entry
    else
      let es := s.ord.elementOf w
      let s1 := s.modOrd fun o => es.foldl (fun o v => o.keepEight v.point v.entry.key)
        { o with writes := o.writes.filter fun v => !es.contains v }
      s1.performAll (es.map PointWrite.entry)

/-- The first index whose element meets a test. -/
def firstIdx {α : Type} (p : α → Bool) : List α → Nat → Option Nat
  | [], _ => none
  | a :: t, i => if p a then some i else firstIdx p t (i + 1)

/-- Moves the first entry that meets a test, and that no `gupd` keeps, out of the write buffer, n times. -/
def drainBuffer (p : WbEntry → Bool) : Nat → State → State
  | 0, s => s
  | n + 1, s =>
    match firstIdx (fun e => p e && !s.updKeeps e) s.ord.wb 0 with
    | none => s
    | some i => drainBuffer p n (s.moveBuffer i)

/-- Moves the first pending write that meets a test outward, n times. -/
def drainPoint (p : PointWrite → Bool) : Nat → State → State
  | 0, s => s
  | n + 1, s =>
    match firstIdx p s.ord.writes 0 with
    | none => s
    | some i => drainPoint p n (s.movePoint i)

/-- The entries of a list that must move so that those that meet a test may: whole elements, and the earlier entries to
their locations (R265). -/
def neededEntries (q : WbEntry → Bool) : List WbEntry → List WbEntry
  | [] => []
  | e :: t =>
    let r := neededEntries q t
    if q e || r.any fun f => e.overlaps f || e.together f then e :: (t.filter fun f => e.together f && !r.contains f) ++ r else r

/-- Moves entries of a core out of its write buffer, with those that must go before or with them. -/
def State.drainCore (s : State) (core : Nat) (q : WbEntry → Bool) : State :=
  let go := neededEntries q (s.ord.wb.filter fun e => e.core == core)
  drainBuffer (fun e => go.contains e) s.ord.wb.length s

/-- Moves the pending writes of a point that belong to a set of entries outward, with those that must go before or with
them. -/
def State.drainAt (s : State) (point : Nat) (q : WbEntry → Bool) : State :=
  let go := neededEntries q ((s.ord.writes.filter fun w => w.point == point).map PointWrite.entry)
  drainPoint (fun w => w.point == point && go.contains w.entry) s.ord.writes.length s

/-- Every write that entered the write buffer of a core before number `n`, and meets a test, reaches the point of a scope,
or its home (R269). Earlier entries to the same locations go first because the buffer is drained in order. -/
def State.flushIf (s : State) (q : WbEntry → Bool) (core n : Nat) (scope : Scope) : State :=
  let old := fun (e : WbEntry) => q e && e.core == core && decide (e.seq < n)
  if Scope.rank scope = 0 then s
  else
    let s1 := drainBuffer old s.ord.wb.length s
    let s2 := if 2 ≤ Scope.rank scope then s1.drainAt core old else s1
    if 3 ≤ Scope.rank scope then s2.drainAt (clusterPoint core) old else s2

/-- Every write that entered the write buffer of a core before number `n` reaches the point of a scope, or its home (R269). -/
def State.flush (s : State) (core n : Nat) (scope : Scope) : State := s.flushIf (fun _ => true) core n scope

/-- The release becomes the current tag of its core (R270). -/
def State.newTag (s : State) (core : Nat) (scope : Scope) : State :=
  s.modOrd fun o =>
    { o with
      curTags := Tab.put o.curTags core { core := core, scope := scope, rel := o.seq }
      seq := o.seq + 1 }

/-- Writes to a location leave a core's buffer and its points for the home before an atomic performs, and
the points' copies are dropped (R267). -/
def State.bringHome (s : State) (core : Nat) (before : Nat) (keys : List Nat) : State :=
  let s1 := s.drainCore core fun e => keys.contains e.key && decide (e.seq < before)
  let s2 := s1.drainAt core fun e => keys.contains e.key
  let s3 := s2.drainAt (clusterPoint core) fun e => keys.contains e.key
  s3.modOrd fun o => keys.foldl (fun o k => (o.dropEight core k).dropEight (clusterPoint core) k) o

/-! ### Accesses of engines and other agents (R268) -/

/-- One half of a byte written at its home by an engine: a location of its own (R261). -/
def State.engineWriteHalf (s : State) (point : Nat) (c : Option Comp) (key : Nat) (hi : Bool) (v : Nat) : State :=
  let s1 := s.homeWrite c key (BitVec.ofNat 8 (v % 16 * 17)) (!hi) hi false
  let s2 := s1.modOrd fun o =>
    { o with
      homeTags := Tab.del o.homeTags (halfLoc key hi)
      copies := o.copies.filter fun p => !(p.point == point && p.loc == halfLoc key hi) }
  (s2.modOrd fun o => o.keepEight point key).wakeAt key

/-- Whole bytes written at their home by an engine: the copies at a cluster point are dropped. -/
def State.engineWrite (s : State) (point : Option Nat) (c : Option Comp) (key : Nat) (bs : List Byte) : State :=
  let s1 := match c with
    | none => s.writeHome key bs
    | some _ => (s.homeWrites c (byteWrites key bs)).clearErrors key bs.length
  let keys := List.range bs.length
  let s2 := s1.modOrd fun o =>
    { o with
      homeTags := o.homeTags.filter fun p => !(decide (key ≤ p.1 / 2) && decide (p.1 / 2 < key + bs.length))
      copies := match point with
        | none => o.copies
        | some q => o.copies.filter fun p =>
            !(p.point == q && decide (key ≤ p.loc / 2) && decide (p.loc / 2 < key + bs.length)) }
  let s3 := match point, bs with
    | some q, _ :: _ => s2.modOrd fun o => (o.keepEight q key).keepEight q (key + bs.length - 1)
    | _, _ => s2
  if isBankKey key then
    (keys.filter fun i => (key + i) % 16 == 0 || i == 0).foldl (fun s i => s.wakeAt (key + i)) s3
  else s3

/-- Bytes read at their home, and whether any carries an error. -/
def State.engineRead (s : State) (c : Option Comp) (key n : Nat) : List Byte × Bool :=
  let l := (List.range n).map fun i => s.homeRead c (key + i)
  (l.map Prod.fst, l.any Prod.snd)

end Sys2Proof.Machine
end

