-- ==== Sys2Proof/Machine/Async.lean ====
section
/-!
DEFINITION. Results that return (02 R35, R36), faults that units find and that enter a fault queue (13
R283), the entry of a subset that waited for the handler (R286), the end of a run-ahead (07 R164) and the
wake of a gated core (02 R47).
-/
namespace Sys2Proof.Machine

/-! ### Results -/

/-- A result is on its way to a register of one lane, or of every lane. Run-ahead's own results are marked,
so that a rollback discards them. -/
def State.addResult (s : State) (g : Nat) (x : Group) (lane : Option Nat) (reg : Nat) (vals : List Word) : State :=
  { s with
    results := s.results ++ [{ group := g, lane := lane, reg := reg, vals := vals, spec := x.runAhead.isSome }] }

/-- A unit sends a result. Work that a unit does is never part of a run-ahead. -/
def State.sendResult (s : State) (g : Nat) (lane : Option Nat) (reg : Nat) (vals : List Word) : State :=
  { s with results := s.results ++ [{ group := g, lane := lane, reg := reg, vals := vals, spec := false }] }

/-- The tags that an atomic returns, which a rollback does not undo (12 R267, 07 R164). -/
def Group.takeTags (x : Group) (ts : List Tag) : Group :=
  { x.addTags ts with
    runAhead := x.runAhead.map fun r => { r with tags := r.tags ++ ts.filter fun t => !r.tags.contains t } }

/-- Writes a returned result into a group: a lane whose fibre has ended receives it and throws it away (06
R139); a broadcast writes every lane. -/
def Group.takeResult (x : Group) (r : Result) : Group :=
  let n := r.vals.length
  match r.lane with
  | none => x.lanes.foldl (fun y l => y.clearPend l r.reg n) (x.bcasts r.reg r.vals)
  | some l =>
    let y := if (x.fibre? l).isSome then x.setRegs l r.reg r.vals else x
    y.clearPend l r.reg n

/-- A result of work older than the run-ahead also belongs to the checkpoint (07 R164). -/
def Group.takeInCheckpoint (x : Group) (r : Result) : Group :=
  match x.runAhead with
  | none => x
  | some k =>
    if r.spec then x
    else
      let y := { x with regs := k.regs, pend := k.pend, bad := k.bad, fibres := k.fibres }.takeResult r
      { x with runAhead := some { k with regs := y.regs, pend := y.pend, bad := y.bad } }

/-- Parked subsets whose last result has returned are eligible again (R36). -/
def Group.unpark (x : Group) : Group :=
  { x with
    waiting := x.waiting.map fun u =>
      if u.wait == .park && !x.maskPending u.mask then { u with wait := .none } else u }

/-- The kinds of results that wake a gated core with reason ENG (R46, R47). -/
def Producer.engine : Producer → Bool
  | .copyEngine | .traversal | .message | .fabric => true
  | _ => false

/-- The slot of a message or fabric command is free (20 R359, R369). -/
def State.freeCommand (s : State) (command : Option Nat) : State :=
  match command with
  | none => s
  | some c => { s with fabric := { s.fabric with
      messages := Tab.del s.fabric.messages c, commands := Tab.del s.fabric.commands c } }

/-- Writes a result, and leaves parked subsets parked. (DEDUCED, log 41.) -/
def State.putResult (s : State) (r : Result) : State :=
  let s := s.freeCommand r.command
  match s.group? r.group with
  | none => s
  | some x =>
    let l := match r.lane with
      | some l => l
      | none => 0
    let s1 := s.setGroup r.group ((x.takeInCheckpoint r).takeResult r)
    match Tab.get x.pend (regKey l r.reg) with
    | some p => if p.engine then s1.noteWake x.core 2 else s1
    | none => s1

/-- Writes a result. -/
def State.writeResult (s : State) (r : Result) : State := (s.putResult r).modGroup r.group Group.unpark

/-- Whether a group is in the save area of its block: results wait there for the restore (13 R293, 20 R377). -/
def State.isSaved (s : State) (g : Nat) : Bool := s.blocks.any fun b => b.2.saved.any fun p => p.1 == g

/-- RESULT_RETURN (R35, R36): result `i` of those on their way is written. -/
def execResultReturn (i : Nat) (s : State) : Host.Outcome State Fault Refusal :=
  match s.results[i]? with
  | none => .next s
  | some r =>
    if s.isSaved r.group then .next s
    else .next (({ s with results := s.results.eraseIdx i }).writeResult r)

/-- Status codes (13 R280). -/
def stOK : Word := 0
def stEMPTY : Word := 1
def stFULL : Word := 2
def stSTALE : Word := 3
def stREFUSED : Word := 4
def stLATE : Word := 5
def stESCAPE : Word := 6
def stINEXACT : Word := 7
def stHELPER : Word := 8
def stPROC : Word := 9
def stMISS : Word := 10
def stHIT : Word := 11

/-! ### Faults that units find -/

/-- The origin of what a group sends. -/
def State.origin (s : State) (g : Nat) (x : Group) : Origin where
  group := g
  num := x.num
  block := x.block
  core := x.core
  resident := match s.blockOf x with
    | some b => b.residentOn x.core
    | none => 0

/-- A unit finds an asynchronous fault of a group's work: it holds it until the fault queue has room. -/
def State.holdFault (s : State) (o : Origin) (f : FaultRec) (result : Option Result) (command : Option Nat) : State :=
  { s with held := s.held ++ [{ org := o, f := f, result := result, command := command }] }

/-- The record of an asynchronous fault. -/
def asyncRec (s : State) (c : Cause) (lane src : Nat) (pc : CodeAddr) (ops : List Word) (xops : Word) : FaultRec where
  cause := c
  async := true
  lane := lane
  src := src
  pc := pc
  time := s.tsc
  ops := ops
  xops := xops

/-- Faults ordered by time stamp and then by source (R284). -/
def FaultRec.before (a b : FaultRec) : Bool :=
  decide (a.time.toNat < b.time.toNat) || (a.time == b.time && decide (a.src ≤ b.src))

def insertFault (f : FaultRec) : List FaultRec → List FaultRec
  | [] => [f]
  | h :: t => if h.before f then h :: insertFault f t else f :: h :: t

/-- A group that has not ended: one that has fibres. An ended group's registers stay until its block ends. -/
def State.liveGroup (s : State) (g : Nat) : Option Group :=
  match s.group? g with
  | none => none
  | some x => if x.fibres.isEmpty then none else some x

/-- The destinations of a refused operation of a lane are no longer pending, so that trap entry does not wait on them
(16 R328). -/
def Group.releaseRay (x : Group) (r : Ray) : Group :=
  let kept := fun (k : RunAhead) =>
    ({ k with pend := ({ x with pend := k.pend }.clearPend r.lane r.dest r.op.regs).pend } : RunAhead)
  { x.clearPend r.lane r.dest r.op.regs with runAhead := x.runAhead.map kept }

/-- The operations that were refused with a fault of a group. -/
def State.refusedWith (s : State) (g : Nat) (f : FaultRec) : List Ray :=
  (s.rays.map Prod.snd).filter fun r => r.org.group == g && match r.phase with
    | .refused h => h == f
    | _ => false

/-- ASYNC_FAULT_ENQUEUE (R283): held fault `i` enters its group's queue where there is room, and the status
or result of its work is written; a parked or waiting subset takes it at once. The fault of a group that
has ended goes to the front end (R289); the delivery comes before the results release the park. A saved group's faults wait
for its restore, and those of a group that is being saved stay in its queue until then (R294). Every such fault wakes a gated
core with ENG, one of a bank port too (DESIGN CHOICE, log 46). -/
def execAsyncFaultEnqueue (i : Nat) (s : State) : Host.Outcome State Fault Refusal :=
  match s.held[i]? with
  | none => .next s
  | some h =>
    let s1 := { s with held := s.held.eraseIdx i }
    let s2 := match h.command with
      | some c => { s1 with copies := Tab.del s1.copies c }
      | none => s1
    if s2.isSaved h.org.group then .next s else
    match s2.liveGroup h.org.group with
    | none =>
      let s3 := { s2 with
        reports := s2.reports ++ [{ kind := .endedGroup, f := h.f, core := h.org.core, resident := h.org.resident,
                                    group := h.org.num, block := h.org.block, of := .none, words := [], index := none }] }
      .next (match h.result with
        | some r => s3.writeResult r
        | none => s3)
    | some x =>
      if 64 ≤ x.faults.length then .next s
      else
        let s3 := s2.setGroup h.org.group ((s2.refusedWith h.org.group h.f).foldl Group.releaseRay
          { x with faults := insertFault h.f x.faults })
        let s4 := match h.result with
          | some r => s3.putResult r
          | none => s3
        let s5 := s4.noteWake x.core 2
        let stopping : Bool := match s5.blockOf x with
          | some b => b.phase == .stopping
          | none => false
        .next ((if stopping then s5 else s5.deliverParked h.org.group).modGroup h.org.group Group.unpark)

/-! ### Trap entry of a waiting subset (R286) -/

/-- A subset that may now enter the handler: one that waits for its last pending bit, or one that waited for another
subset's handler. During a run-ahead only the current subset goes on (07 R164). -/
def Group.mayEnter (x : Group) (u : Subset) : Bool :=
  let now := !x.anyTrap && !x.maskPending u.mask && x.runAhead.isNone
  match u.wait with
  | .entry _ _ => now
  | .handler _ => now
  | _ => false

/-- TRAP_ENTRY (R286): a subset whose wait has ended enters the handler; it is eligible from then on. The fault of one
that waited for another subset's handler goes to the front end where EN is now 0. (DEDUCED, log 7.) -/
def execTrapEntry (g : Nat) (s : State) : Host.Outcome State Fault Refusal :=
  match s.group? g with
  | none => .next s
  | some x =>
    match x.waiting.find? x.mayEnter with
    | none => .next s
    | some u =>
      let rest := { x with waiting := x.waiting.erase u }
      let after := fun (s : State) => s.modGroup g fun y => { y with waiting := y.waiting ++ [{ u with wait := .none }] }
      let enabled : Bool := match s.blockOf x with
        | some b => b.trapEnabled
        | none => false
      match u.wait with
      | .entry f skip => .next (after ((s.setGroup g rest).enterHandler g u.mask f skip))
      | .handler f =>
        if enabled then .next (after ((s.setGroup g rest).enterHandler g u.mask f f.cause.skips))
        else .next (after ((s.setGroup g rest).reportGroup g rest .blockEnded f))
      | _ => .next s

/-! ### The end of a run-ahead (07 R164, R165) -/

/-- RUN_AHEAD_STOP: results in flight are discarded, the checkpoint is restored, and the fault is reported
at the instruction that raised it; for a block that is being pre-empted it is reported after the restore, when
the instruction raises it again (13 R294). The issues of the run-ahead stay counted in its group, and the count of the
subset goes back with the checkpoint (DESIGN CHOICE, log 46). -/
def execRunAheadStop (g : Nat) (s : State) : Host.Outcome State Fault Refusal :=
  match s.group? g with
  | none => .next s
  | some x =>
    match x.runAhead with
    | none => .next s
    | some k =>
      if k.stop then
        let y :=
          { x with
            regs := k.regs, pend := k.pend, bad := k.bad, fibres := k.fibres, current := k.current
            waiting := k.waiting, tags := k.tags, runAhead := none }
        let s1 := { s with results := s.results.filter fun r => !(r.group == g && r.spec) }
        let stopping : Bool := match s.blockOf x with
          | some b => decide (b.phase = .stopping)
          | none => false
        let f := { k.fault with ops := k.fault.ops ++ [toWord k.batch.length] }
        let va := (nth f.ops 0 0).toNat + (nth f.ops 1 0).toNat * 2 ^ 32
        let s2 := s1.setGroup g (s1.retryMatrix g y.unpark)
        .next (if stopping then s2 else s2.raiseService g f va k.batch)
      else .next s

/-! ### Waking a gated core (02 R46-R48) -/

/-- CORE_WAKE (R47, R48): sr.wake gathers the reasons of the wake. -/
def execCoreWake (core : Nat) (s : State) : Host.Outcome State Fault Refusal :=
  let x := s.core core
  if x.gate != .running && x.due != 0 then
    let src : BitVec 2 := if x.gate == .power then 2 else 1
    .next (s.setCore core { x with gate := .running, wakeFrom := src, wakeBits := x.wakeBits ||| x.due, due := 0 })
  else .next s

/-- Whether a fibre's subset lets its core gate its clock (R46). -/
def Group.fibreGates (x : Group) (u : Subset) : Bool :=
  let engine := x.pend.all fun p => !u.mask.getLsbD (p.1 / 128) || p.2.engine
  match u.wait with
  | .phase _ _ _ _ => engine
  | .park => engine
  | .matrix _ => engine
  | .entry _ _ => engine && x.maskPending u.mask && x.fibres.all fun p => !u.mask.getLsbD p.1 || p.2.rewait
  | _ => false

/-- CORE_CLOCK_GATE (R46): every live fibre of every resident group waits for the core's own engines; a core without
groups has none that does not. -/
def execCoreClockGate (core : Nat) (s : State) : Host.Outcome State Fault Refusal :=
  let gs := s.groups.filter fun p => p.2.core == core
  let ok := decide (core < 192) && gs.all fun p =>
    p.2.current.isNone && p.2.hold.isNone && p.2.runAhead.isNone && p.2.waiting.all p.2.fibreGates
      && !s.ord.promotions.any fun q => q.group == p.1
  if ok && (s.core core).gate == .running then .next (s.setCore core { s.core core with gate := .clock, due := 0 })
  else .next s

/-- CORE_POWER_GATE (R47): a core with no resident block. A wake that is on its way stays on its way. -/
def execCorePowerGate (core : Nat) (s : State) : Host.Outcome State Fault Refusal :=
  if 192 ≤ core || s.blocks.any (fun b => b.2.seats.any fun e => e.core == core) then .next s
  else .next (s.setCore core { s.core core with gate := .power })

end Sys2Proof.Machine
end

