-- ==== Sys2Proof/Machine/Num.lean ====
section
/-!
DEFINITION. Number formats (04): decoding, exact values, and rounding once, with the flags of R87.
An exact finite magnitude is n / d · 2^e.
-/
namespace Sys2Proof.Machine

/-- A binary interchange format (R85): precision, exponent of the largest and of the smallest normal
binade, width of the code without its sign. -/
structure Fmt where
  p : Nat
  emax : Int
  emin : Int
  width : Nat
  deriving DecidableEq, Repr

def f32 : Fmt := { p := 24, emax := 127, emin := -126, width := 31 }
def f16 : Fmt := { p := 11, emax := 15, emin := -14, width := 15 }
def bf16 : Fmt := { p := 8, emax := 127, emin := -126, width := 15 }
def acc40 : Fmt := { p := 32, emax := 127, emin := -126, width := 39 }

/-- The code of infinity, without its sign: exponent field all ones. -/
def Fmt.infCode (F : Fmt) : Nat := 2 ^ F.width - 2 ^ (F.p - 1)

/-- The canonical NaN (R85, R86). -/
def Fmt.nanCode (F : Fmt) : Nat := F.infCode + 2 ^ (F.p - 2)

/-- The largest finite code, without its sign. -/
def Fmt.maxCode (F : Fmt) : Nat := F.infCode - 1

def Fmt.signed (F : Fmt) (neg : Bool) (code : Nat) : Nat := if neg then 2 ^ F.width + code else code

/-- A value of a format: NaN (signalling or not), an infinity, or ± m · 2^e, where m = 0 is a signed zero. -/
inductive FNum where
  | nan (signalling : Bool)
  | inf (neg : Bool)
  | fin (neg : Bool) (m : Nat) (e : Int)
  deriving DecidableEq, Repr

/-- The value of a code (R85). -/
def Fmt.decode (F : Fmt) (code : Nat) : FNum :=
  let neg := code.testBit F.width
  let c := code % 2 ^ F.width
  let ex := c / 2 ^ (F.p - 1)
  let fr := c % 2 ^ (F.p - 1)
  let top := F.infCode / 2 ^ (F.p - 1)
  if ex = top then (if fr = 0 then .inf neg else .nan (!fr.testBit (F.p - 2)))
  else if ex = 0 then .fin neg fr (F.emin - (F.p - 1 : Nat))
  else .fin neg (2 ^ (F.p - 1) + fr) (F.emin - (F.p - 1 : Nat) + (ex - 1 : Nat))

def FNum.isNan : FNum → Bool
  | .nan _ => true
  | _ => false

def FNum.isSig : FNum → Bool
  | .nan s => s
  | _ => false

def FNum.isZero : FNum → Bool
  | .fin _ 0 _ => true
  | _ => false

def FNum.isInf : FNum → Bool
  | .inf _ => true
  | _ => false

def FNum.neg? : FNum → Bool
  | .inf n => n
  | .fin n _ _ => n
  | .nan _ => false

def FNum.negate : FNum → FNum
  | .inf n => .inf (!n)
  | .fin n m e => .fin (!n) m e
  | x => x

/-! ### Magnitudes -/

/-- The scaled quotient n / d · 2^e / 2^u as numerator and denominator. -/
def scaled (n d : Nat) (e u : Int) : Nat × Nat :=
  if u ≤ e then (n * 2 ^ (e - u).toNat, d) else (n, d * 2 ^ (u - e).toNat)

/-- floor(log2(n / d · 2^e)) of a nonzero magnitude. -/
def floorLog2 (n d : Nat) (e : Int) : Int :=
  let l := (Nat.log2 n : Int) - (Nat.log2 d : Int) + e
  let s := scaled n d e l
  if s.1 < s.2 then l - 1 else l

/-- Whether the quotient N / D is rounded up from its floor q (R90, R96): the remainder decides. -/
def roundsUp (m : RMode) (neg : Bool) (N D : Nat) (r : Word) : Bool :=
  let q := N / D
  let rem := N % D
  if rem = 0 then false
  else match m with
    | .rn => decide (D < 2 * rem) || (decide (2 * rem = D) && q % 2 == 1)
    | .rz => false
    | .rd => neg
    | .ru => !neg
    | .rs => decide (r.toNat < rem * 2 ^ 32 / D)

/-- A nonzero exact magnitude delivered in a format: the code without its sign, and the flags (R87, R90). -/
def Fmt.roundMag (F : Fmt) (m : RMode) (r : Word) (neg : Bool) (n d : Nat) (e : Int) : Nat × Word :=
  let L := floorLog2 n d e
  let deliver := fun (m : RMode) =>
    let ulp := L - ((F.p - 1 : Nat) : Int)
    let s := scaled n d e ulp
    let q := s.1 / s.2 + if roundsUp m neg s.1 s.2 r then 1 else 0
    let Lu := if q = 2 ^ F.p then L + 1 else L
    if F.emax < Lu then
      let toInf := match m with
        | .rn => true
        | .rz => false
        | .rd => neg
        | .ru => !neg
        | .rs => true
      (if toInf then F.infCode else F.maxCode, flagOF ||| flagNX)
    else
      let E := max L F.emin
      let t := scaled n d e (E - ((F.p - 1 : Nat) : Int))
      let k := t.1 / t.2 + if roundsUp m neg t.1 t.2 r then 1 else 0
      let nx := t.1 % t.2 != 0
      ((E - F.emin).toNat * 2 ^ (F.p - 1) + k, flagIf nx flagNX ||| flagIf (nx && decide (Lu < F.emin)) flagUF)
  let big := scaled n d e (F.emax - ((F.p - 1 : Nat) : Int))
  match m with
  | .rs => if (2 ^ F.p - 1) * big.2 < big.1 then deliver .rn else deliver .rs
  | _ => deliver m

/-- A signed exact magnitude, possibly zero, delivered with its sign. -/
def Fmt.round (F : Fmt) (m : RMode) (r : Word) (neg : Bool) (n d : Nat) (e : Int) : Nat × Word :=
  if n = 0 then (F.signed neg 0, 0)
  else
    let x := F.roundMag m r neg n d e
    (F.signed neg x.1, x.2)

/-- A value delivered in a format (R86, R90): a NaN becomes canonical, and NV is set when it signals. -/
def Fmt.deliver (F : Fmt) (m : RMode) (r : Word) : FNum → Nat × Word
  | .nan s => (F.nanCode, flagIf s flagNV)
  | .inf n => (F.signed n F.infCode, 0)
  | .fin n k e => F.round m r n k 1 e

/-! ### Arithmetic, exact and then rounded once to nearest (05 R120) -/

/-- ± m · 2^e as an integer multiple of 2^u, for u ≤ e. -/
def asInt (neg : Bool) (m : Nat) (e u : Int) : Int :=
  let k := (m * 2 ^ (e - u).toNat : Nat)
  if neg then -(k : Int) else k

/-- The exact sum of two finite values: sign, magnitude, exponent. A zero sum of opposite signs is +0. -/
def finAdd (n1 : Bool) (m1 : Nat) (e1 : Int) (n2 : Bool) (m2 : Nat) (e2 : Int) : Bool × Nat × Int :=
  let u := min e1 e2
  let i := asInt n1 m1 e1 u + asInt n2 m2 e2 u
  if i = 0 then ((m1 == 0 && m2 == 0 || n1 == n2) && n1 && n2, 0, u) else (decide (i < 0), i.natAbs, u)

def anySig (l : List FNum) : Bool := l.any FNum.isSig

/-- NaN with NV. -/
def Fmt.invalid (F : Fmt) : Nat × Word := (F.nanCode, flagNV)

/-- The canonical NaN of NaN operands: NV when one signals. -/
def Fmt.nanOf (F : Fmt) (l : List FNum) : Nat × Word := (F.nanCode, flagIf (anySig l) flagNV)

def Fmt.addNum (F : Fmt) (x y : FNum) : Nat × Word :=
  match x, y with
  | .nan _, _ => F.nanOf [x, y]
  | _, .nan _ => F.nanOf [x, y]
  | .inf a, .inf b => if a = b then (F.signed a F.infCode, 0) else F.invalid
  | .inf a, .fin _ _ _ => (F.signed a F.infCode, 0)
  | .fin _ _ _, .inf b => (F.signed b F.infCode, 0)
  | .fin n1 m1 e1, .fin n2 m2 e2 =>
    let t := finAdd n1 m1 e1 n2 m2 e2
    F.round .rn 0 t.1 t.2.1 1 t.2.2

def Fmt.mulNum (F : Fmt) (x y : FNum) : Nat × Word :=
  match x, y with
  | .nan _, _ => F.nanOf [x, y]
  | _, .nan _ => F.nanOf [x, y]
  | .inf a, .inf b => (F.signed (a != b) F.infCode, 0)
  | .inf a, .fin b m _ => if m = 0 then F.invalid else (F.signed (a != b) F.infCode, 0)
  | .fin a m _, .inf b => if m = 0 then F.invalid else (F.signed (a != b) F.infCode, 0)
  | .fin a m1 e1, .fin b m2 e2 => F.round .rn 0 (a != b) (m1 * m2) 1 (e1 + e2)

/-- x · y + z, rounded once. A product 0 · ∞ sets NV even when z is a quiet NaN (R120). -/
def Fmt.fmaNum (F : Fmt) (x y z : FNum) : Nat × Word :=
  let zeroInf := (x.isZero && y.isInf) || (x.isInf && y.isZero)
  if x.isNan || y.isNan then F.nanOf [x, y, z]
  else if zeroInf then F.invalid
  else
    match x, y, z with
    | .fin a m1 e1, .fin b m2 e2, .fin n3 m3 e3 =>
      let t := finAdd (a != b) (m1 * m2) (e1 + e2) n3 m3 e3
      F.round .rn 0 t.1 t.2.1 1 t.2.2
    | _, _, .nan _ => F.nanOf [z]
    | .fin _ _ _, .fin _ _ _, .inf c => (F.signed c F.infCode, 0)
    | _, _, .inf c => if (x.neg? != y.neg?) = c then (F.signed c F.infCode, 0) else F.invalid
    | _, _, .fin _ _ _ => (F.signed (x.neg? != y.neg?) F.infCode, 0)

def Fmt.divNum (F : Fmt) (x y : FNum) : Nat × Word :=
  match x, y with
  | .nan _, _ => F.nanOf [x, y]
  | _, .nan _ => F.nanOf [x, y]
  | .inf _, .inf _ => F.invalid
  | .inf a, .fin b _ _ => (F.signed (a != b) F.infCode, 0)
  | .fin a _ _, .inf b => (F.signed (a != b) 0, 0)
  | .fin a m1 e1, .fin b m2 e2 =>
    if m2 = 0 then (if m1 = 0 then F.invalid else (F.signed (a != b) F.infCode, 0))
    else F.round .rn 0 (a != b) m1 m2 (e1 - e2)

/-! ### Order -/

/-- x < y and x = y for values that are not NaN; the zeros are equal. -/
def FNum.lt : FNum → FNum → Bool
  | .inf a, .inf b => a && !b
  | .inf a, .fin _ _ _ => a
  | .fin _ _ _, .inf b => !b
  | .fin n1 m1 e1, .fin n2 m2 e2 => decide (asInt n1 m1 e1 (min e1 e2) < asInt n2 m2 e2 (min e1 e2))
  | _, _ => false

def FNum.eqv : FNum → FNum → Bool
  | .inf a, .inf b => a == b
  | .fin n1 m1 e1, .fin n2 m2 e2 => decide (asInt n1 m1 e1 (min e1 e2) = asInt n2 m2 e2 (min e1 e2))
  | _, _ => false

/-- minimumNumber (`max` false) and maximumNumber of two codes (R121). -/
def Fmt.minMax (F : Fmt) (isMax : Bool) (a b : Nat) : Nat × Word :=
  let x := F.decode a
  let y := F.decode b
  let fl := flagIf (x.isSig || y.isSig) flagNV
  if x.isNan && y.isNan then (F.nanCode, fl)
  else if x.isNan then (b, fl)
  else if y.isNan then (a, fl)
  else
    let less := x.lt y || (x.eqv y && x.neg? && !y.neg?)
    (if less != isMax then a else b, fl)

/-! ### Marker formats (R91-R98) -/

/-- The magnitude of a marker code's m as (k, e): k · 2^e. `w` is 7 or 3. -/
def markMag (w m : Nat) : Nat × Int :=
  if m = 0 then (0, 0)
  else
    let z := w - 1 - Nat.log2 m
    if z = w - 1 then (1, -(2 * (w - 1) : Nat))
    else
      let k := w - 2 - z
      let e := if m.testBit k then 1 else 0
      let f := m % 2 ^ k
      (2 ^ k + f, (e : Int) - (2 * z + 1 : Nat) - (k : Nat))

/-- The value of a marker code (R91). -/
def markDecode (w code : Nat) : FNum :=
  let m := code % 2 ^ w
  let s := code.testBit w
  if m = 0 then (if s then .nan false else .fin false 0 0)
  else
    let v := markMag w m
    .fin s v.1 v.2

/-- n / d · 2^e ≤ k · 2^u. -/
def magLe (n d : Nat) (e : Int) (k : Nat) (u : Int) : Bool :=
  let s := scaled n d e u
  decide (s.1 ≤ k * s.2)

/-- The largest m of a marker format whose magnitude does not exceed a magnitude. -/
def markFloor (w n d : Nat) (e : Int) : Nat :=
  (List.range (2 ^ w)).foldl (fun best m =>
    let v := markMag w m
    let s := scaled n d e v.2
    if v.1 * s.2 ≤ s.1 then m else best) 0

/-- Rounds an exact value into a marker format (R95, R96). -/
def markRound (w : Nat) (m : RMode) (r : Word) : FNum → Nat × Word
  | .nan s => (2 ^ w, flagIf s flagNV)
  | .inf s => ((if s then 2 ^ w else 0) + (2 ^ w - 1), flagSAT ||| flagNX)
  | .fin s n e =>
    if n = 0 then (0, 0)
    else
      let top := markMag w (2 ^ w - 1)
      let sgn := fun (c : Nat) => if c = 0 then 0 else (if s then 2 ^ w else 0) + c
      if !magLe n 1 e top.1 top.2 then (sgn (2 ^ w - 1), flagSAT ||| flagNX)
      else
        let lo := markFloor w n 1 e
        let a := markMag w lo
        let u := min e (min a.2 (-(2 * (w - 1) : Nat)))
        let A := asInt false a.1 a.2 u
        let X := asInt false n e u
        if A = X then (sgn lo, 0)
        else
          let b := markMag w (lo + 1)
          let u2 := min u b.2
          let A := (asInt false a.1 a.2 u2).toNat
          let B := (asInt false b.1 b.2 u2).toNat
          let X := (asInt false n e u2).toNat
          let up := match m with
            | .rn => decide (B - X < X - A) || (decide (B - X = X - A) && lo % 2 == 1)
            | .rz => false
            | .rd => s
            | .ru => !s
            | .rs => decide (r.toNat < (X - A) * 2 ^ 32 / (B - A))
          (sgn (if up then lo + 1 else lo), flagNX ||| flagIf (lo == 0) flagUF)

/-- A value times a power of two. -/
def FNum.shift (x : FNum) (k : Int) : FNum :=
  match x with
  | .fin n m e => .fin n m (e + k)
  | y => y

/-- The value of a scaled marker code (R97). -/
def markScaled (w code scale : Nat) : FNum :=
  if scale = 255 then .nan false else (markDecode w code).shift ((scale : Int) - 127)

/-- Encodes a value under a scale (R98); a scale of 255 gives the NaN code (07 R161), and no flag, whatever the value
(DESIGN CHOICE, log 43). -/
def markEncode (w scale : Nat) (x : FNum) : Nat × Word :=
  if scale = 255 then (2 ^ w, 0) else markRound w .rn 0 (x.shift (127 - (scale : Int)))

/-! ### Integers (R104) -/

/-- A finite value rounded to an integer, and whether that changed it. -/
def toInteger (m : RMode) (neg : Bool) (k : Nat) (e : Int) : Int × Bool :=
  let s := scaled k 1 e 0
  let q := s.1 / s.2 + if roundsUp m neg s.1 s.2 0 then 1 else 0
  (if neg then -(q : Int) else q, s.1 % s.2 != 0)

/-- Conversion of a value to an integer range (R104, conversions 0x2 and 0x3). -/
def floatToInt (m : RMode) (lo hi : Int) : FNum → Int × Word
  | .nan _ => (0, flagNV)
  | .inf s => (if s then lo else hi, flagNV ||| flagSAT)
  | .fin s k e =>
    let y := toInteger m s k e
    if y.1 < lo || hi < y.1 then (clamp y.1 lo hi, flagNV ||| flagSAT) else (y.1, flagIf y.2 flagNX)

/-- An integer as a value. -/
def intNum (i : Int) : FNum := .fin (decide (i < 0)) i.natAbs 0

end Sys2Proof.Machine
end

