-- ==== Sys2Proof/Machine/Geometry.lean ====
section
/-!
DEFINITION. Nested integer geometry (16): exact rationals, root records, nodes and leaves, rays and frames, the
side predicate, the triangle test, and the list of a node. Coordinates are in units of 2^-16 steps of their
frame.
-/
namespace Sys2Proof.Machine

/-! ### Exact rationals -/

/-- n / d with d positive. -/
structure Frac where
  n : Int
  d : Nat
  deriving DecidableEq, Repr

/-- A quotient of integers, the divisor not zero. -/
def frac (n d : Int) : Frac := if d < 0 then { n := -n, d := d.natAbs } else { n := n, d := d.natAbs }

def Frac.le (a b : Frac) : Bool := decide (a.n * b.d ≤ b.n * a.d)
def Frac.max (a b : Frac) : Frac := if a.le b then b else a
def Frac.min (a b : Frac) : Frac := if a.le b then a else b
def Frac.plus (a : Frac) (k : Int) : Frac := { a with n := a.n + k * a.d }
def Frac.floor (a : Frac) : Int := a.n / (a.d : Int)

/-- An exact value rounded to binary32; an exact zero is +0 (04 R80). (DEDUCED, log 14.) -/
def Frac.word (m : RMode) (a : Frac) : Word := toWord (f32.round m 0 (decide (a.n < 0)) a.n.natAbs a.d 0).1

/-- A finite binary32 value as a rational. -/
def finFrac (neg : Bool) (m : Nat) (e : Int) : Frac :=
  let k : Int := if neg then -(m : Int) else m
  if 0 ≤ e then { n := k * 2 ^ e.toNat, d := 1 } else { n := k, d := 2 ^ (-e).toNat }

/-- round(exact(x + k)) for a binary32 word that is not NaN. A sum that is exactly zero is −0 in rd (04 R90; that of two
zeros too: DEDUCED, log 14). -/
def wordPlus (m : RMode) (x : Word) (k : Int) : Word :=
  match f32.decode x.toNat with
  | .fin neg n e =>
    let q := (finFrac neg n e).plus k
    if q.n = 0 then toWord (f32.signed (m == .rd) 0) else q.word m
  | .inf neg => toWord (f32.signed neg f32.infCode)
  | .nan _ => toWord f32.nanCode

def wordNan (x : Word) : Bool := (f32.decode x.toNat).isNan
def wordLt (x y : Word) : Bool := (f32.decode x.toNat).lt (f32.decode y.toNat)
def wordLe (x y : Word) : Bool := !wordLt y x && !wordNan x && !wordNan y

/-! ### Vectors -/

structure V3 where
  x : Int
  y : Int
  z : Int
  deriving DecidableEq, Repr

def V3.sub (a b : V3) : V3 := { x := a.x - b.x, y := a.y - b.y, z := a.z - b.z }
def V3.cross (a b : V3) : V3 :=
  { x := a.y * b.z - a.z * b.y, y := a.z * b.x - a.x * b.z, z := a.x * b.y - a.y * b.x }
def V3.dot (a b : V3) : Int := a.x * b.x + a.y * b.y + a.z * b.z
def V3.list (a : V3) : List Int := [a.x, a.y, a.z]

/-! ### Sides and triangles (R309, R310) -/

def signOf (i : Int) : Int := if i < 0 then -1 else if i = 0 then 0 else 1

/-- side(a, b) for a ray (o, d), with the determinant. -/
def side (o d a b : V3) : Int × Int :=
  let e := b.sub a
  let x := e.dot ((a.sub o).cross d)
  let keys := (e.cross d).list ++ e.list
  match x == 0, keys.find? fun k => k != 0 with
  | false, _ => (signOf x, x)
  | true, some k => (signOf k, 0)
  | true, none => (0, 0)

/-- A triangle that the line of a ray hits: the parameter less T0, and the barycentrics. -/
structure TriHit where
  t : Frac
  u : Frac
  v : Frac
  deriving DecidableEq, Repr

/-- The test of R310. -/
def triHit (o d : V3) (oneSide : Bool) (p0 p1 p2 : V3) : Option TriHit :=
  let s0 := side o d p1 p2
  let s1 := side o d p2 p0
  let s2 := side o d p0 p1
  let m := (p1.sub p0).cross (p2.sub p0)
  let den := d.dot m
  let same := s0.1 == s1.1 && s1.1 == s2.1 && s0.1 != 0 && (!oneSide || s0.1 == 1)
  if same && den != 0 then
    let sum := s0.2 + s1.2 + s2.2
    some { t := frac ((p0.sub o).dot m) den, u := frac s1.2 sum, v := frac s2.2 sum }
  else none

/-! ### Records (R299-R303) -/

/-- The address of the root node, from the 64 bytes of a root record; none when it is invalid. -/
def rootNode (va v : Nat) : Option Nat :=
  let node := field v 127 104
  if v >>> 128 != 0 || node == 0 then none else some ((va + 64 * node) % 2 ^ 52)

/-- A child of a node: index, lo and s on x, y and z, address, and whether it is a leaf. -/
structure Child where
  idx : Nat
  lo : List Nat
  s : List Nat
  addr : Nat
  leaf : Bool
  deriving DecidableEq, Repr

/-- Descriptor j of a node. -/
def childOf (va v j : Nat) : Child :=
  let d := field v (91 + 60 * j) (32 + 60 * j)
  { idx := j
    lo := [field d 7 0, field d 15 8, field d 23 16]
    s := [field d 27 24, field d 31 28, field d 35 32]
    addr := (va + 64 * field d 59 36) % 2 ^ 52
    leaf := v.testBit (3 + j) }

/-- The children of a node, from its 64 bytes; none when it is invalid (R300, R301). -/
def nodeKids (va v : Nat) : Option (List Child) :=
  let n := v % 8 + 1
  let kids := (List.range n).map (childOf va v)
  let okKid := fun (c : Child) =>
    field v (91 + 60 * c.idx) (68 + 60 * c.idx) != 0 && (!c.leaf || c.addr % 128 == 0)
      && (c.lo.zip c.s).all fun p => decide (p.2 ≤ 8) && decide (p.1 + 2 ^ p.2 ≤ 256)
  let rest := (List.range 8).drop n
  if field v 31 11 == 0 && kids.all okKid
      && rest.all (fun j => field v (91 + 60 * j) (32 + 60 * j) == 0 && !v.testBit (3 + j)) then some kids
  else none

/-- A leaf: the number of vertices, the vertices, the triangles, the primitive base, whether it is procedural,
and the user value. -/
structure Leaf where
  nv : Nat
  vtx : List (Nat × Nat × Nat)
  tris : List (Nat × Nat × Nat)
  prim : Word
  proc : Bool
  user : Word
  deriving DecidableEq, Repr

/-- A leaf from its 128 bytes; none when it is invalid (R302, R303). -/
def leafOf (v : Nat) : Option Leaf :=
  let nt := field v 4 0
  let nv := field v 9 5
  let proc := v.testBit 10
  let vt := fun i => field v (99 + 36 * i) (64 + 36 * i)
  let tr := fun j => field v (651 + 12 * j) (640 + 12 * j)
  let tri := fun j => let t := tr j; (t % 16, field t 7 4, field t 11 8)
  let tris := (List.range nt).map tri
  let ok := field v 31 11 == 0 && v >>> 928 == 0 && decide (nt ≤ 24) && decide (nv ≤ 16)
    && (if proc then nt == 0 && nv == 0 && v >>> 96 == 0
        else tris.all (fun t => decide (t.1 < nv) && decide (t.2.1 < nv) && decide (t.2.2 < nv))
          && ((List.range 16).drop nv).all (fun i => vt i == 0) && ((List.range 24).drop nt).all fun j => tr j == 0)
  if ok then
    some { nv := nv, vtx := (List.range nv).map fun i => let x := vt i; (field x 11 0, field x 23 12, field x 35 24)
           tris := tris, prim := toWord (field v 63 32), proc := proc, user := toWord (field v 95 64) }
  else none

/-- Vertex i of a leaf in its frame. -/
def Leaf.point (l : Leaf) (i : Nat) : V3 :=
  let p := nth l.vtx i (0, 0, 0)
  { x := p.1 * 2 ^ 20, y := p.2.1 * 2 ^ 20, z := p.2.2 * 2 ^ 20 }

/-! ### Rays and frames (R306-R308) -/

/-- A ray in a frame: origin, direction, T0, and the shifts S from the root. -/
structure Frame where
  o : V3
  d : V3
  t0 : Int
  sh : List Nat
  deriving DecidableEq, Repr

/-- A ray record. -/
structure RayRec where
  frame : Frame
  tmin : Word
  tmax : Word
  root : Nat
  addr : Word
  noProc : Bool
  oneSide : Bool
  first : Bool
  check : Word
  deriving DecidableEq, Repr

/-- A direction component in units of 2^-16 root steps, for EXP ≥ 134 (R307). -/
def dirComponent (w : Word) : Int :=
  if wbits w 31 8 = 0 then 0 else sxNat (wbits w 31 8) 24 * 2 ^ (wbits w 7 0 - 134)

/-- The ray record of twelve words, and whether R307 holds of it but for the state record address. -/
def rayRec (ws : List Word) : RayRec × Bool :=
  let w := fun i => nth ws i 0
  let org := fun (lo : Word) (hi : Nat) => sxNat (lo.toNat + hi * 2 ^ 32) 48
  let dir := [w 5, w 6, w 7]
  let ok := wbits (w 4) 27 19 == 0 && (dir.any fun d => wbits d 31 8 != 0)
    && (dir.all fun d => wbits d 31 8 == 0 || decide (134 ≤ wbits d 7 0))
    && wordLe (w 8) (w 9) && wbits (w 10) 5 0 == 0
  ({ frame :=
       { o := { x := org (w 0) (wbits (w 3) 15 0), y := org (w 1) (wbits (w 3) 31 16), z := org (w 2) (wbits (w 4) 15 0) }
         d := { x := dirComponent (w 5), y := dirComponent (w 6), z := dirComponent (w 7) }
         t0 := 0, sh := [0, 0, 0] }
     tmin := w 8, tmax := w 9, root := (w 10).toNat + wbits (w 11) 19 0 * 2 ^ 32
     addr := toWord (wbits (w 4) 31 28 * 2 ^ 18 + 64 * wbits (w 11) 31 20)
     noProc := wbit (w 4) 18, oneSide := wbit (w 4) 17, first := wbit (w 4) 16
     check := (crc64 (bytesOfWords ws)).setWidth 32 }, ok)

/-- The interval of a slab on one axis: every t (none), or the two parameters less T0; `some none` when empty. -/
def slab (o d : Int) (lo s : Nat) : Option (Option (Frac × Frac)) :=
  let a : Int := lo * 2 ^ 24
  let b : Int := a + 2 ^ (24 + s)
  if d = 0 then (if a ≤ o ∧ o ≤ b then none else some none)
  else
    let p := frac (a - o) d
    let q := frac (b - o) d
    some (some (p.min q, p.max q))

/-- The intersection of the slab intervals of a child's box, in t (R313). -/
def boxInterval (f : Frame) (c : Child) : Option (Frac × Frac) :=
  let meet := fun (acc : Option (Option (Frac × Frac))) (v : Option (Option (Frac × Frac))) =>
    match acc, v with
    | some none, _ => some none
    | _, some none => some none
    | none, v => v
    | a, none => a
    | some (some p), some (some q) => some (some (p.1.max q.1, p.2.min q.2))
  let axis := fun (i : Nat) (o d : Int) => slab o d (nth c.lo i 0) (nth c.s i 0)
  match [axis 0 f.o.x f.d.x, axis 1 f.o.y f.d.y, axis 2 f.o.z f.d.z].foldl meet none with
  | some (some p) => some (p.1.plus f.t0, p.2.plus f.t0)
  | _ => none

/-- Stepping into a child with ordering key e (R308). -/
def Frame.inward (f : Frame) (c : Child) (e : Frac) : Frame :=
  let k := (e.plus (-f.t0)).floor
  let n : Int := if 1 ≤ k then k else 0
  let sh := fun i => 8 - nth c.s i 0
  let org := fun (i : Nat) (o d : Int) => (o + n * d - nth c.lo i 0 * 2 ^ 24) * 2 ^ sh i
  { o := { x := org 0 f.o.x f.d.x, y := org 1 f.o.y f.d.y, z := org 2 f.o.z f.d.z }
    d := { x := f.d.x * 2 ^ sh 0, y := f.d.y * 2 ^ sh 1, z := f.d.z * 2 ^ sh 2 }
    t0 := f.t0 + n
    sh := (List.range 3).map fun i => nth f.sh i 0 + sh i }

/-- max(α, TMIN) (R313). -/
def keyOf (tmin : Word) (a : Frac) : Frac :=
  match f32.decode tmin.toNat with
  | .fin neg m e => a.max (finFrac neg m e)
  | _ => a

/-- The children of a list, by ascending key and then by index. -/
def insertKid (c : Child × Frac) : List (Child × Frac) → List (Child × Frac)
  | [] => [c]
  | h :: t => if h.2.le c.2 then h :: insertKid c t else c :: h :: t

/-- The list of a node (R313). -/
def nodeList (r : RayRec) (f : Frame) (kids : List Child) : List (Child × Frac) :=
  kids.foldl (fun l c =>
    match boxInterval f c with
    | some (a, b) =>
      if a.le b && wordLe r.tmin (b.word .rn) && wordLe (a.word .rn) r.tmax then insertKid (c, keyOf r.tmin a) l else l
    | none => l) []

end Sys2Proof.Machine
end

