-- ==== Sys2Proof/Machine/Update.lean ====
section
/-!
DEFINITION. Records of a tree as the traversal unit reads them (16 R304, R326), what a fault does to a lane's operation
(R327, R328), the walk along a handle (R320, R321), and what a `gupd` finds and writes (R322).
-/
namespace Sys2Proof.Machine

/-! ### Reading records (R304, R326) -/

/-- A record that was read, with its page, or a fault. -/
inductive ReadRec where
  | ok (v : Nat) (p : Page) (s : State)
  | fault (c : Cause) (s : State)
  deriving DecidableEq, Repr

/-- Reads n bytes of the tree as one access. -/
def State.readRecord (s : State) (root va n : Nat) : ReadRec :=
  match s.translate root va .read with
  | (.page p, s1) =>
    if p.fmt != 0 || (p.cmp != 0 && decide (p.size ≤ va - p.vbase + p.size / 256)) then .fault .format s1
    else
      let e := s1.engineRead p.comp p.key n
      if e.2 then .fault .ecc s1 else .ok (ofBytes e.1) p s1
  | (.xlate, s1) => .fault .xlate s1
  | (.migrate, s1) => .fault .migrate s1
  | (.protect, s1) => .fault .protect s1

/-! ### Ends of a lane's operation (R317, R327, R328) -/

/-- The record of a fault of a lane's operation (R327). -/
def Ray.faultRec (r : Ray) (s : State) (c : Cause) (va depth : Nat) : FaultRec :=
  let first := match s.group? r.org.group with
    | some x => x.first
    | none => 0
  let own := match r.op with
    | .ray => let q := (rayRec r.regs).1; [q.addr, q.check]
    | _ => [nth r.regs 0 0, nth r.regs 2 0]
  asyncRec s c (first + r.lane) 3 r.pc ([r.word, toWord va, toWord (va / 2 ^ 32)] ++ own ++ [toWord depth]) 0

/-- The operation leaves the unit, and its results are sent. -/
def State.finishRay (s : State) (id : Nat) (r : Ray) (vals : List Word) : State :=
  ({ s with rays := Tab.del s.rays id }).sendResult r.org.group (some r.lane) r.dest vals

/-- The operation is aborted: REFUSED and zeros are written when its fault enters the queue. -/
def State.abortRay (s : State) (id : Nat) (r : Ray) (c : Cause) (va depth : Nat) : State :=
  ({ s with rays := Tab.del s.rays id }).holdFault r.org (r.faultRec s c va depth)
    (some { group := r.org.group, lane := some r.lane, reg := r.dest
            vals := stREFUSED :: List.replicate (r.op.regs - 1) 0, spec := false }) none

/-- The operation stops at a page: MIGRATE until a walk no longer finds MIG (13 R288), XLATE for the host's answer. -/
def State.stopRay (s : State) (id : Nat) (r : Ray) (c : Cause) (va depth : Nat) : State :=
  if c = .migrate then
    { s with rays := Tab.put s.rays id (if s.foundMig r.root va then { r with phase := .migrating va } else r) }
  else
    { s with
      rays := Tab.put s.rays id { r with phase := .stopped }
      reports := s.reports ++ [{ kind := .pageService, f := r.faultRec s c va depth, core := r.org.core,
                                 resident := r.org.resident, group := r.org.num, block := r.org.block,
                                 of := .ray id, words := [], index := none }] }

/-! ### Handles and paths (R320, R321) -/

/-- A handle is valid (R320). -/
def handleOk (h0 h1 h2 : Word) : Bool :=
  let depth := wbits h2 12 8
  let path := h0.toNat + h1.toNat * 2 ^ 32 + wbits h2 7 0 * 2 ^ 64
  wbits h2 31 13 == 0 && decide (1 ≤ depth) && decide (depth ≤ 24) && path / 8 ^ depth == 0

/-- The frame of a record: its origin in units of 2^-192 root steps, and its shifts. -/
structure Place where
  org : List Nat
  sh : List Nat
  deriving DecidableEq, Repr

/-- Stepping into a child. -/
def Place.into (p : Place) (c : Child) : Place :=
  { org := (List.range 3).map fun i => nth p.org i 0 + nth c.lo i 0 * 2 ^ 8 * 2 ^ (192 - nth p.sh i 0)
    sh := (List.range 3).map fun i => nth p.sh i 0 + 8 - nth c.s i 0 }

/-- The leaf that a path leads to, or a fault at a record. -/
inductive Found2 where
  | leaf (l : Leaf) (page : Page) (va : Nat) (p : Place) (s : State)
  | fault (c : Cause) (va depth : Nat) (s : State)
  deriving DecidableEq, Repr

/-- Follows n more steps of a path from the record at an address. -/
def followPath (root path depth : Nat) : Nat → Nat → Place → State → Found2
  | 0, va, p, s =>
    match s.readRecord root va 128 with
    | .fault c s1 => .fault c va depth s1
    | .ok v page s1 =>
      match leafOf v with
      | none => .fault .node va depth s1
      | some l => .leaf l page va p s1
  | n + 1, va, p, s =>
    let k := depth - (n + 1)
    match s.readRecord root va 64 with
    | .fault c s1 => .fault c va k s1
    | .ok v _ s1 =>
      match nodeKids va v with
      | none => .fault .node va k s1
      | some kids =>
        match kids[field path (3 * k + 2) (3 * k)]? with
        | none => .fault .node va k s1
        | some c => if c.leaf == (n == 0) then followPath root path depth n c.addr (p.into c) s1 else .fault .node va k s1

/-- The walk of `gframe` and `gupd`: `regs` holds the handle first and the root pair last (R321). -/
def walkHandle (root : Nat) (regs : List Word) (s : State) : Found2 :=
  let h := fun i => nth regs i 0
  let lo := nth regs (regs.length - 2) 0
  let hi := nth regs (regs.length - 1) 0
  let rr := lo.toNat + wbits hi 19 0 * 2 ^ 32
  let depth := wbits (h 2) 12 8
  let path := (h 0).toNat + (h 1).toNat * 2 ^ 32 + wbits (h 2) 7 0 * 2 ^ 64
  match s.readRecord root rr 64 with
  | .fault c s1 => .fault c rr 0 s1
  | .ok v _ s1 =>
    match rootNode rr v with
    | none => .fault .node rr 0 s1
    | some a => followPath root path depth depth a { org := [0, 0, 0], sh := [0, 0, 0] } s1

/-! ### gupd (R322) -/

/-- The status of a `gupd` at its leaf, and where it is OK the 36 bits to be written. -/
def gupdStatus (regs : List Word) (l : Leaf) (p : Place) : Word × Nat :=
  let c := (List.range 3).map fun i =>
    (((nth regs (4 + i) 0).toNat * 2 ^ 176 : Int) - nth p.org i 0) * 2 ^ nth p.sh i 0
  let v := wbits (nth regs 3 0) 3 0
  if l.proc || decide (l.nv ≤ v) then (stREFUSED, 0)
  else if c.any fun n => decide (n < 0) || decide (65536 * 2 ^ 192 ≤ n) then (stESCAPE, 0)
  else if c.any fun n => n % (16 * 2 ^ 192) != 0 then (stINEXACT, 0)
  else (stOK, (c.zipIdx.foldl (fun a q => a + (q.1 / (16 * 2 ^ 192)).toNat * 2 ^ (12 * q.2)) 0))

/-- What a lane's `gupd` finds: a status, with the write to be made, or a fault. -/
inductive Upd where
  | status (st : Word) (key : Nat) (s : State)
  | write (key : Nat) (comp : Option Comp) (xyz : Nat) (s : State)
  | fault (c : Cause) (va depth : Nat) (s : State)
  deriving DecidableEq, Repr

/-- The walk, the W check and the status of a lane's `gupd`. -/
def findUpd (r : Ray) (s : State) : Upd :=
  match walkHandle r.root r.regs s with
  | .fault c va d s1 => .fault c va d s1
  | .leaf l page va p s1 =>
    if !page.w then .fault .protect va (wbits (nth r.regs 2 0) 12 8) s1
    else
      match gupdStatus r.regs l p with
      | (st, xyz) => if st = stOK then .write page.key page.comp xyz s1 else .status st page.key s1

/-- The vertex is written at the home of its line, as an atomic (12 R267): its nine half bytes change. -/
def State.writeVertex (s : State) (r : Ray) (key : Nat) (comp : Option Comp) (xyz : Nat) : State :=
  let h0 := 16 + 9 * wbits (nth r.regs 3 0) 3 0
  let halves := (List.range 9).map fun j => (h0 + j, field xyz (4 * j + 3) (4 * j))
  let s1 := s.bringHome r.org.core r.seq (halves.map fun h => key + h.1 / 2)
  let s2 := s1.homeWrites comp (halves.map fun h =>
    (key + h.1 / 2, BitVec.ofNat 8 (h.2 * 17), h.1 % 2 == 0, h.1 % 2 == 1))
  s2.modOrd fun o =>
    { o with
      homeTags := halves.foldl (fun (t : Sparse Tag) h => match r.tag with
        | some v => Tab.put t (2 * key + h.1) v
        | none => Tab.del t (2 * key + h.1)) o.homeTags }

/-- A lane's `gupd` is applied when its leaf lies in the given line. -/
def State.applyIfOn (key : Nat) (s : State) (e : Nat × Ray) : State :=
  match findUpd e.2 s with
  | .write k comp xyz s1 => if k = key then (s1.writeVertex e.2 k comp xyz).finishRay e.1 e.2 [stOK] else s
  | _ => s

/-- A lane's `gupd`, once what its core has sent before it has performed: with it, the lanes of its instruction whose
leaves share its line are applied, as one unit in ascending lane order (R322). (DEDUCED, log 18.) -/
def State.applyUpd (s : State) (id : Nat) (r : Ray) : State :=
  match findUpd r (s.flushIf (fun e => !isBankKey e.key) r.org.core r.seq .dev) with
  | .status st _ s1 => s1.finishRay id r [st]
  | .write key _ _ s1 =>
    (s1.rays.filter fun e => e.2.op == .gupd && e.2.unit == r.unit && e.2.phase == .queued).foldl (State.applyIfOn key) s1
  | .fault c va d s1 => if c.serviced then s1.stopRay id r c va d else s1.abortRay id r c va d

end Sys2Proof.Machine
end

