-- ==== Sys2Proof/Machine/Slice.lean ====
section
/-!
DEFINITION. Atomics and reductions at the memory slices (07 R169, R170; 12 R267), and the moves of the
ordering machine that the scheduler may choose (12 R265, R266, R271).
-/
namespace Sys2Proof.Machine

/-- The value that an operation stores for memory value m, operand v and the new value of `cas` (R169). -/
def AtomOp.apply (op : AtomOp) (wide : Bool) (m v new : DWord) : DWord :=
  let n := fun (x : DWord) => if wide then x else (x.setWidth 32).setWidth 64
  match op with
  | .add => n (m + v)
  | .exch => v
  | .cas => if m = v then new else m
  | .and => m &&& v
  | .or => m ||| v
  | .xor => m ^^^ v
  | .minU => if m.ult v then m else v
  | .maxU => if m.ult v then v else m
  | .minS => if (m.setWidth 32).slt (v.setWidth 32) then m else v
  | .maxS => if (m.setWidth 32).slt (v.setWidth 32) then v else m
  | .fadd => BitVec.ofNat 64 (f32.addNum (f32.decode (m.toNat % 2 ^ 32)) (f32.decode (v.toNat % 2 ^ 32))).1

/-- The words of an old value, for one or two registers. -/
def oldWords (wide : Bool) (m : DWord) : List Word :=
  if wide then [m.setWidth 32, (m >>> 32).setWidth 32] else [m.setWidth 32]

/-- The poison of a load (R164, 13 R296). -/
def poison : Word := 0xFFC00BAD

/-- Bytes written at a home by an atomic, with the tag of its core. -/
def State.atomicWrite (s : State) (c : Option Comp) (key : Nat) (bs : List Byte) (tag : Option Tag) : State :=
  let s1 := (s.homeWrites c (byteWrites key bs)).clearErrors key bs.length
  s1.modOrd fun o =>
    { o with
      homeTags := (List.range (2 * bs.length)).foldl (fun (t : Sparse Tag) i => match tag with
        | some v => Tab.put t (2 * key + i) v
        | none => Tab.del t (2 * key + i)) o.homeTags }

/-- The tags of the writes that stored consecutive bytes at their home. -/
def State.homeTagsOf (s : State) (key n : Nat) : List Tag :=
  (List.range (2 * n)).filterMap fun i => Tab.get s.ord.homeTags (2 * key + i)

/-- A pass ends REFUSED at the first cause that the device meets (18 R347). (DEDUCED, log 17.) -/
def State.refusePass (s : State) (p reason sub : Nat) : State :=
  { s with passes := Tab.modify s.passes p fun x =>
      if x.status = 0 then { x with status := 4, reason := reason, sub := sub, stop := none, todo := [], held := [], soft := [] }
      else x }

/-- An uncorrectable error that a contribution to a visibility buffer meets ends its pass (18 R399). -/
def State.contributionError (s : State) (o : SliceOp) (bad : Bool) : State :=
  match bad, o.pass with
  | true, some p => s.refusePass p 4 0x61
  | _, _ => s

/-- One lane of an atomic is applied at its slice. An uncorrectable error in the word returns poison and
raises ECC, as for a load, and the word stays as it is (13 R296; DEDUCED, log 26). -/
def State.applyLane (s : State) (o : SliceOp) (p : AtomLane) : State :=
  let n := if o.wide then 8 else 4
  let r := s.engineRead p.comp p.key n
  let m := BitVec.ofNat 64 (ofBytes r.1)
  let tags := s.homeTagsOf p.key n
  let s1 := if r.2 then s.contributionError o r.2
    else s.atomicWrite p.comp p.key (bytesOf n (o.op.apply o.wide m p.v p.new).toNat) o.tag
  match o.dest, s1.group? o.org.group with
  | some d, some x =>
    let s2 := s1.setGroup o.org.group (x.takeTags tags)
    if r.2 then
      let f := asyncRec s2 .ecc (x.first + p.lane) 8 o.pc
        [toWord (p.key % 2 ^ 56), toWord (p.key % 2 ^ 56 / 2 ^ 32), o.word] 0
      s2.holdFault o.org f (some { group := o.org.group, lane := some p.lane, reg := d,
                                       vals := List.replicate (if o.wide then 2 else 1) poison, spec := false }) none
    else s2.sendResult o.org.group (some p.lane) d (oldWords o.wide m)
  | _, _ => s1

/-- All lanes of one instruction that touch one line, applied consecutively in ascending lane order (R170),
after the core's earlier writes to those bytes have come home (R267). (DEDUCED, log 26.) -/
def State.applySlice (s : State) (o : SliceOp) : State :=
  let n := if o.wide then 8 else 4
  let keys := o.lanes.flatMap fun p => (List.range n).map (p.key + ·)
  o.lanes.foldl (fun s p => s.applyLane o p) (s.bringHome o.org.core o.seq keys)

/-- The line of a slice operation. -/
def SliceOp.line (o : SliceOp) : Nat :=
  match o.lanes with
  | p :: _ => p.key / 128
  | [] => 0

/-- Bytes of each lane's location. -/
def SliceOp.size (o : SliceOp) : Nat := if o.wide then 8 else 4

/-- Whether an operation works on a location. -/
def SliceOp.touches (o : SliceOp) (key : Nat) : Bool :=
  o.lanes.any fun p => decide (p.key ≤ key) && decide (key < p.key + o.size)

/-- Two operations share a location. -/
def SliceOp.meets (q o : SliceOp) : Bool :=
  q.lanes.any fun a => o.lanes.any fun b => decide (a.key < b.key + o.size) && decide (b.key < a.key + q.size)

/-- Operation q, which entered earlier, goes before o: they are of one fibre and on one line (R170), or of one core and
on one location (12 R265). The contributions of a pass to one tile, which their origin numbers, keep the order in which
they were sent (18 R340). -/
def SliceOp.precedes (q o : SliceOp) : Bool :=
  q.pass == o.pass && (q.pass.isSome && (q.meets o || q.org.num == o.org.num) || q.pass.isNone && q.org.core == o.org.core &&
    (q.meets o || (q.org.group == o.org.group && q.line == o.line && q.lanes.any fun a => o.lanes.any fun b => a.lane == b.lane)))

/-- A `gupd` goes before an operation that was issued after it: they are of one fibre and on one line (R170), or of one core
and on one location, or of one group where its walk has found no leaf (16 R322; DEDUCED, log 18). -/
def Ray.precedesOp (r : Ray) (o : SliceOp) : Bool :=
  r.updates && o.pass.isNone && decide (r.seq < o.seq) && match r.line with
    | none => r.org.group == o.org.group
    | some k =>
      (r.org.group == o.org.group && k / 128 == o.line && o.lanes.any fun p => p.lane == r.lane)
        || (r.org.core == o.org.core && o.lanes.any fun p => (List.range o.size).any fun j => r.writesAt (p.key + j))

/-- A `gupd` goes before one that was issued after it, by the same rule. -/
def Ray.precedes (q r : Ray) : Bool :=
  q.updates && decide (q.seq < r.seq) && match q.line, r.line with
    | some k, some m => k / 128 == m / 128 && ((q.org.group == r.org.group && q.lane == r.lane)
        || (q.org.core == r.org.core && wbits (nth q.regs 3 0) 3 0 == wbits (nth r.regs 3 0) 3 0))
    | _, _ => q.org.group == r.org.group

/-- Operation i may be applied: nothing that was sent before it goes before it. -/
def State.sliceReady (s : State) (i : Nat) : Bool :=
  match s.sliceOps[i]? with
  | none => false
  | some o => !((s.sliceOps.take i).any fun q => q.precedes o) && !s.rays.any fun r => r.2.precedesOp o

/-- Applies operation i. -/
def State.sliceAt (s : State) (i : Nat) : State :=
  match s.sliceOps[i]? with
  | none => s
  | some o => ({ s with sliceOps := s.sliceOps.eraseIdx i }).applySlice o

/-- SLICE_ATOMIC_APPLY (R170): operation `i` of those on their way is applied. -/
def execSliceAtomicApply (i : Nat) (s : State) : Host.Outcome State Fault Refusal :=
  if s.sliceReady i then .next (s.sliceAt i) else .next s

/-- Applies an operation that is on its way, where it may be applied. -/
def State.settleOp (s : State) (o : SliceOp) : State :=
  match firstIdx (· == o) s.sliceOps 0 with
  | none => s
  | some i => if s.sliceReady i then s.sliceAt i else s

/-- A lane's `gupd` where nothing that goes before it is left: it is applied, or it stops or is aborted. -/
def State.settleUpd (s : State) (id : Nat) : State :=
  match Tab.get s.rays id with
  | none => s
  | some r =>
    if r.updates && r.phase == .queued && !s.isSaved r.org.group && !s.rays.any fun q => q.2.precedes r then s.applyUpd id r
    else s

/-- What a core sent as number q: its operations on memory, then its `gupd`. -/
def State.settleSeq (core : Nat) (s : State) (q : Nat) : State :=
  let ops := s.sliceOps.filter fun o => o.org.core == core && o.seq == q && o.pass.isNone
  let upds := s.rays.filter fun r => r.2.updates && r.2.org.core == core && r.2.seq == q
  (upds.map Prod.fst).foldl State.settleUpd (ops.foldl State.settleOp s)

/-- The numbers below n of what a core has sent, in their order. -/
def State.sentBefore (s : State) (core n : Nat) : List Nat :=
  ((s.sliceOps.filter fun o => o.org.core == core && o.pass.isNone).map SliceOp.seq
    ++ (s.rays.filter fun r => r.2.updates && r.2.org.core == core).map fun r => r.2.seq).foldl
      (fun l q => if q < n then insertNat l q else l) []

/-- The atomics, reductions and `gupd` that a core sent before number n perform, but for a `gupd` that waits for a page and
what may not pass it. -/
def State.settleBefore (s : State) (core n : Nat) : State := (s.sentBefore core n).foldl (State.settleSeq core) s

/-- The operations that meet a test, and those that go before them; each with whether it is one. -/
def markSlices (p : SliceOp → Bool) : List SliceOp → List (SliceOp × Bool)
  | [] => []
  | o :: t =>
    let r := markSlices p t
    (o, p o || r.any fun q => q.2 && o.precedes q.1) :: r

/-- A `gupd` performs, after what its core sent before it. -/
def State.settleRay (s : State) (e : Nat × Ray) : State := (s.settleBefore e.2.org.core e.2.seq).settleUpd e.1

/-- Applies, in order, the operations that meet a test, and what goes before them. -/
def State.settleSlices (s : State) (p : SliceOp → Bool) : State :=
  let l := ((markSlices p s.sliceOps).filter Prod.snd).map Prod.fst
  l.foldl State.settleOp ((s.rays.filter fun r => l.any r.2.precedesOp).foldl State.settleRay s)

/-- Before a group reads locations, the atomics, reductions and `gupd` that it has sent to them perform: one stream's
accesses to a location take effect in its order (12 R275, R277; DEDUCED, log 25). -/
def State.settleOwn (s : State) (g : Nat) (keys : List Nat) : State :=
  let upds := s.rays.filter fun r => r.2.updates && r.2.org.group == g && (r.2.line.isNone && !keys.isEmpty || keys.any r.2.writesAt)
  (upds.foldl State.settleRay s).settleSlices fun o => o.org.group == g && keys.any o.touches

/-- A group has a `gupd` from before number n that has not ended: what it made before a release has not performed. -/
def State.updOpen (s : State) (g n : Nat) : Bool :=
  s.rays.any fun r => r.2.updates && r.2.org.group == g && decide (r.2.seq < n)

/-- A store of a core from before number n that a `gupd` keeps in the buffer. -/
def State.storeKept (s : State) (core n : Nat) : Bool :=
  s.ord.wb.any fun e => e.core == core && decide (e.seq < n) && s.updKeeps e

/-- A release by a group of a core must wait: a `gupd` of the group from before number n has not ended, or a `gupd` keeps a
store of the core (R269, R275). -/
def State.releaseWaits (s : State) (g core n : Nat) : Bool := s.updOpen g n || s.storeKept core n

/-! ### Moves of the ordering machine -/

/-- An entry may leave the write buffer: no earlier write, atomic or `gupd` of its core to its location stays. -/
def State.entryMoves (s : State) (i : Nat) : Bool :=
  match s.ord.wb[i]? with
  | none => false
  | some e =>
    s.ord.bufferMoves i && !s.updKeeps e
      && !(s.sliceOps.any fun o => o.pass.isNone && o.org.core == e.core && decide (o.seq ≤ e.seq) && o.touches e.key)
      && !(s.portUnits.any fun u => u.org.core == e.core && decide (u.seq ≤ e.seq) && match u.op with
        | .atomic _ _ ls => ls.any fun p => decide (p.key ≤ e.key) && decide (e.key < p.key + 4)
        | _ => false)

/-- The element of entry i may leave the write buffer: each of its bytes may (07 R167). -/
def State.elementMoves (s : State) (i : Nat) : Bool :=
  match s.ord.wb[i]? with
  | none => false
  | some e => (List.range s.ord.wb.length).all fun j => match s.ord.wb[j]? with
    | some f => !e.together f || s.entryMoves j
    | none => true

/-- The element of pending write i may leave its point. -/
def Order.elementMoves (o : Order) (i : Nat) : Bool :=
  match o.writes[i]? with
  | none => false
  | some w => (List.range o.writes.length).all fun j => match o.writes[j]? with
    | some v => !(w.point == v.point && w.entry.together v.entry) || o.pointMoves j
    | none => true

/-- WB_MOVE (R265): an entry of a write buffer, or a pending write of a point, moves outward with the bytes of its
element (07 R167). -/
def execWbMove (w : MoveRef) (s : State) : Host.Outcome State Fault Refusal :=
  match w with
  | .buffer i => (match s.ord.wb[i]? with
    | some e => if s.elementMoves i then .next (drainBuffer e.together s.ord.wb.length s) else .next s
    | none => .next s)
  | .point i => (match s.ord.writes[i]? with
    | some w =>
      if s.ord.elementMoves i then
        .next (drainPoint (fun v => w.point == v.point && w.entry.together v.entry) s.ord.writes.length s)
      else .next s
    | none => .next s)

/-- What a load at the point outward of `point` would find for a half byte; none where it would read an error. -/
def State.outward (s : State) (point key : Nat) (hi : Bool) : Option (Nat × Option Tag) :=
  let loc := halfLoc key hi
  let h := s.homeRead (s.compAt key) key
  let home := if h.2 then none else some (nibble h.1 hi, Tab.get s.ord.homeTags loc)
  if point < 192 then
    match s.ord.copies.find? fun p => p.point == clusterPoint point && p.loc == loc with
    | some p => some (p.val.toNat, p.tag)
    | none => home
  else home

/-- A point takes the value of a half byte of which it holds no copy. -/
def State.fillHalf (s : State) (point key : Nat) (hi : Bool) : State :=
  let loc := halfLoc key hi
  if s.ord.hasCopy point loc then s
  else
    match s.outward point key hi with
    | none => s
    | some v => s.modOrd fun o =>
      { o with copies := o.copies ++ [{ point := point, loc := loc, val := BitVec.ofNat 4 v.1, tag := v.2 }] }

/-- POINT_FILL (R266): a point takes the values found at the next point outward for those of the eight bytes around a
key of which it holds no copy (log 42). A byte that reads with an error is not taken (13 R296). Bank locations have no
copies. -/
def execPointFill (point key : Nat) (s : State) : Host.Outcome State Fault Refusal :=
  if point < 208 && !isBankKey key then
    .next ((List.range 16).foldl (fun s i => s.fillHalf point (key - key % 8 + i / 2) (i % 2 == 1)) s)
  else .next s

/-- POINT_DROP (R266): a point drops its copies of the eight bytes around a key where it holds no pending write of them
(log 42). -/
def execPointDrop (point key : Nat) (s : State) : Host.Outcome State Fault Refusal :=
  .next (s.modOrd fun o => o.dropEight point key)

end Sys2Proof.Machine
end

