-- ==== Sys2Proof/Machine/Banks.lean ====
section
/-!
DEFINITION. Bank addresses, the slots of a block's windows, generations and the pool (08 R172-R180), and
barrier objects at their port (09 R196-R198).
-/
namespace Sys2Proof.Machine

/-! ### Slots (R172, R175) -/

def Space.code : Space → Nat
  | .scr => 0
  | .act => 1
  | .wgt => 2
  | .acc => 3

def spaceOf (n : Nat) : Space := match n with
  | 0 => .scr
  | 1 => .act
  | 2 => .wgt
  | _ => .acc

/-- The size of a block's window of a space. -/
def Block.window (b : Block) (sp : Space) : Nat := (b.slots.filter fun q => q.space == sp).length

def Block.slot? (b : Block) (sp : Space) (n : Nat) : Option Slot :=
  b.slots.find? fun q => q.space == sp && q.num == n

/-- The bank mapped in a slot. -/
def Slot.bank? (q : Slot) : Option Nat :=
  match q.st with
  | .mapped k => some k
  | _ => none

def Block.bank? (b : Block) (sp : Space) (n : Nat) : Option Nat := (b.slot? sp n).bind Slot.bank?

/-- Changes the state of a slot. -/
def Block.setSlot (b : Block) (sp : Space) (n : Nat) (st : SlotState) : Block :=
  { b with slots := b.slots.map fun q => if q.space == sp && q.num == n then { q with st := st } else q }

/-! ### Bank addresses (R173, R180) -/

def addrArea (x : Word) : Nat := wbits x 23 22
def addrSlot (x : Word) : Nat := wbits x 21 18
def addrOff (x : Word) : Nat := wbits x 17 0

def areaOf (n : Nat) : Area := match n with
  | 0 => .data
  | 1 => .scale
  | _ => .bitmap

/-- The first loop of R180: whether an access of `width` bytes with an alignment is out of bounds. -/
def Block.outOfBank (b : Block) (sp : Space) (align width : Nat) (x : Word) : Bool :=
  wbits x 31 24 != 0 || addrArea x == 3 || (addrArea x != 0 && sp != .act)
    || decide (b.window sp ≤ addrSlot x)
    || addrOff x % align != 0 || decide ((areaOf (addrArea x)).size < addrOff x + width)

/-- The bank of an address, when its slot is mapped. -/
def Block.bankAt (b : Block) (sp : Space) (x : Word) : Option Nat := b.bank? sp (addrSlot x)

/-- The key of an address in a mapped slot. -/
def Block.keyAt (b : Block) (sp : Space) (x : Word) : Option Nat :=
  (b.bankAt sp x).map fun k => bankKey k (areaOf (addrArea x)) (addrOff x)

/-- R180 for one uniform address: the fault that it raises, or its key. -/
def Block.checkAt (b : Block) (sp : Space) (align width : Nat) (x : Word) : Except Cause Nat :=
  if b.outOfBank sp align width x then .error .bankbound
  else
    match b.keyAt sp x with
    | some k => .ok k
    | none => .error .detached

/-! ### Generations and the pool (R178) -/

def State.gen (s : State) (bank : Nat) : BitVec 8 := Tab.getD s.bankGen bank 0

def State.bumpGen (s : State) (bank : Nat) : State := { s with bankGen := Tab.store 0 s.bankGen bank (s.gen bank + 1) }

def State.bankSt (s : State) (bank : Nat) : BankState := Tab.getD s.bankState bank .free

def State.setBankSt (s : State) (bank : Nat) (st : BankState) : State :=
  { s with bankState := Tab.store .free s.bankState bank st }

/-- The cleared free banks of a cluster, ascending. -/
def State.freeBanks (s : State) (cluster : Nat) : List Nat :=
  ((List.range 96).map (96 * cluster + ·)).filter fun k => s.bankSt k == .free

/-- Every byte of a bank becomes zero, and its errors go (R178). -/
def State.clearBank (s : State) (bank : Nat) : State :=
  let lo := bankKey bank .data 0
  let inside := fun (k : Nat) => decide (lo ≤ k) && decide (k < lo + 2 ^ 19)
  { s with
    mem := s.mem.filter fun p => !inside p.1
    errors := s.errors.filter fun e => !inside (8 * e)
    ord := { s.ord with homeTags := s.ord.homeTags.filter fun p => !inside (p.1 / 2) } }

/-- A cleared bank's phases are 0, and subsets that wait there for another phase wake (09 R201). -/
def State.zeroBank (s : State) (bank : Nat) : State :=
  let offs := s.groups.flatMap fun p => p.2.waiting.filterMap fun u => match u.wait with
    | .phase b o _ _ => if b == bank then some o else none
    | _ => none
  offs.foldl (fun s o => s.wakePhase bank o) (s.clearBank bank)

/-! ### Barrier objects (09 R196-R198) -/

/-- The fields of a barrier object (R196). -/
structure BarObj where
  phase : Nat
  expa : Nat
  arr : Nat
  expb : Nat
  landed : Nat
  deriving DecidableEq, Repr

def BarObj.ofNat (v : Nat) : BarObj where
  phase := field v 31 0
  expa := field v 47 32
  arr := field v 63 48
  expb := field v 95 64
  landed := field v 127 96

def BarObj.toNat (o : BarObj) : Nat :=
  o.phase + o.expa * 2 ^ 32 + o.arr * 2 ^ 48 + o.expb * 2 ^ 64 + o.landed * 2 ^ 96

/-- The completion test after a unit (R197). -/
def BarObj.complete (o : BarObj) : BarObj :=
  if o.expa ≠ 0 ∧ o.arr = o.expa ∧ o.landed = o.expb then
    { o with phase := (o.phase + 1) % 2 ^ 32, arr := 0, landed := 0, expb := 0 }
  else o

/-- k arrivals: none when they are refused (R198). -/
def BarObj.arrive (o : BarObj) (k : Nat) : Option BarObj :=
  if o.expa < o.arr + k || (o.arr + k == o.expa && decide (o.expb < o.landed)) then none
  else some { o with arr := o.arr + k }

/-- n bytes (R198). -/
def BarObj.count (o : BarObj) (n : Nat) : Option BarObj :=
  if o.arr == o.expa && decide (o.expb < o.landed + n) then none
  else some { o with landed := (o.landed + n) % 2 ^ 32 }

/-- `bexp` of x bytes (R198). -/
def BarObj.expect (o : BarObj) (x : Nat) : Option BarObj :=
  if 2 ^ 32 ≤ o.expb + x then none else some { o with expb := o.expb + x }

def State.bar (s : State) (bank off : Nat) : BarObj :=
  BarObj.ofNat (ofBytes (s.readHome (bankKey bank .data off) 16))

/-- Stores an object, and wakes the subsets that wait for its phase (R201). -/
def State.putBar (s : State) (bank off : Nat) (o : BarObj) : State :=
  s.engineWrite none none (bankKey bank .data off) (bytesOf 16 o.toNat)

/-- Applies a contribution as one unit, with the completion test; false when it is refused. -/
def State.contribute (s : State) (bank off : Nat) (f : BarObj → Option BarObj) : State × Bool :=
  match f (s.bar bank off) with
  | none => (s, false)
  | some o => (s.putBar bank off o.complete, true)

/-! ### Units at the ports (R197, R206) -/

/-- The words of a ring descriptor (R205). -/
structure RingDesc where
  base : Word
  size : Nat
  space : Nat
  log2n : Nat
  free : Word
  fill : Word
  head : Nat
  acq : Nat
  done : Nat
  deriving DecidableEq, Repr

def RingDesc.slots (d : RingDesc) : Nat := 2 ^ d.log2n

/-- The descriptor of 32 bytes, and whether its own fields are valid (R205). -/
def ringDesc (bs : List Byte) : RingDesc × Bool :=
  let ws := wordsOfBytes bs
  let w := fun i => nth ws i 0
  let d : RingDesc :=
    { base := w 0, size := wbits (w 1) 17 0, space := wbits (w 1) 23 22, log2n := wbits (w 1) 26 24
      free := w 2, fill := w 3, head := (w 4).toNat, acq := (w 5).toNat, done := (w 6).toNat }
  (d, w 7 == 0 && wbits (w 1) 31 27 == 0 && wbits (w 1) 21 18 == 0 && decide (d.log2n ≤ 6) && d.space != 3
    && d.size != 0 && d.size % 16 == 0 && addrOff d.base % 16 == 0 && addrArea d.base == 0
    && decide (addrOff d.base + d.slots * d.size ≤ 262144) && d.free != d.fill)

/-- The descriptor's addresses pass R180 in their spaces (R205). -/
def Block.ringOk (b : Block) (d : RingDesc) : Bool :=
  let ok := fun (r : Except Cause Nat) => match r with
    | .ok _ => true
    | .error _ => false
  ok (b.checkAt (spaceOf d.space) 16 16 d.base) && ok (b.checkAt .scr 16 16 d.free)
    && ok (b.checkAt .scr 16 16 d.fill)

/-- The bank and offset of an SCR address of a block. -/
def State.scrAt (s : State) (block : Nat) (x : Word) : Option (Nat × Nat) :=
  match s.block? block with
  | none => none
  | some b => (b.bankAt .scr x).map fun k => (k, addrOff x)

/-- Writes one word of a bank at its home. -/
def State.putBankWord (s : State) (bank off : Nat) (v : Word) : State :=
  s.engineWrite none none (bankKey bank .data off) (bytesOf 4 v.toNat)

/-- Broadcasts a result to consecutive registers of every lane of the sending group. -/
def State.answer (s : State) (u : Origin) (d : Nat) (ws : List Word) : State :=
  s.sendResult u.group none d ws

/-- A unit's OVERRUN (R204): the fault of its sender, with a result that is written when it enters the queue. -/
def State.overrun (s : State) (u : PortUnit) (result : Option Result) : State :=
  s.holdFault u.org (asyncRec s .overrun 0 4 u.pc [u.word, u.addr] 0) result none

/-- A release by a core at a scope of what entered its buffer before number n: atomics perform, writes move,
and the release becomes the current tag (12 R269, R270). -/
def State.releaseBefore (s : State) (core n : Nat) (scope : Scope) : State :=
  ((s.settleBefore core n).flush core n scope).newTag core scope

/-- The bank and offset of an object that a ring unit works on: FREE is the first of them, FILL the second. -/
def PortUnit.object (u : PortUnit) (i : Nat) : Nat × Nat := nth u.also i (0, 0)

/-- `rinit` at its port (R206). -/
def State.ringInit (s : State) (u : PortUnit) (dest : Nat) : State :=
  let d := (ringDesc (s.readHome (bankKey u.bank .data u.off) 32)).1
  let key := bankKey u.bank .data u.off
  if d.head ≠ d.done || s.copies.any (fun c => c.2.ring == some key) then s.answer u.org dest [stREFUSED]
  else
    let zero := fun (s : State) (p : Nat × Nat) => s.putBar p.1 p.2 { phase := 0, expa := 1, arr := 0, expb := 0, landed := 0 }
    let s1 := s.engineWrite none none (key + 16) (bytesOf 12 0)
    (zero (zero s1 (u.object 0)) (u.object 1)).answer u.org dest [stOK]

/-- `racq` at its port (R206). -/
def State.ringAcquire (s : State) (u : PortUnit) (dest : Nat) : State :=
  let d := (ringDesc (s.readHome (bankKey u.bank .data u.off) 32)).1
  let f := (s.bar (u.object 1).1 (u.object 1).2).phase
  if d.acq = f then s.answer u.org dest [stEMPTY, 0, toWord f]
  else
    let a := d.base + toWord (d.acq % d.slots * d.size)
    (s.putBankWord u.bank (u.off + 20) (toWord (d.acq + 1))).answer u.org dest [stOK, a, toWord f]

/-- `rdone` at its port (R206). Where the arrival is refused, DONE has been incremented and the status is OK (DESIGN CHOICE,
log 46). -/
def State.ringDone (s : State) (u : PortUnit) (dest : Nat) : State :=
  let d := (ringDesc (s.readHome (bankKey u.bank .data u.off) 32)).1
  if d.done = d.acq then s.answer u.org dest [stREFUSED]
  else
    let s1 := s.putBankWord u.bank (u.off + 24) (toWord (d.done + 1))
    let r := s1.contribute (u.object 0).1 (u.object 0).2 fun b => b.arrive 1
    if r.2 then r.1.answer u.org dest [stOK]
    else
      r.1.overrun u (some { group := u.org.group, lane := none, reg := dest, vals := [stOK], spec := false })

/-- One lane of `ats` at its port (08 R183). -/
def State.atsLane (s : State) (u : PortUnit) (op : AtomOp) (dest : Nat) (p : AtomLane) : State :=
  let bad := s.anyError p.key 4
  let m := BitVec.ofNat 64 (ofBytes (s.readHome p.key 4))
  let tags := s.homeTagsOf p.key 4
  let s1 := if bad then s
    else (s.atomicWrite none p.key (bytesOf 4 (op.apply false m p.v p.new).toNat) u.tag).wakeAt p.key
  match s1.group? u.org.group with
  | none => s1
  | some x =>
    let s2 := s1.setGroup u.org.group (x.takeTags tags)
    if bad then
      s2.holdFault u.org (asyncRec s2 .ecc (x.first + p.lane) 4 u.pc [u.addr, 0, u.word] 0)
        (some { group := u.org.group, lane := some p.lane, reg := dest, vals := [poison], spec := false, bank := some u.bank })
        none
    else { s2 with results := s2.results ++ [{ group := u.org.group, lane := some p.lane, reg := dest, vals := oldWords false m
                                               spec := false, bank := some u.bank }] }

/-- Bytes of the object or descriptor that a unit works on. -/
def PortOp.bytes : PortOp → Nat
  | .binit _ | .arrive _ _ | .expect _ => 16
  | .ringInit _ | .ringAcquire _ | .ringDone _ => 32
  | .atomic _ _ _ => 4

/-- The (bank, offset, bytes) that a unit works on: its object, descriptor or word, and a ring's two objects. -/
def PortUnit.pieces (u : PortUnit) : List (Nat × Nat × Nat) :=
  (u.bank, u.off, u.op.bytes) :: u.also.map fun p => (p.1, p.2, 16)

/-- Whether a bank location is among pieces. -/
def inPieces (ps : List (Nat × Nat × Nat)) (key : Nat) : Bool :=
  ps.any fun p => decide (bankKey p.1 .data p.2.1 ≤ key) && decide (key < bankKey p.1 .data p.2.1 + p.2.2)

/-- A unit is applied at its port, after the earlier stores of its core to its bytes (12 R265). A `barr` is a
release of its group at clu scope (R203). -/
def State.applyUnit (s : State) (u : PortUnit) : State :=
  let s0 := s.drainCore u.org.core fun e => decide (e.seq < u.seq) && inPieces u.pieces e.key
  match u.op with
  | .binit e => s0.putBar u.bank u.off { phase := 0, expa := e, arr := 0, expb := 0, landed := 0 }
  | .arrive k dest =>
    let s1 := s0.releaseBefore u.org.core u.seq .clu
    let phase := toWord (s1.bar u.bank u.off).phase
    let r := s1.contribute u.bank u.off fun b => b.arrive k
    match dest with
    | none => if r.2 then r.1 else r.1.overrun u none
    | some d =>
      if r.2 then r.1.answer u.org d [phase]
      else
        r.1.overrun u (some { group := u.org.group, lane := none, reg := d, vals := [phase], spec := false })
  | .expect x =>
    let r := s0.contribute u.bank u.off fun b => b.expect x
    if r.2 then r.1 else r.1.overrun u none
  | .ringInit d => s0.ringInit u d
  | .ringAcquire d => s0.ringAcquire u d
  | .ringDone d => s0.ringDone u d
  | .atomic op d ls => ls.foldl (fun s p => s.atsLane u op d p) s0

def PortOp.isAtomic : PortOp → Bool
  | .atomic _ _ _ => true
  | _ => false

def PortOp.isArrival : PortOp → Bool
  | .arrive _ _ => true
  | _ => false

/-- The banks whose ports a unit works at. -/
def PortUnit.banks (u : PortUnit) : List Nat := u.bank :: u.also.map Prod.fst

/-- Unit v goes before unit u, which was sent later: one group's units to one port keep its order, an arrival
comes after every earlier unit of its group and every earlier atomic of its core (14 R297, 12 R269), and an atomic
of a core on a location comes before the core's later units there. -/
def PortUnit.precedes (v u : PortUnit) : Bool :=
  v.org.core == u.org.core &&
    ((v.org.group == u.org.group && (v.banks.any u.banks.contains || u.op.isArrival))
      || (v.op.isAtomic && (u.op.isArrival || piecesMeet v.pieces u.pieces)))

/-- Unit i may be applied: nothing that was sent before it goes before it, and no `gupd` that its group made before an
arrival is left (12 R269, R275). -/
def State.unitReady (s : State) (i : Nat) : Bool :=
  match s.portUnits[i]? with
  | none => false
  | some u => !((s.portUnits.take i).any fun v => v.precedes u)
      && !(u.op.isArrival && s.releaseWaits u.org.group u.org.core u.seq)

/-- Applies a unit that is on its way, where it may be applied; before an arrival, what its core sent on memory performs. -/
def State.settleUnit (s : State) (u : PortUnit) : State :=
  let s1 := if u.op.isArrival then s.settleBefore u.org.core u.seq else s
  match firstIdx (· == u) s1.portUnits 0 with
  | none => s1
  | some i => if s1.unitReady i then { s1 with portUnits := s1.portUnits.eraseIdx i }.applyUnit u else s1

/-- BARRIER_UNIT_APPLY (R197): unit `i` of those on their way reaches its port. -/
def execBarrierUnitApply (i : Nat) (s : State) : Host.Outcome State Fault Refusal :=
  match s.portUnits[i]? with
  | none => .next s
  | some u => if (s.portUnits.take i).any fun v => v.precedes u then .next s else .next (s.settleUnit u)

/-- The units that meet a test, and those that go before them; each with whether it is one. -/
def markUnits (p : PortUnit → Bool) : List PortUnit → List (PortUnit × Bool)
  | [] => []
  | u :: t =>
    let r := markUnits p t
    (u, p u || r.any fun q => q.2 && u.precedes q.1) :: r

/-- Applies, in order, the units that meet a test, and those that go before them. -/
def State.settleUnits (s : State) (p : PortUnit → Bool) : State :=
  (((markUnits p s.portUnits).filter Prod.snd).map Prod.fst).foldl State.settleUnit s

/-- Before a group reads or writes a bank to which it has sent units, they are applied (R181, R275; DEDUCED, log 25). -/
def State.settleBank (s : State) (g core bank : Nat) : State :=
  s.settleUnits fun u => u.org.core == core && u.org.group == g && u.banks.contains bank

/-- Before an engine of a core works for a group on bytes of a bank: the group's units to the bank and the core's atomics on
those bytes are applied, and the core's stores there leave its buffer. -/
def State.bringBank (s : State) (g core bank off n : Nat) : State :=
  let ps := [(bank, off, n)]
  let s1 := s.settleUnits fun u => u.org.core == core
    && ((u.org.group == g && u.banks.contains bank) || (u.op.isAtomic && piecesMeet u.pieces ps))
  s1.drainCore core fun e => inPieces ps e.key

/-- The units that some groups of a core sent before number n, and the core's atomics among them where a release or command
covers those, are applied. -/
def State.settleGroups (s : State) (gs : List Nat) (core n : Nat) (atomics : Bool := true) : State :=
  s.settleUnits fun u => u.org.core == core && decide (u.seq < n) && (gs.contains u.org.group && (atomics || !u.op.isAtomic) || atomics && u.op.isAtomic)

/-- A release by some groups of a core of what they sent before number n (12 R269, 14 R297): their units are applied,
and what the core has sent before moves to the scope. At grp scope the release takes no step but for the units. -/
def State.releaseUpTo (s : State) (gs : List Nat) (core n : Nat) (scope : Scope) : State :=
  let s1 := s.settleGroups gs core n (scope != .grp)
  if scope = .grp then s1.newTag core scope else s1.releaseBefore core n scope

/-- A release by a group of all that it has sent. -/
def State.release (s : State) (g : Nat) (x : Group) (scope : Scope) : State := s.releaseUpTo [g] x.core s.ord.seq scope

/-- Before an engine command of some groups starts, the units that they sent before it, and the writes and atomics that
entered the core's buffer before it, perform (12 R268, 09 R215). -/
def State.settleCore (s : State) (gs : List Nat) (core n : Nat) : State :=
  ((s.settleGroups gs core n).settleBefore core n).flush core n .dev

/-- PROMOTION_SERVE (R271): core c moves every write that entered its buffer before the release onward to the
device point; when the last request of a group is served, its acquire discards its copies and ends. A write that a `gupd`
keeps back keeps the request. -/
def execPromotionServe (i : Nat) (s : State) : Host.Outcome State Fault Refusal :=
  match s.ord.promotions[i]? with
  | none => .next s
  | some p =>
    let s1 := s.settleCore [] p.core p.before
    let s2 := s1.modOrd fun o => { o with promotions := o.promotions.eraseIdx i }
    if s1.storeKept p.core p.before then .next s1
    else if s2.ord.promotions.any (fun q => q.group == p.group) then .next s2
    else
      match s2.group? p.group with
      | none => .next s2
      | some x => .next (s2.modOrd fun o => (o.discard x.core).discard (clusterPoint x.core))

end Sys2Proof.Machine
end

