-- ==== Sys2Proof/WellFormed.lean ====
section
/-!
DEFINITION. Which instructions are well formed: the operand combinations that a word of the instruction
set can hold and that decode accepts (R65-R68, R103, R109, R141, R230), and the ranges of the operands of
the events (the numbers of rings, cores, heads, ports and so on that the device has).
-/
namespace Sys2Proof

/-- The rounding modes that each conversion of `cvt` permits (R103). -/
def cvtModeAllowed (conv : BitVec 4) (m : RMode) : Bool :=
  match conv.toNat with
  | 0 | 1 | 2 | 3 | 15 => m != .rs
  | 4 | 5 | 6 | 7 => true
  | _ => m == .rn

/-- The footprint of a convergence scope: the most signatures a set can collect (R230). -/
def CvScope.footprint : CvScope → Nat
  | .group => 64
  | .quad => 256
  | .core => 1024

/-- The system registers that have RC fields; `swr` to one of them is a decode fault (R141). -/
def SysReg.readClears : SysReg → Bool
  | .wake | .ny _ => true
  | _ => false

/-- `LI` forbids hold b (R65); a unary operation's b field is a selector, so hold b is illegal (R109). -/
def holdNotB (h : Hold) : Bool := h != .b

/-- Uniform branches and jumps forbid the hint `.un` (R66). -/
def hintUniformOk (h : Hint) : Bool := h != .uniform

/-- The well-formedness check of one instruction. -/
def Instr.wf : Instr → Bool
  | .iaddi o | .lui o | .ori o => holdNotB o.hold
  | .movi o => holdNotB o.hold && o.hold != .a
  | .iabs o | .popc o | .clz o | .ctz o | .brev o
  | .frcp o | .frsq o | .fsqrt o | .fex2 o | .flg2 o | .fsinpi o | .fcospi o => holdNotB o.hold
  | .cvt o => holdNotB o.hold && cvtModeAllowed o.conv o.mode
  | .jmp o | .call o => hintUniformOk o.hint
  | .ubrz o | .ubrnz o => hintUniformOk o.hint
  | .cvdecl o => decide (1 ≤ o.count.toNat) && decide (o.count.toNat ≤ o.scope.footprint)
  | .swr o => !o.reg.readClears
  | .swaitTimeout h => decide (h < 4)
  | .ringDoorbell r _ | .ringErrClear r | .launch r | .qcfg r | .qflush r | .inval r | .migrate r
  | .signal r | .nopCommand r | .move r => decide (r < 64)
  | .coreClockGate c | .corePowerGate c | .coreWake c => decide (c < 192)
  | .bankClearDone b => decide (b < 1536)
  | .mmaSetStart _ c v => decide (c < 192) && decide (v < 8)
  | .frameStart h | .headLinkUp h | .headLinkLost h | .scanOutLine h _ _ => decide (h < 4)
  | .pointFill p _ | .pointDrop p _ => decide (p < 208)
  | .avmalLinkDown p | .avmalLinkUp p _ => decide (p < 18)
  | .signalLineSet l => decide (l < 64)
  | .compArrival (.other p _) _ => decide (p < 18)
  | .compArrival (.own _) _
  | .iadd _ | .isub _ | .imul _ | .imulhS _ | .imulhU _ | .imad _ | .iminS _ | .iminU _ | .imaxS _
  | .imaxU _ | .icmpEq _ | .icmpNe _ | .icmpLtS _ | .icmpLtU _ | .icmpGeS _ | .icmpGeU _ | .sel _ | .andL _
  | .andn _ | .orL _ | .xorL _ | .shl _ | .shr _ | .sar _ | .bfeS _ | .bfeU _ | .bfi _ | .ilv2 _ | .ilv3 _
  | .dil2 _ | .dil3 _ | .rnd _ | .fadd _ | .fsub _ | .fmul _ | .ffma _ | .fmin _ | .fmax _ | .fcmpEq _
  | .fcmpLt _ | .fcmpLe _ | .fcmpUn _ | .fdiv _ | .hadd2 _ | .hmul2 _ | .hfma2 _ | .hmin2 _ | .hmax2 _
  | .shflIdx _ | .shflXor _ | .shflUp _ | .shflDn _ | .voteAny _ | .voteAll _ | .voteBallot _ | .qdxC _
  | .qdxF _ | .qdyC _ | .qdyF _ | .brz _ | .brnz _ | .fend _ | .fspawn _ | .mma _ | .mmas _ | .ldb _
  | .stb _ | .atbAdd _ | .atbExch _ | .atbCas _ | .atbAnd _ | .atbOr _ | .atbXor _ | .atbMinU _
  | .atbMaxU _ | .atbMinS _ | .atbMaxS _ | .atb64Add _ | .atb64Exch _ | .atb64Cas _ | .atb64MinU _
  | .atb64MaxU _ | .redbAdd _ | .redbFadd _ | .redbAnd _ | .redbOr _ | .redbXor _ | .redbMinU _
  | .redbMaxU _ | .lds _ | .sts _ | .atsAdd _ | .atsExch _ | .atsCas _ | .atsAnd _ | .atsOr _ | .atsXor _
  | .atsMinU _ | .atsMaxU _ | .atsMinS _ | .atsMaxS _ | .lda _ | .sta _ | .ldw _ | .cva _ | .acw _
  | .trace _ | .tres _ | .gframe _ | .gupd _ | .smp _ | .smpd _ | .smpl _ | .ldimg _ | .stimg _ | .emitv _
  | .emitp _ | .exportPixel _ | .uadd _ | .usub _ | .umul _ | .uand _ | .uor _ | .uxor _ | .ushl _ | .ushr _
  | .usar _ | .ucmpEq _ | .ucmpNe _ | .ucmpLtS _ | .ucmpGeS _ | .ucmpLtU _ | .ucmpGeU _ | .uaddi _
  | .umovi _ | .ului _ | .ret _ | .jr _ | .repImmediate _ | .repRegister _ | .nop _ | .park _ | .binit _
  | .barr _ | .barrF _ | .bexp _ | .bwait _ | .fence _ | .batt _ | .bres _ | .bgive _ | .brel _ | .bmap _
  | .cpy _ | .cpyo _ | .gath _ | .mcast _ | .rinit _ | .racq _ | .rdone _ | .enq _ | .deq _ | .qarm _
  | .qstat _ | .send _ | .recv _ | .mstat _ | .coll _ | .comp _ | .bsr _ | .bsw _ | .bsadd _ | .srd _
  | .time _ | .yield _ | .trap _ | .brk _ | .ntfy _ | .rfetch _ | .xbfx _ | .swait _ | .disp _
  | .blockReserve _ | .gangReserve _ | .launchCompletion _ | .preemptRequest _ _ | .preemptSave _
  | .blockRestore _ | .subsetYield _ | .resultReturn _ | .notifyWriteArrival _ | .runAheadStop _
  | .asyncFaultEnqueue _ | .trapEntry _ | .faultLogWrite _ | .flack _ | .giveDrainComplete _
  | .releaseDrainComplete _ | .deliveryLanding _ | .barrierUnitApply _ | .copyCommandComplete _
  | .ringFillStart _ | .ringFillCount _ | .mmaOpComplete _ | .baseDieBoxTest _ | .traceComplete _
  | .messageArrival _ | .collectiveComplete _ _ | .tileClose _ _ | .tileDelivery _ | .swPathEnqueue _
  | .tileResolve _ _ | .tileFinish _ _ | .passDone _ | .goldenSourceAdvance _ | .wbMove _ | .promotionServe _
  | .sliceAtomicApply _ | .hostMemAccess _ | .hostNotifyWrite _ _ | .capWrite _ | .tslRead
  | .correctedErrorCountRead _ | .groupTableWrite _ _ | .registerWrite _ _ | .deviceReset | .bootVerify _
  | .functionReady _ | .thermalTrip | .clockStepDown | .clockStepUp | .timeStampDiscipline _ | .getVersion
  | .getCapabilities | .negotiateAlgorithms | .getDigests | .getCertificate _ _ _ | .challenge _ _
  | .getMeasurements _ | .unassignedWord _ | .powerThermalLimit _ | .hostWriteToHostLine _ _ => true

end Sys2Proof
end

