-- ==== Sys2Proof/Decode.lean ====
section
/-!
DEFINITION. Decoding of the fibre words (03 R51-R75, 05 R109, 06 R141) and of the four hart words
(11 R260): total on every word, refusing every unassigned or reserved combination; the encoder, written
from the same tables; and the decoder of a word numbered as the opcode table numbers it.
-/
namespace Sys2Proof

/-- A fibre word cut at the boundaries that all formats share (R54-R61): set bit [31], park [30],
opcode [29:24], selector (hold, hint or high function bits) [23:22], modifier (or low function bit) [21],
and three 7-bit fields. -/
structure Cut where
  uni : Bool
  park : Bool
  op : BitVec 6
  sel : BitVec 2
  mod : Bool
  d : Reg
  a : Reg
  b : Reg
  deriving DecidableEq, Repr

/-- The cut of a word. -/
def cutWord (w : Word) : Cut where
  uni := w.getLsbD 31
  park := w.getLsbD 30
  op := w.extractLsb' 24 6
  sel := w.extractLsb' 22 2
  mod := w.getLsbD 21
  d := w.extractLsb' 14 7
  a := w.extractLsb' 7 7
  b := w.extractLsb' 0 7

/-- The word of a cut. -/
def Cut.word (c : Cut) : Word :=
  ((((((BitVec.ofBool c.uni ++ BitVec.ofBool c.park : BitVec 2) ++ c.op : BitVec 8) ++ c.sel : BitVec 10)
    ++ BitVec.ofBool c.mod : BitVec 11) ++ c.d : BitVec 18) ++ c.a : BitVec 25) ++ c.b

/-- The function field [23:21] of the uniform formats, and selector:modifier of the atomics (R71, R73). -/
def Cut.fn (c : Cut) : BitVec 3 := c.sel ++ BitVec.ofBool c.mod

/-- imm14, count14 and offset14 in bits [13:0] (R55, R57, R59). -/
def Cut.low14 (c : Cut) : BitVec 14 := c.a ++ c.b

/-- The selector half of a function value. -/
def fnSel (f : BitVec 3) : BitVec 2 := f.extractLsb' 1 2

/-- The modifier bit of a function value. -/
def fnMod (f : BitVec 3) : Bool := f.getLsbD 0

/-- The upper register field of a 14-bit immediate. -/
def immHigh (i : BitVec 14) : Reg := i.extractLsb' 7 7

/-- The lower register field of a 14-bit immediate. -/
def immLow (i : BitVec 14) : Reg := i.extractLsb' 0 7

/-! ### Field encodings -/

/-- The hold field (R40). -/
def holdOf (x : BitVec 2) : Hold :=
  match x.toNat with
  | 0 => .none
  | 1 => .a
  | 2 => .b
  | _ => .d

def Hold.bits : Hold → BitVec 2
  | .none => 0
  | .a => 1
  | .b => 2
  | .d => 3

/-- The hint field (R66). -/
def hintOf (x : BitVec 2) : Hint :=
  match x.toNat with
  | 0 => .none
  | 1 => .likely
  | 2 => .unlikely
  | _ => .uniform

def Hint.bits : Hint → BitVec 2
  | .none => 0
  | .likely => 1
  | .unlikely => 2
  | .uniform => 3

/-- The size selector; 11 is unassigned (R71). -/
def sizeOf? (x : BitVec 2) : Option Size :=
  match x.toNat with
  | 0 => some .one
  | 1 => some .two
  | 2 => some .four
  | _ => none

def Size.bits : Size → BitVec 2
  | .one => 0
  | .two => 1
  | .four => 2

/-- The rounding mode of a conversion selector; 101 to 111 are unassigned (R90). -/
def modeOf? (x : BitVec 3) : Option RMode :=
  match x.toNat with
  | 0 => some .rn
  | 1 => some .rz
  | 2 => some .rd
  | 3 => some .ru
  | 4 => some .rs
  | _ => none

def RMode.bits : RMode → BitVec 3
  | .rn => 0
  | .rz => 1
  | .rd => 2
  | .ru => 3
  | .rs => 4

/-- The scope of `fence`; 110 and 111 are unassigned (R262, R272). -/
def scopeOf? (x : BitVec 3) : Option Scope :=
  match x.toNat with
  | 0 => some .grp
  | 1 => some .core
  | 2 => some .clu
  | 3 => some .dev
  | 4 => some .sys
  | 5 => some .dom
  | _ => none

def Scope.bits : Scope → BitVec 3
  | .grp => 0
  | .core => 1
  | .clu => 2
  | .dev => 3
  | .sys => 4
  | .dom => 5

/-- The scope of `cvdecl`; 011 to 111 are illegal (R230). -/
def cvScopeOf? (x : BitVec 3) : Option CvScope :=
  match x.toNat with
  | 0 => some .group
  | 1 => some .quad
  | 2 => some .core
  | _ => none

def CvScope.bits : CvScope → BitVec 3
  | .group => 0
  | .quad => 1
  | .core => 2

/-- The system register of a register number (R142). -/
def sysRegOf? (n : BitVec 14) : Option SysReg :=
  if n.extractLsb' 3 11 == 0x18 >>> 3 then some (.fops (n.extractLsb' 0 3).toFin)
  else if n.extractLsb' 4 10 == 3 then some (.ny (n.extractLsb' 0 4).toFin)
  else if n.extractLsb' 3 11 == 0x50 >>> 3 then some (.lvl (n.extractLsb' 0 3).toFin)
  else match n.toNat with
    | 0x00 => some .pred
    | 0x01 => some .repc
    | 0x02 => some .lnk
    | 0x03 => some .lnkHi
    | 0x04 => some .place
    | 0x05 => some .grp
    | 0x06 => some .tvec
    | 0x07 => some .tvecHi
    | 0x10 => some .fcause
    | 0x11 => some .fpc
    | 0x12 => some .fpcHi
    | 0x14 => some .ftime
    | 0x15 => some .ftimeHi
    | 0x20 => some .wake
    | 0x40 => some .rasthr
    | 0x60 => some .clk
    | _ => none

def SysReg.number : SysReg → BitVec 14
  | .pred => 0x00
  | .repc => 0x01
  | .lnk => 0x02
  | .lnkHi => 0x03
  | .place => 0x04
  | .grp => 0x05
  | .tvec => 0x06
  | .tvecHi => 0x07
  | .fcause => 0x10
  | .fpc => 0x11
  | .fpcHi => 0x12
  | .ftime => 0x14
  | .ftimeHi => 0x15
  | .fops i => (3 : BitVec 11) ++ BitVec.ofNat 3 i.val
  | .wake => 0x20
  | .ny i => (3 : BitVec 10) ++ BitVec.ofNat 4 i.val
  | .rasthr => 0x40
  | .lvl i => (10 : BitVec 11) ++ BitVec.ofNat 3 i.val
  | .clk => 0x60

/-! ### Operands of each format from a cut, and back -/

def Cut.lane3 (c : Cut) : Option LaneOp3 := some ⟨c.park, holdOf c.sel, c.d, c.a, c.b⟩

def LaneOp3.cut (o : LaneOp3) (op : BitVec 6) (mod : Bool) : Cut :=
  ⟨false, o.park, op, o.hold.bits, mod, o.d, o.a, o.b⟩

/-- Hold b is illegal where b is a selector (R109). -/
def Cut.lane2 (c : Cut) : Option LaneOp2 :=
  if holdNotB (holdOf c.sel) then some ⟨c.park, holdOf c.sel, c.d, c.a⟩ else none

def LaneOp2.cut (o : LaneOp2) (op : BitVec 6) (b : Reg) : Cut :=
  ⟨false, o.park, op, o.hold.bits, false, o.d, o.a, b⟩

/-- Hold b is illegal in LI (R40, R65). -/
def Cut.laneImm (c : Cut) : Option LaneImm :=
  if holdNotB (holdOf c.sel) then some ⟨c.park, holdOf c.sel, c.d, c.low14⟩ else none

def LaneImm.cut (o : LaneImm) (op : BitVec 6) : Cut :=
  ⟨false, o.park, op, o.hold.bits, false, o.d, immHigh o.imm, immLow o.imm⟩

/-- The conversion selector in b: number [6:3], mode [2:0] (R103). -/
def Cut.cvtOp (c : Cut) : Option CvtOp :=
  match modeOf? (c.b.extractLsb' 0 3) with
  | none => none
  | some m =>
    if holdNotB (holdOf c.sel) && cvtModeAllowed (c.b.extractLsb' 3 4) m then
      some ⟨c.park, holdOf c.sel, c.d, c.a, c.b.extractLsb' 3 4, m⟩
    else none

def CvtOp.cut (o : CvtOp) : Cut :=
  ⟨false, o.park, 0x25, o.hold.bits, false, o.d, o.a, o.conv ++ o.mode.bits⟩

/-- LB and UB: bit [21] is reserved (R57, R59). -/
def Cut.laneBranch (c : Cut) : Option LaneBranch :=
  if c.mod then none else some ⟨c.park, hintOf c.sel, c.d, c.low14⟩

def LaneBranch.cut (o : LaneBranch) (uni : Bool) (op : BitVec 6) : Cut :=
  ⟨uni, o.park, op, o.hint.bits, false, o.c, immHigh o.off, immLow o.off⟩

def Cut.memOp (c : Cut) : Option MemOp := (sizeOf? c.sel).map fun z => ⟨c.park, z, c.d, c.a, c.b⟩

def MemOp.cut (o : MemOp) (op : BitVec 6) (mod : Bool) : Cut :=
  ⟨false, o.park, op, o.size.bits, mod, o.d, o.a, o.b⟩

def Cut.regs3 (c : Cut) : Option Regs3 := some ⟨c.park, c.d, c.a, c.b⟩

def Regs3.cut (o : Regs3) (uni : Bool) (op : BitVec 6) (f : BitVec 3) : Cut :=
  ⟨uni, o.park, op, fnSel f, fnMod f, o.d, o.a, o.b⟩

/-- Two registers; the caller has looked at b. -/
def Cut.regs2 (c : Cut) : Option Regs2 := some ⟨c.park, c.d, c.a⟩

/-- Two registers d, a where b must be 0 (R68). -/
def Cut.regs2z (c : Cut) : Option Regs2 := if c.b == 0 then some ⟨c.park, c.d, c.a⟩ else none

def Regs2.cut (o : Regs2) (uni : Bool) (op : BitVec 6) (f : BitVec 3) (b : Reg) : Cut :=
  ⟨uni, o.park, op, fnSel f, fnMod f, o.d, o.a, b⟩

def Cut.regsAB (c : Cut) : Option RegsAB := if c.d == 0 then some ⟨c.park, c.a, c.b⟩ else none

def RegsAB.cut (o : RegsAB) (op : BitVec 6) (f : BitVec 3) : Cut :=
  ⟨true, o.park, op, fnSel f, fnMod f, 0, o.a, o.b⟩

def Cut.regA (c : Cut) : Option RegA := if c.d == 0 && c.b == 0 then some ⟨c.park, c.a⟩ else none

def RegA.cut (o : RegA) (op : BitVec 6) (f : BitVec 3) : Cut :=
  ⟨true, o.park, op, fnSel f, fnMod f, 0, o.a, 0⟩

def Cut.regD (c : Cut) : Option RegD := if c.a == 0 && c.b == 0 then some ⟨c.park, c.d⟩ else none

def RegD.cut (o : RegD) (op : BitVec 6) : Cut := ⟨true, o.park, op, 0, false, o.d, 0, 0⟩

def Cut.parkOnly (c : Cut) : Option ParkOnly :=
  if c.d == 0 && c.a == 0 && c.b == 0 then some ⟨c.park⟩ else none

def ParkOnly.cut (o : ParkOnly) (uni : Bool) (op : BitVec 6) (f : BitVec 3) : Cut :=
  ⟨uni, o.park, op, fnSel f, fnMod f, 0, 0, 0⟩

/-- UE: a in [20:14], b in [13:7], c in [6:0] (R61). -/
def Cut.eng3 (c : Cut) : Option EngOp3 := some ⟨c.park, c.d, c.a, c.b⟩

def EngOp3.cut (o : EngOp3) (op : BitVec 6) (f : BitVec 3) : Cut :=
  ⟨true, o.park, op, fnSel f, fnMod f, o.a, o.b, o.c⟩

def Cut.eng2 (c : Cut) : Option EngOp2 := if c.a == 0 then some ⟨c.park, c.d, c.b⟩ else none

def EngOp2.cut (o : EngOp2) (op : BitVec 6) (f : BitVec 3) : Cut :=
  ⟨true, o.park, op, fnSel f, fnMod f, o.a, 0, o.c⟩

/-- d[6:3] must be 0 (R231). -/
def Cut.mmaOp (c : Cut) : Option MmaOp :=
  if c.d.extractLsb' 3 4 == 0 then some ⟨c.park, c.d.extractLsb' 0 3, c.a, c.b⟩ else none

def MmaOp.cut (o : MmaOp) (mod : Bool) : Cut :=
  ⟨false, o.park, 0x2F, 0, mod, (0 : BitVec 4) ++ o.cv, o.a, o.b⟩

/-- The count lies between 1 and the footprint of the scope (R230). -/
def Cut.cvdeclOp (c : Cut) : Option CvdeclOp :=
  match cvScopeOf? c.fn with
  | none => none
  | some z =>
    if c.d.extractLsb' 3 4 == 0 && decide (1 ≤ c.low14.toNat) && decide (c.low14.toNat ≤ z.footprint) then
      some ⟨c.park, z, c.d.extractLsb' 0 3, c.low14⟩
    else none

def CvdeclOp.cut (o : CvdeclOp) : Cut :=
  ⟨true, o.park, 0x1A, fnSel o.scope.bits, fnMod o.scope.bits, (0 : BitVec 4) ++ o.cv,
    immHigh o.count, immLow o.count⟩

def Cut.uimm (c : Cut) : Option UImm := some ⟨c.park, c.d, c.low14⟩

def UImm.cut (o : UImm) (op : BitVec 6) : Cut :=
  ⟨true, o.park, op, 0, false, o.d, immHigh o.imm, immLow o.imm⟩

def Cut.uimm17 (c : Cut) : Option UImm17 := some ⟨c.park, c.d, c.fn ++ c.low14⟩

def UImm17.cut (o : UImm17) (op : BitVec 6) : Cut :=
  ⟨true, o.park, op, fnSel (o.imm.extractLsb' 14 3), fnMod (o.imm.extractLsb' 14 3), o.d,
    immHigh (o.imm.extractLsb' 0 14), immLow (o.imm.extractLsb' 0 14)⟩

/-- UJ: the offset is [21:0]; hint 11 is illegal (R60, R66). -/
def Cut.jumpOp (c : Cut) : Option JumpOp :=
  if hintUniformOk (hintOf c.sel) then
    some ⟨c.park, hintOf c.sel, (BitVec.ofBool c.mod ++ c.d : BitVec 8) ++ c.low14⟩
  else none

def JumpOp.cut (o : JumpOp) (op : BitVec 6) : Cut :=
  ⟨true, o.park, op, o.hint.bits, o.off.getLsbD 21, o.off.extractLsb' 14 7, o.off.extractLsb' 7 7,
    o.off.extractLsb' 0 7⟩

/-- `rep` with an immediate count: bit [30] and d must be 0 (R74). -/
def Cut.repImm (c : Cut) : Option RepImm :=
  if !c.park && c.d == 0 then
    some ⟨c.low14.extractLsb' 12 2, c.low14.extractLsb' 10 2, c.low14.extractLsb' 8 2,
      c.low14.extractLsb' 0 8⟩
  else none

def RepImm.cut (o : RepImm) : Cut :=
  ⟨true, false, 0x0D, 0, false, 0, o.sd ++ o.sa ++ o.sb ++ o.n.extractLsb' 7 1, o.n.extractLsb' 0 7⟩

/-- `rep` with a register count: bit [30] and bits [7:0] must be 0 (R74). -/
def Cut.repReg (c : Cut) : Option RepReg :=
  if !c.park && c.low14.extractLsb' 0 8 == 0 then
    some ⟨c.d, c.low14.extractLsb' 12 2, c.low14.extractLsb' 10 2, c.low14.extractLsb' 8 2⟩
  else none

def RepReg.cut (o : RepReg) : Cut :=
  ⟨true, false, 0x0D, 0, true, o.d, o.sd ++ o.sa ++ o.sb ++ (0 : BitVec 1), 0⟩

def Cut.fenceOp (c : Cut) : Option FenceOp :=
  if c.d == 0 && c.a == 0 && c.b == 0 then (scopeOf? c.fn).map fun z => ⟨c.park, z⟩ else none

def FenceOp.cut (o : FenceOp) : Cut :=
  ⟨true, o.park, 0x11, fnSel o.scope.bits, fnMod o.scope.bits, 0, 0, 0⟩

/-- Block-shared forms: n in b[3:0], b[6:4] must be 0 (R45). -/
def Cut.bsD (c : Cut) : Option BsD :=
  if c.a == 0 && c.b.extractLsb' 4 3 == 0 then some ⟨c.park, c.d, c.b.extractLsb' 0 4⟩ else none

def BsD.cut (o : BsD) : Cut := ⟨true, o.park, 0x34, 0, false, o.d, 0, (0 : BitVec 3) ++ o.n⟩

def Cut.bsA (c : Cut) : Option BsA :=
  if c.d == 0 && c.b.extractLsb' 4 3 == 0 then some ⟨c.park, c.a, c.b.extractLsb' 0 4⟩ else none

def BsA.cut (o : BsA) : Cut := ⟨true, o.park, 0x34, 0, true, 0, o.a, (0 : BitVec 3) ++ o.n⟩

def Cut.bsDA (c : Cut) : Option BsDA :=
  if c.b.extractLsb' 4 3 == 0 then some ⟨c.park, c.d, c.a, c.b.extractLsb' 0 4⟩ else none

def BsDA.cut (o : BsDA) : Cut := ⟨true, o.park, 0x34, 1, false, o.d, o.a, (0 : BitVec 3) ++ o.n⟩

/-- A register number outside the map of R142 is illegal (R141). -/
def Cut.sysOp (c : Cut) : Option SysOp := (sysRegOf? c.low14).map fun r => ⟨c.park, c.d, r⟩

def SysOp.cut (o : SysOp) (f : BitVec 3) : Cut :=
  ⟨true, o.park, 0x38, fnSel f, fnMod f, o.d, immHigh o.reg.number, immLow o.reg.number⟩

def Cut.codeOp (c : Cut) : Option CodeOp := if c.d == 0 then some ⟨c.park, c.low14⟩ else none

def CodeOp.cut (o : CodeOp) (f : BitVec 3) : Cut :=
  ⟨true, o.park, 0x3A, fnSel f, fnMod f, 0, immHigh o.code, immLow o.code⟩

/-! ### The opcode maps -/

/-- The lane opcode map (R70, R71). -/
def decodeLane (c : Cut) : Option Instr :=
  match c.op.toNat with
    | 0x01 => if c.mod then c.lane3.map .isub else c.lane3.map .iadd
    | 0x02 => if c.mod then none else c.laneImm.map .iaddi
    | 0x03 => if c.mod then none else c.lane3.map .imul
    | 0x04 => if c.mod then c.lane3.map .imulhU else c.lane3.map .imulhS
    | 0x05 => if c.mod then none else c.lane3.map .imad
    | 0x06 => if c.mod then c.lane3.map .iminU else c.lane3.map .iminS
    | 0x07 => if c.mod then c.lane3.map .imaxU else c.lane3.map .imaxS
    | 0x08 => if c.mod then none else match c.b.toNat with
      | 0 => c.lane2.map .iabs
      | 1 => c.lane2.map .popc
      | 2 => c.lane2.map .clz
      | 3 => c.lane2.map .ctz
      | 4 => c.lane2.map .brev
      | _ => none
    | 0x09 => if c.mod then c.lane3.map .icmpNe else c.lane3.map .icmpEq
    | 0x0A => if c.mod then c.lane3.map .icmpLtU else c.lane3.map .icmpLtS
    | 0x0B => if c.mod then c.lane3.map .icmpGeU else c.lane3.map .icmpGeS
    | 0x0C => if c.mod then none else c.lane3.map .sel
    | 0x0D => if c.mod then none else (c.laneImm.filter fun o => o.hold != .a).map .movi
    | 0x0E => if c.mod then none else c.laneImm.map .lui
    | 0x0F => if c.mod then none else c.laneImm.map .ori
    | 0x10 => if c.mod then c.lane3.map .andn else c.lane3.map .andL
    | 0x11 => if c.mod then c.lane3.map .xorL else c.lane3.map .orL
    | 0x12 => if c.mod then none else c.lane3.map .shl
    | 0x13 => if c.mod then c.lane3.map .sar else c.lane3.map .shr
    | 0x14 => if c.mod then c.lane3.map .bfeU else c.lane3.map .bfeS
    | 0x15 => if c.mod then none else c.lane3.map .bfi
    | 0x16 => if c.mod then c.lane3.map .ilv3 else c.lane3.map .ilv2
    | 0x17 => if c.mod then c.lane3.map .dil3 else c.lane3.map .dil2
    | 0x18 => if c.mod then none else c.lane3.map .rnd
    | 0x19 => if c.mod then c.lane3.map .fsub else c.lane3.map .fadd
    | 0x1A => if c.mod then none else c.lane3.map .fmul
    | 0x1B => if c.mod then none else c.lane3.map .ffma
    | 0x1C => if c.mod then c.lane3.map .fmax else c.lane3.map .fmin
    | 0x1D => if c.mod then c.lane3.map .fcmpLt else c.lane3.map .fcmpEq
    | 0x1E => if c.mod then c.lane3.map .fcmpUn else c.lane3.map .fcmpLe
    | 0x1F => if c.mod then none else c.lane3.map .fdiv
    | 0x20 => if c.mod then none else match c.b.toNat with
      | 0 => c.lane2.map .frcp
      | 1 => c.lane2.map .frsq
      | 2 => c.lane2.map .fsqrt
      | 3 => c.lane2.map .fex2
      | 4 => c.lane2.map .flg2
      | 5 => c.lane2.map .fsinpi
      | 6 => c.lane2.map .fcospi
      | _ => none
    | 0x21 => if c.mod then none else c.lane3.map .hadd2
    | 0x22 => if c.mod then none else c.lane3.map .hmul2
    | 0x23 => if c.mod then none else c.lane3.map .hfma2
    | 0x24 => if c.mod then c.lane3.map .hmax2 else c.lane3.map .hmin2
    | 0x25 => if c.mod then none else c.cvtOp.map .cvt
    | 0x28 => if c.sel != 0 then none else if c.mod then c.regs3.map .shflXor else c.regs3.map .shflIdx
    | 0x29 => if c.sel != 0 then none else if c.mod then c.regs3.map .shflDn else c.regs3.map .shflUp
    | 0x2A => if c.mod || c.sel != 0 then none else match c.b.toNat with
      | 0 => c.regs2.map .voteAny
      | 1 => c.regs2.map .voteAll
      | 2 => c.regs2.map .voteBallot
      | _ => none
    | 0x2B => if c.sel != 0 then none else match c.b.toNat, c.mod with
      | 0, false => c.regs2.map .qdxC
      | 0, true => c.regs2.map .qdxF
      | 1, false => c.regs2.map .qdyC
      | 1, true => c.regs2.map .qdyF
      | _, _ => none
    | 0x2C => c.laneBranch.map .brz
    | 0x2D => c.laneBranch.map .brnz
    | 0x2E => if c.sel != 0 then none else if c.mod then c.regs3.map .fspawn else c.parkOnly.map .fend
    | 0x2F => if c.sel != 0 then none else if c.mod then c.mmaOp.map .mmas else c.mmaOp.map .mma
    | 0x30 => if c.mod then c.memOp.map .stb else c.memOp.map .ldb
    | 0x31 => match c.fn.toNat with
      | 0 => c.regs3.map .atbAdd
      | 1 => c.regs3.map .atbExch
      | 2 => c.regs3.map .atbCas
      | 3 => c.regs3.map .atbAnd
      | 4 => c.regs3.map .atbOr
      | 5 => c.regs3.map .atbXor
      | 6 => c.regs3.map .atbMinU
      | 7 => c.regs3.map .atbMaxU
      | _ => none
    | 0x32 => match c.fn.toNat with
      | 0 => c.regs3.map .atbMinS
      | 1 => c.regs3.map .atbMaxS
      | _ => none
    | 0x33 => match c.fn.toNat with
      | 0 => c.regs3.map .atb64Add
      | 1 => c.regs3.map .atb64Exch
      | 2 => c.regs3.map .atb64Cas
      | 6 => c.regs3.map .atb64MinU
      | 7 => c.regs3.map .atb64MaxU
      | _ => none
    | 0x34 => match c.fn.toNat with
      | 0 => c.regs3.map .redbAdd
      | 1 => c.regs3.map .redbFadd
      | 3 => c.regs3.map .redbAnd
      | 4 => c.regs3.map .redbOr
      | 5 => c.regs3.map .redbXor
      | 6 => c.regs3.map .redbMinU
      | 7 => c.regs3.map .redbMaxU
      | _ => none
    | 0x35 => if c.mod then c.memOp.map .sts else c.memOp.map .lds
    | 0x36 => match c.fn.toNat with
      | 0 => c.regs3.map .atsAdd
      | 1 => c.regs3.map .atsExch
      | 2 => c.regs3.map .atsCas
      | 3 => c.regs3.map .atsAnd
      | 4 => c.regs3.map .atsOr
      | 5 => c.regs3.map .atsXor
      | 6 => c.regs3.map .atsMinU
      | 7 => c.regs3.map .atsMaxU
      | _ => none
    | 0x37 => match c.fn.toNat with
      | 0 => c.regs3.map .atsMinS
      | 1 => c.regs3.map .atsMaxS
      | _ => none
    | 0x38 => if c.mod then c.memOp.map .sta else c.memOp.map .lda
    | 0x39 => if c.mod || c.sel != 2 then none else c.regs3.map .ldw
    | 0x3A => if c.mod then c.memOp.map .acw else c.memOp.map .cva
    | 0x3B => if c.sel != 0 then none else if c.mod then c.regs3.map .tres else c.regs2z.map .trace
    | 0x3C => if c.sel != 0 then none else if c.mod then c.regs3.map .gupd else c.regs3.map .gframe
    | 0x3D => if c.mod then none else match c.sel.toNat with
      | 0 => c.regs3.map .smp
      | 1 => c.regs3.map .smpd
      | 2 => c.regs3.map .smpl
      | _ => none
    | 0x3E => if c.mod then c.memOp.map .stimg else c.memOp.map .ldimg
    | 0x3F => if c.mod then none else match c.sel.toNat with
      | 0 => c.regs3.map .emitv
      | 1 => c.regs3.map .emitp
      | 2 => c.regs2z.map .exportPixel
      | _ => none
    | _ => none

/-- The uniform opcode map (R72, R73). -/
def decodeUniform (c : Cut) : Option Instr :=
  match c.op.toNat with
    | 0x00 => match c.fn.toNat with
      | 0 => c.regs3.map .uadd
      | 1 => c.regs3.map .usub
      | 2 => c.regs3.map .umul
      | 3 => c.regs3.map .uand
      | 4 => c.regs3.map .uor
      | 5 => c.regs3.map .uxor
      | _ => none
    | 0x01 => match c.fn.toNat with
      | 0 => c.regs3.map .ushl
      | 1 => c.regs3.map .ushr
      | 2 => c.regs3.map .usar
      | _ => none
    | 0x02 => match c.fn.toNat with
      | 0 => c.regs3.map .ucmpEq
      | 1 => c.regs3.map .ucmpNe
      | 2 => c.regs3.map .ucmpLtS
      | 3 => c.regs3.map .ucmpGeS
      | 4 => c.regs3.map .ucmpLtU
      | 5 => c.regs3.map .ucmpGeU
      | _ => none
    | 0x03 => match c.fn.toNat with
      | 0 => c.uimm.map .uaddi
      | _ => none
    | 0x04 => c.uimm17.map .umovi
    | 0x05 => c.uimm17.map .ului
    | 0x08 => c.jumpOp.map .jmp
    | 0x09 => (c.laneBranch.filter fun o => hintUniformOk o.hint).map .ubrz
    | 0x0A => (c.laneBranch.filter fun o => hintUniformOk o.hint).map .ubrnz
    | 0x0B => c.jumpOp.map .call
    | 0x0C => match c.fn.toNat with
      | 0 => c.parkOnly.map .ret
      | 1 => c.regA.map .jr
      | _ => none
    | 0x0D => match c.fn.toNat with
      | 0 => c.repImm.map .repImmediate
      | 1 => c.repReg.map .repRegister
      | _ => none
    | 0x0E => match c.fn.toNat with
      | 0 => c.parkOnly.map .nop
      | 1 => c.parkOnly.map .park
      | _ => none
    | 0x10 => match c.fn.toNat with
      | 0 => c.regsAB.map .binit
      | 1 => match c.b.toNat with
        | 0 => c.regs2.map .barr
        | 1 => c.regs2.map .barrF
        | _ => none
      | 2 => c.regsAB.map .bexp
      | 3 => c.regsAB.map .bwait
      | _ => none
    | 0x11 => c.fenceOp.map .fence
    | 0x18 => match c.fn.toNat with
      | 0 => c.regs2z.map .batt
      | 1 => c.regs3.map .bres
      | 2 => c.regsAB.map .bgive
      | 3 => c.regA.map .brel
      | 4 => c.regs2z.map .bmap
      | _ => none
    | 0x19 => match c.fn.toNat with
      | 0 => c.eng3.map .cpy
      | 1 => c.eng3.map .cpyo
      | 2 => c.eng3.map .gath
      | 3 => c.eng3.map .mcast
      | _ => none
    | 0x1A => c.cvdeclOp.map .cvdecl
    | 0x1B => match c.fn.toNat with
      | 0 => c.regs2z.map .rinit
      | 1 => c.regs2z.map .racq
      | 2 => c.regs2z.map .rdone
      | _ => none
    | 0x1C => match c.fn.toNat with
      | 0 => c.eng3.map .enq
      | 1 => c.eng3.map .deq
      | 2 => c.eng3.map .qarm
      | 3 => c.eng3.map .qstat
      | _ => none
    | 0x1D => match c.fn.toNat with
      | 0 => c.eng2.map .send
      | 1 => c.eng3.map .recv
      | 2 => c.eng2.map .mstat
      | _ => none
    | 0x1E => match c.fn.toNat with
      | 0 => c.eng2.map .coll
      | 1 => c.eng2.map .comp
      | _ => none
    | 0x34 => match c.fn.toNat with
      | 0 => c.bsD.map .bsr
      | 1 => c.bsA.map .bsw
      | 2 => c.bsDA.map .bsadd
      | _ => none
    | 0x38 => match c.fn.toNat with
      | 0 => c.sysOp.map .srd
      | 1 => (c.sysOp.filter fun o => !o.reg.readClears).map .swr
      | _ => none
    | 0x39 => match c.fn.toNat with
      | 0 => c.regD.map .time
      | _ => none
    | 0x3A => match c.fn.toNat with
      | 0 => c.parkOnly.map .yield
      | 1 => c.codeOp.map .trap
      | 2 => c.codeOp.map .brk
      | _ => none
    | 0x3B => match c.fn.toNat with
      | 0 => c.regsAB.map .ntfy
      | _ => none
    | _ => none

/-- The instruction of a fibre word; `none` for every word that raises ILLEGAL at decode (R67, R68). -/
def decodeFibre (w : Word) : Option Instr :=
  let c := cutWord w
  if c.uni then decodeUniform c else decodeLane c

/-! ### The words of the front-end harts (R260) -/

/-- The R-type word of the front-end extension. -/
def HartOp.word (o : HartOp) (f3 : BitVec 3) : Word :=
  ((((((0 : BitVec 7) ++ o.rs2 : BitVec 12) ++ o.rs1 : BitVec 17) ++ f3 : BitVec 20) ++ o.rd : BitVec 25)
    ++ (0x0B : BitVec 7))

/-- The four instructions of custom-0; `none` for any other word. -/
def decodeHart (w : Word) : Option Instr :=
  let o : HartOp := ⟨w.extractLsb' 7 5, w.extractLsb' 15 5, w.extractLsb' 20 5⟩
  if w.extractLsb' 0 7 == 0x0B && w.extractLsb' 25 7 == 0 then
    match (w.extractLsb' 12 3).toNat with
    | 0 => some (.rfetch o)
    | 1 => some (.xbfx o)
    | 2 => some (.swait o)
    | 3 => some (.disp o)
    | _ => none
  else none

/-! ### The encoder -/

/-- The word of an instruction; an event has none. -/
def encode : Instr → Option Word
  | .iadd o => some (o.cut 0x01 false).word
  | .isub o => some (o.cut 0x01 true).word
  | .iaddi o => some (o.cut 0x02).word
  | .imul o => some (o.cut 0x03 false).word
  | .imulhS o => some (o.cut 0x04 false).word
  | .imulhU o => some (o.cut 0x04 true).word
  | .imad o => some (o.cut 0x05 false).word
  | .iminS o => some (o.cut 0x06 false).word
  | .iminU o => some (o.cut 0x06 true).word
  | .imaxS o => some (o.cut 0x07 false).word
  | .imaxU o => some (o.cut 0x07 true).word
  | .iabs o => some (o.cut 0x08 0).word
  | .popc o => some (o.cut 0x08 1).word
  | .clz o => some (o.cut 0x08 2).word
  | .ctz o => some (o.cut 0x08 3).word
  | .brev o => some (o.cut 0x08 4).word
  | .icmpEq o => some (o.cut 0x09 false).word
  | .icmpNe o => some (o.cut 0x09 true).word
  | .icmpLtS o => some (o.cut 0x0A false).word
  | .icmpLtU o => some (o.cut 0x0A true).word
  | .icmpGeS o => some (o.cut 0x0B false).word
  | .icmpGeU o => some (o.cut 0x0B true).word
  | .sel o => some (o.cut 0x0C false).word
  | .movi o => some (o.cut 0x0D).word
  | .lui o => some (o.cut 0x0E).word
  | .ori o => some (o.cut 0x0F).word
  | .andL o => some (o.cut 0x10 false).word
  | .andn o => some (o.cut 0x10 true).word
  | .orL o => some (o.cut 0x11 false).word
  | .xorL o => some (o.cut 0x11 true).word
  | .shl o => some (o.cut 0x12 false).word
  | .shr o => some (o.cut 0x13 false).word
  | .sar o => some (o.cut 0x13 true).word
  | .bfeS o => some (o.cut 0x14 false).word
  | .bfeU o => some (o.cut 0x14 true).word
  | .bfi o => some (o.cut 0x15 false).word
  | .ilv2 o => some (o.cut 0x16 false).word
  | .ilv3 o => some (o.cut 0x16 true).word
  | .dil2 o => some (o.cut 0x17 false).word
  | .dil3 o => some (o.cut 0x17 true).word
  | .rnd o => some (o.cut 0x18 false).word
  | .fadd o => some (o.cut 0x19 false).word
  | .fsub o => some (o.cut 0x19 true).word
  | .fmul o => some (o.cut 0x1A false).word
  | .ffma o => some (o.cut 0x1B false).word
  | .fmin o => some (o.cut 0x1C false).word
  | .fmax o => some (o.cut 0x1C true).word
  | .fcmpEq o => some (o.cut 0x1D false).word
  | .fcmpLt o => some (o.cut 0x1D true).word
  | .fcmpLe o => some (o.cut 0x1E false).word
  | .fcmpUn o => some (o.cut 0x1E true).word
  | .fdiv o => some (o.cut 0x1F false).word
  | .frcp o => some (o.cut 0x20 0).word
  | .frsq o => some (o.cut 0x20 1).word
  | .fsqrt o => some (o.cut 0x20 2).word
  | .fex2 o => some (o.cut 0x20 3).word
  | .flg2 o => some (o.cut 0x20 4).word
  | .fsinpi o => some (o.cut 0x20 5).word
  | .fcospi o => some (o.cut 0x20 6).word
  | .hadd2 o => some (o.cut 0x21 false).word
  | .hmul2 o => some (o.cut 0x22 false).word
  | .hfma2 o => some (o.cut 0x23 false).word
  | .hmin2 o => some (o.cut 0x24 false).word
  | .hmax2 o => some (o.cut 0x24 true).word
  | .cvt o => some (o.cut).word
  | .shflIdx o => some (o.cut false 0x28 0).word
  | .shflXor o => some (o.cut false 0x28 1).word
  | .shflUp o => some (o.cut false 0x29 0).word
  | .shflDn o => some (o.cut false 0x29 1).word
  | .voteAny o => some (o.cut false 0x2A 0 0).word
  | .voteAll o => some (o.cut false 0x2A 0 1).word
  | .voteBallot o => some (o.cut false 0x2A 0 2).word
  | .qdxC o => some (o.cut false 0x2B 0 0).word
  | .qdxF o => some (o.cut false 0x2B 1 0).word
  | .qdyC o => some (o.cut false 0x2B 0 1).word
  | .qdyF o => some (o.cut false 0x2B 1 1).word
  | .brz o => some (o.cut false 0x2C).word
  | .brnz o => some (o.cut false 0x2D).word
  | .fend o => some (o.cut false 0x2E 0).word
  | .fspawn o => some (o.cut false 0x2E 1).word
  | .mma o => some (o.cut false).word
  | .mmas o => some (o.cut true).word
  | .ldb o => some (o.cut 0x30 false).word
  | .stb o => some (o.cut 0x30 true).word
  | .atbAdd o => some (o.cut false 0x31 0).word
  | .atbExch o => some (o.cut false 0x31 1).word
  | .atbCas o => some (o.cut false 0x31 2).word
  | .atbAnd o => some (o.cut false 0x31 3).word
  | .atbOr o => some (o.cut false 0x31 4).word
  | .atbXor o => some (o.cut false 0x31 5).word
  | .atbMinU o => some (o.cut false 0x31 6).word
  | .atbMaxU o => some (o.cut false 0x31 7).word
  | .atbMinS o => some (o.cut false 0x32 0).word
  | .atbMaxS o => some (o.cut false 0x32 1).word
  | .atb64Add o => some (o.cut false 0x33 0).word
  | .atb64Exch o => some (o.cut false 0x33 1).word
  | .atb64Cas o => some (o.cut false 0x33 2).word
  | .atb64MinU o => some (o.cut false 0x33 6).word
  | .atb64MaxU o => some (o.cut false 0x33 7).word
  | .redbAdd o => some (o.cut false 0x34 0).word
  | .redbFadd o => some (o.cut false 0x34 1).word
  | .redbAnd o => some (o.cut false 0x34 3).word
  | .redbOr o => some (o.cut false 0x34 4).word
  | .redbXor o => some (o.cut false 0x34 5).word
  | .redbMinU o => some (o.cut false 0x34 6).word
  | .redbMaxU o => some (o.cut false 0x34 7).word
  | .lds o => some (o.cut 0x35 false).word
  | .sts o => some (o.cut 0x35 true).word
  | .atsAdd o => some (o.cut false 0x36 0).word
  | .atsExch o => some (o.cut false 0x36 1).word
  | .atsCas o => some (o.cut false 0x36 2).word
  | .atsAnd o => some (o.cut false 0x36 3).word
  | .atsOr o => some (o.cut false 0x36 4).word
  | .atsXor o => some (o.cut false 0x36 5).word
  | .atsMinU o => some (o.cut false 0x36 6).word
  | .atsMaxU o => some (o.cut false 0x36 7).word
  | .atsMinS o => some (o.cut false 0x37 0).word
  | .atsMaxS o => some (o.cut false 0x37 1).word
  | .lda o => some (o.cut 0x38 false).word
  | .sta o => some (o.cut 0x38 true).word
  | .ldw o => some (o.cut false 0x39 4).word
  | .cva o => some (o.cut 0x3A false).word
  | .acw o => some (o.cut 0x3A true).word
  | .trace o => some (o.cut false 0x3B 0 0).word
  | .tres o => some (o.cut false 0x3B 1).word
  | .gframe o => some (o.cut false 0x3C 0).word
  | .gupd o => some (o.cut false 0x3C 1).word
  | .smp o => some (o.cut false 0x3D 0).word
  | .smpd o => some (o.cut false 0x3D 2).word
  | .smpl o => some (o.cut false 0x3D 4).word
  | .ldimg o => some (o.cut 0x3E false).word
  | .stimg o => some (o.cut 0x3E true).word
  | .emitv o => some (o.cut false 0x3F 0).word
  | .emitp o => some (o.cut false 0x3F 2).word
  | .exportPixel o => some (o.cut false 0x3F 4 0).word
  | .uadd o => some (o.cut true 0x00 0).word
  | .usub o => some (o.cut true 0x00 1).word
  | .umul o => some (o.cut true 0x00 2).word
  | .uand o => some (o.cut true 0x00 3).word
  | .uor o => some (o.cut true 0x00 4).word
  | .uxor o => some (o.cut true 0x00 5).word
  | .ushl o => some (o.cut true 0x01 0).word
  | .ushr o => some (o.cut true 0x01 1).word
  | .usar o => some (o.cut true 0x01 2).word
  | .ucmpEq o => some (o.cut true 0x02 0).word
  | .ucmpNe o => some (o.cut true 0x02 1).word
  | .ucmpLtS o => some (o.cut true 0x02 2).word
  | .ucmpGeS o => some (o.cut true 0x02 3).word
  | .ucmpLtU o => some (o.cut true 0x02 4).word
  | .ucmpGeU o => some (o.cut true 0x02 5).word
  | .uaddi o => some (o.cut 0x03).word
  | .umovi o => some (o.cut 0x04).word
  | .ului o => some (o.cut 0x05).word
  | .jmp o => some (o.cut 0x08).word
  | .ubrz o => some (o.cut true 0x09).word
  | .ubrnz o => some (o.cut true 0x0A).word
  | .call o => some (o.cut 0x0B).word
  | .ret o => some (o.cut true 0x0C 0).word
  | .jr o => some (o.cut 0x0C 1).word
  | .repImmediate o => some (o.cut).word
  | .repRegister o => some (o.cut).word
  | .nop o => some (o.cut true 0x0E 0).word
  | .park o => some (o.cut true 0x0E 1).word
  | .binit o => some (o.cut 0x10 0).word
  | .barr o => some (o.cut true 0x10 1 0).word
  | .barrF o => some (o.cut true 0x10 1 1).word
  | .bexp o => some (o.cut 0x10 2).word
  | .bwait o => some (o.cut 0x10 3).word
  | .fence o => some (o.cut).word
  | .batt o => some (o.cut true 0x18 0 0).word
  | .bres o => some (o.cut true 0x18 1).word
  | .bgive o => some (o.cut 0x18 2).word
  | .brel o => some (o.cut 0x18 3).word
  | .bmap o => some (o.cut true 0x18 4 0).word
  | .cpy o => some (o.cut 0x19 0).word
  | .cpyo o => some (o.cut 0x19 1).word
  | .gath o => some (o.cut 0x19 2).word
  | .mcast o => some (o.cut 0x19 3).word
  | .cvdecl o => some (o.cut).word
  | .rinit o => some (o.cut true 0x1B 0 0).word
  | .racq o => some (o.cut true 0x1B 1 0).word
  | .rdone o => some (o.cut true 0x1B 2 0).word
  | .enq o => some (o.cut 0x1C 0).word
  | .deq o => some (o.cut 0x1C 1).word
  | .qarm o => some (o.cut 0x1C 2).word
  | .qstat o => some (o.cut 0x1C 3).word
  | .send o => some (o.cut 0x1D 0).word
  | .recv o => some (o.cut 0x1D 1).word
  | .mstat o => some (o.cut 0x1D 2).word
  | .coll o => some (o.cut 0x1E 0).word
  | .comp o => some (o.cut 0x1E 1).word
  | .bsr o => some (o.cut).word
  | .bsw o => some (o.cut).word
  | .bsadd o => some (o.cut).word
  | .srd o => some (o.cut 0).word
  | .swr o => some (o.cut 1).word
  | .time o => some (o.cut 0x39).word
  | .yield o => some (o.cut true 0x3A 0).word
  | .trap o => some (o.cut 1).word
  | .brk o => some (o.cut 2).word
  | .ntfy o => some (o.cut 0x3B 0).word
  | .rfetch o => some (o.word 0)
  | .xbfx o => some (o.word 1)
  | .swait o => some (o.word 2)
  | .disp o => some (o.word 3)
  | .swaitTimeout _ | .ringDoorbell _ _ | .ringErrClear _ | .launch _ | .qcfg _ | .qflush _ | .inval _
  | .migrate _ | .signal _ | .nopCommand _ | .move _ | .blockReserve _ | .gangReserve _
  | .launchCompletion _ | .preemptRequest _ _ | .preemptSave _ | .blockRestore _ | .subsetYield _
  | .resultReturn _ | .coreClockGate _ | .corePowerGate _ | .coreWake _ | .notifyWriteArrival _
  | .runAheadStop _ | .asyncFaultEnqueue _ | .trapEntry _ | .faultLogWrite _ | .flack _
  | .giveDrainComplete _ | .releaseDrainComplete _ | .bankClearDone _ | .deliveryLanding _
  | .barrierUnitApply _ | .copyCommandComplete _ | .ringFillStart _ | .ringFillCount _
  | .mmaSetStart _ _ _ | .mmaOpComplete _ | .baseDieBoxTest _ | .traceComplete _ | .messageArrival _
  | .collectiveComplete _ _ | .compArrival _ _ | .tileClose _ _ | .tileDelivery _ | .swPathEnqueue _
  | .tileResolve _ _ | .tileFinish _ _ | .passDone _ | .frameStart _ | .headLinkUp _
  | .goldenSourceAdvance _ | .wbMove _ | .pointFill _ _ | .pointDrop _ _ | .promotionServe _
  | .sliceAtomicApply _ | .hostMemAccess _ | .hostNotifyWrite _ _ | .capWrite _ | .tslRead
  | .correctedErrorCountRead _ | .groupTableWrite _ _ | .registerWrite _ _ | .deviceReset
  | .bootVerify _ | .functionReady _ | .thermalTrip | .clockStepDown | .clockStepUp | .avmalLinkDown _
  | .avmalLinkUp _ _ | .timeStampDiscipline _ | .getVersion | .getCapabilities | .negotiateAlgorithms
  | .getDigests | .getCertificate _ _ _ | .challenge _ _ | .getMeasurements _ | .unassignedWord _
  | .signalLineSet _ | .headLinkLost _ | .scanOutLine _ _ _ | .powerThermalLimit _
  | .hostWriteToHostLine _ _ => none

/-! ### The opcode table's numbering -/

/-- The instruction that decoding reads from an instruction of `nbits` bits whose value is `w`: a word of the
front-end extension, whose major opcode and funct7 are fixed, else a fibre word. The harts and the fibres have
instruction streams of their own, and a few words mean something in both (DESIGN CHOICE, log 5). -/
def decodeTableWord (nbits w : Nat) : Option Instr :=
  if nbits ≤ 32 && w < 2 ^ nbits then
    match decodeHart (BitVec.ofNat 32 w) with
    | some i => some i
    | none => decodeFibre (BitVec.ofNat 32 w)
  else none

/-- Whether an instruction is a word of the front-end harts (R260). -/
def Instr.onHart : Instr → Bool
  | .rfetch _ | .xbfx _ | .swait _ | .disp _ => true
  | _ => false

end Sys2Proof
end

