-- ==== Sys2Proof/Machine/SaveArea.lean ====
section
/-!
DEFINITION. The context save area of a block (13 R291, R292): the sizes that a launch record gives its groups, the places
in the area, and the writing of a group there, at a save (R293) and as the checkpoint of a run-ahead (07 R164).
-/
namespace Sys2Proof.Machine

/-! ### The groups of a block (11 R243, R244) -/

def LaunchRec.width (r : LaunchRec) : Nat := 8 * 2 ^ r.wid
def LaunchRec.wsize (r : LaunchRec) : Nat := 8 * (r.ra + 1)
def LaunchRec.slots (r : LaunchRec) : Nat := r.nscr + r.nact + r.nwgt + r.nacc

def lvlExt (w : Word) : Nat := wbits w 15 0
def lvlDom (w : Word) : Nat := wbits w 18 16
def lvlScope (w : Word) : Nat := wbits w 21 19

def LaunchRec.lvl (r : LaunchRec) (k : Nat) : Word := nth r.lvls k 0

/-- P_k: fibres in a unit of level k; `prodBelow r k` is P_(k − 1) (R244). -/
def LaunchRec.prodBelow (r : LaunchRec) (k : Nat) : Nat :=
  (List.range k).foldl (fun p j => p * lvlExt (r.lvl j)) 1

/-- Fibres of a block, and its groups. -/
def LaunchRec.blockFibres (r : LaunchRec) : Nat := r.prodBelow (r.blklvl + 1)
def LaunchRec.blockGroups (r : LaunchRec) : Nat := r.blockFibres / r.width

/-! ### Places (R291, R292) -/

def up64k (n : Nat) : Nat := (n + 65535) / 65536 * 65536

/-- REG and BNK: the offsets of the windows and of the saved banks in a save area. -/
def areaReg (groups : Nat) : Nat := up64k (0x4000 + 0x1000 * groups)
def areaBnk (r : LaunchRec) (groups : Nat) : Nat := areaReg groups + up64k (4 * r.wsize * (groups * r.width))

def areaSize (r : LaunchRec) (groups : Nat) : Nat := areaBnk r groups + 2 ^ 19 * r.slots

/-- The area of fibre state, and of the private form (R292). -/
def stateArea (b : Block) (x : Group) (l : Nat) : Nat := groupArea b x + 0xA00 + 16 * l
def privateArea (b : Block) (x : Group) : Nat := groupArea b x + 0xE00

/-- The window of fibre index l of a group (R291). -/
def windowArea (b : Block) (groups : Nat) (x : Group) (l : Nat) : Nat :=
  b.area + areaReg groups + 4 * x.wsize * (x.width * x.num + l)

/-! ### Writing -/

/-- Free bytes (DESIGN CHOICE, log 4): a form that the spec keeps private to the device. -/
def State.writeFree (s : State) (key n : Nat) : State :=
  { s.writePa key ((List.range n).map fun i => Config.freeByte (s.free + i)) with free := s.free + n }

/-- Writes a group: fibre state, windows, and the private form with its CRC (R291, R292). -/
def State.writeGroup (s : State) (b : Block) (groups : Nat) (x : Group) : State :=
  let s1 := x.fibres.foldl (fun s p =>
    s.writePa (stateArea b x p.1) (bytesOfWords [codeLo p.2.pc, codeHi p.2.pc, x.predWord p.1, p.2.repc])) s
  let s2 := x.lanes.foldl (fun (s : State) l =>
    s.writePa (windowArea b groups x l) (bytesOfWords (x.regList l 0 x.wsize))) s1
  let s3 := s2.writeFree (privateArea b x) 504
  s3.writePa (privateArea b x + 504) (bytesOf 8 (crc64 (s3.readPa (privateArea b x) 504)).toNat)

/-- The groups of a block. -/
def State.groupsIn (s : State) (b : Block) : Nat :=
  match Tab.get s.launches b.launch with
  | some l => l.record.blockGroups
  | none => 0

/-- The checkpoint of a group that begins a run-ahead goes to the group's own places in the save area (07 R164). -/
def State.checkpoint (s : State) (x : Group) : State :=
  match x.runAhead, s.blockOf x with
  | none, some b => s.writeGroup b (s.groupsIn b) x
  | _, _ => s

end Sys2Proof.Machine
end

