-- ==== Sys2Proof/Machine/Sched.lean ====
section
/-!
DEFINITION. Which subset of a group issues (02 R29-R33): choice, merging and the yield bound.
-/
namespace Sys2Proof.Machine

/-- A waiting subset that may become current (R31). -/
def Subset.eligible (u : Subset) : Bool := u.wait == .none

/-- The element of a list with the least measure; among equals a free choice (DESIGN CHOICE, log 4). -/
def leastBy (s : State) (f : Subset → Nat) (l : List Subset) : Option Subset × State :=
  match l with
  | [] => (none, s)
  | u :: t =>
    let m := t.foldl (fun m v => min m (f v)) (f u)
    let least := l.filter fun v => f v == m
    let (i, s1) := s.choose least.length
    (least[i]?, s1)

/-- The subset that the scheduler makes current when there is none: among those that have waited through
64 issues the one that has waited longest, else the one with the lowest PC (R31). -/
def pickSubset (s : State) (x : Group) : Option Subset × State :=
  let el := x.waiting.filter Subset.eligible
  let old := el.filter fun u => decide (64 ≤ x.issues - u.since)
  if old.isEmpty then leastBy s (fun u => (x.pcOf u.mask).toNat) el else leastBy s Subset.since old

/-- The eligible subset that has waited longest (R32). -/
def longestWaiting (s : State) (x : Group) : Option Subset × State :=
  leastBy s Subset.since (x.waiting.filter Subset.eligible)

/-- Eligible waiting subsets at the current PC merge with the current subset (R31, R78, R286). -/
def Group.merge (x : Group) : Group :=
  x.waiting.foldl (fun y u =>
    match y.current with
    | none => y
    | some c =>
      if u.eligible && y.agree (c.mask ||| u.mask) then
        { y with current := some { c with mask := c.mask ||| u.mask }, waiting := y.waiting.erase u }
      else y) x

/-- Makes the group ready to issue: a current subset is chosen where there is none, and merged. None when
no subset of the group may issue. -/
def State.ready (s : State) (g : Nat) : Option State :=
  match s.group? g with
  | none => none
  | some x =>
    if x.hold.isSome then none
    else
      match x.current with
      | some c =>
        if x.runAhead.isNone then some (s.setGroup g x.merge)
        else if x.runAhead.any (fun r => r.stop) then none
        else if c.wait == .park && x.maskPending c.mask then none
        else some (s.setGroup g { x with current := some { c with wait := .none } })
      | none =>
        if x.runAhead.isSome then none
        else
          match pickSubset s x with
          | (none, _) => none
          | (some u, s1) => some (s1.setGroup g (x.makeCurrent u).merge)

/-- Whether the current subset must yield before it issues again; a `rep` is never split by a yield (R32). -/
def Group.yieldDue (x : Group) : Bool :=
  match x.current with
  | none => false
  | some c => decide (64 ≤ c.count) && x.waiting.any Subset.eligible && x.runAhead.isNone && !x.repeating

/-- The current subset yields to the one that has waited longest (R32, 06 R146). -/
def State.yieldTo (s : State) (g : Nat) : State :=
  match s.group? g with
  | none => s
  | some x =>
    match longestWaiting s x with
    | (none, _) => s
    | (some u, s1) => s1.setGroup g ((x.stopCurrent .none).makeCurrent u)

end Sys2Proof.Machine
end

