-- ==== Sys2Proof/Machine/Fetch.lean ====
section
/-!
DEFINITION. Fetching the word of an issue (03 R51, 07 R163, 12 R264) and preparing a group's issue.
-/
namespace Sys2Proof.Machine

/-- A word at an address, fetched at the device point. -/
inductive Fetched where
  | word (w : Word) (s : State)
  | fault (f : Cause) (s : State)
  deriving DecidableEq, Repr

/-- Fetches the word at a code address in the address space of a group (R51, R163, R264). (DEDUCED, log 40.) -/
def State.fetchAt (s : State) (x : Group) (pc : CodeAddr) : Fetched :=
  match s.translate (s.rootOf x) pc.toNat .fetch with
  | (.page p, s1) => .word (toWord (ofBytes (s1.engineRead p.comp p.key 4).1)) s1
  | (.xlate, s1) => .fault .xlate s1
  | (.migrate, s1) => .fault .migrate s1
  | (.protect, s1) => .fault .protect s1

/-- The page of a virtual address, as a batch entry (07 R165). -/
def batchPage (va : Nat) (migrating fetch write : Bool) : BatchPage :=
  { vpn := va % 2 ^ 52 / 2 ^ 16, migrating := migrating, fetch := fetch, write := write }

/-- A page enters the batch of a run-ahead: it is not entered twice, its W bit is ORed, and 33 pages stop
the run-ahead (07 R164, R165). -/
def RunAhead.enter (r : RunAhead) (p : BatchPage) : RunAhead :=
  let batch :=
    if r.batch.any (fun q => q.vpn == p.vpn) then
      r.batch.map fun q => if q.vpn == p.vpn then { q with write := q.write || p.write } else q
    else if r.batch.length < 33 then r.batch ++ [p] else r.batch
  { r with batch := batch, stop := r.stop || decide (33 ≤ batch.length) }

/-- A fetch that faults (R163): PROTECT is raised at the word; XLATE and MIGRATE go to the front end with a
batch of one page; during run-ahead a page that is not present enters the batch (R164), and any fault ends the
run-ahead. No word has been fetched: fops0 of the PROTECT is 0 (DESIGN CHOICE, log 46). -/
def State.fetchFault (s : State) (g : Nat) (x : Group) (c : Cause) (pc : CodeAddr) : State :=
  let va := pc.toNat
  let page := batchPage va (c == .migrate) true false
  match x.runAhead with
  | some r =>
    s.setGroup g { x with runAhead := some { (if c == .xlate then r.enter page else r) with stop := true } }
  | none =>
    if c == .protect then s.raise g { cause := .protect, ops := [0, toWord va, toWord (va / 2 ^ 32)] }
    else
      let a := va - va % 128
      let f := { faultRec s x { cause := c, ops := [toWord a, toWord (a / 2 ^ 32), 1] } with pc := pc }
      s.raiseService g f va [page]

/-- Whether the core of a group lets it issue: its clock runs, no thermal trip has
stopped the device, its block is on its cores, and no acquire of it is incomplete (02 R46, 22 R389, 12 R271). -/
def State.canIssue (s : State) (g : Nat) : Bool :=
  match s.group? g with
  | none => false
  | some x =>
    (s.core x.core).gate == .running && !s.power.trip && !(s.ord.promotions.any fun p => p.group == g) &&
      match s.blockOf x with
      | some b => b.phase == .running
      | none => false

/-- A command of a ring that was fetched earlier completes (R258). -/
def State.commandDone (s : State) (ring : Nat) : State :=
  { s with rings := Tab.modify s.rings ring fun r => { r with done := r.done + 1, late := r.late - 1 } }

/-- The first issue of a block of a launch is an acquire at sys scope (12 R273): it discards the copies of
its cores' points. -/
def State.firstIssue (s : State) (g : Nat) : State :=
  match s.group? g with
  | none => s
  | some x =>
    match s.blockOf x with
    | none => s
    | some b =>
      if b.issued then s
      else
        b.seats.foldl (fun s e => s.discardInside e.core .sys)
          (s.modBlock x.block fun b => { b with issued := true })

/-- The ring whose MOVE completes when a group issues on its new cores (11 R259). -/
def State.moveRingOf (s : State) (g : Nat) : Option Nat := ((s.group? g).bind s.blockOf).bind Block.moveRing

/-- After a group's turn, from s to t: where it has issued on new cores, the MOVE that named its block completes (11 R259).
A word that is held before it issues does not count. -/
def State.moveIssued (s t : State) (g : Nat) : State :=
  match s.moveRingOf g, s.group? g, t.group? g with
  | some r, some x, some y =>
    if x.issues = y.issues then t
    else (t.modBlock x.block fun b => { b with moveRing := none }).commandDone r
  | _, _, _ => t

/-- What a group's turn comes to, with the MOVE that it may complete. -/
def State.afterTurn (s : State) (g : Nat) (o : Host.Outcome State Fault Refusal) : Host.Outcome State Fault Refusal :=
  match s.moveRingOf g with
  | none => o
  | some _ =>
    match o with
    | .next t => .next (s.moveIssued t g)
    | r => r

/-- What the turn of a group comes to. -/
inductive Prepared where
  /-- Nothing: no subset of it may issue. -/
  | idle
  /-- Its current subset yields (R32). -/
  | yield (s : State)
  /-- It issues this word. -/
  | word (w : Word) (s : State)
  /-- Its fetch faults, with this outcome. -/
  | done (s : State)
  deriving DecidableEq, Repr

/-- Prepares the next issue of a group. -/
def State.prepare (s : State) (g : Nat) : Prepared :=
  if s.canIssue g then
    match s.ready g with
    | none => .idle
    | some s1 =>
      match s1.group? g with
      | none => .idle
      | some x =>
        if x.yieldDue then .yield s1
        else
          match s1.fetchAt x x.pc with
          | .word w s2 => .word w { s2.firstIssue g with cur := some g, word := w, wordOff := 0 }
          | .fault c s2 => .done ({ s2 with wordOff := 0 }.fetchFault g x c x.pc)
  else .idle

end Sys2Proof.Machine
end

