-- ==== Sys2Proof/Machine/Operands.lean ====
section
/-!
DEFINITION. The operand forms of the lane set and of the uniform set (03 R54-R60, 05 R107, R108, 06 R129):
which registers a word names, what its operation reads, and where its result goes.
-/
namespace Sys2Proof.Machine

/-- The body of a lane word as a function of its register numbers d, a, b. -/
abbrev LaneBody := Nat → Nat → Nat → Body

/-- What an operation answers: the result, and the sticky flags it sets (R17, R87). -/
abbrev Valued := Word × Word

/-- An operation that sets no flag. -/
def plain (w : Word) : Valued := (w, 0)

/-- Applies a change for each active lane, in order. -/
def Group.eachLane (x : Group) (f : Group → Nat → Group) : Group := (lanesOf x.active).foldl f x

/-- Writes a result and its flags into a lane. -/
def Group.result (x : Group) (l d : Nat) (v : Valued) : Group := (x.setReg l d v.1).orFlags l v.2

/-- LA with registers a and b: V[d] := f(V[a], V[b]) in every active lane. -/
def lane3 (f : Word → Word → Valued) : LaneBody := fun d a b =>
  checked { laneR := [a, b], laneW := [d] } fun s g x =>
    okGroup s g (x.eachLane fun y l => y.result l d (f (y.reg l a) (y.reg l b)))

/-- LA that reads d as a third source: V[d] := f(V[d], V[a], V[b]). -/
def lane4 (f : Word → Word → Word → Valued) : LaneBody := fun d a b =>
  checked { laneR := [a, b, d], laneW := [d] } fun s g x =>
    okGroup s g (x.eachLane fun y l => y.result l d (f (y.reg l d) (y.reg l a) (y.reg l b)))

/-- LA with a selector in b: V[d] := f(V[a]). -/
def lane2 (f : Word → Valued) : LaneBody := fun d a _ =>
  checked { laneR := [a], laneW := [d] } fun s g x =>
    okGroup s g (x.eachLane fun y l => y.result l d (f (y.reg l a)))

/-- LA with a selector in b that reads d: V[d] := f(V[d], V[a]). -/
def lane2d (f : Word → Word → Valued) : LaneBody := fun d a _ =>
  checked { laneR := [a, d], laneW := [d] } fun s g x =>
    okGroup s g (x.eachLane fun y l => y.result l d (f (y.reg l d) (y.reg l a)))

/-- LI that reads d: V[d] := f(V[d]). -/
def laneImmD (f : Word → Word) : LaneBody := fun d _ _ =>
  checked { laneR := [d], laneW := [d] } fun s g x =>
    okGroup s g (x.eachLane fun y l => y.setReg l d (f (y.reg l d)))

/-- LI that reads nothing. -/
def laneImmSet (v : Word) : LaneBody := fun d _ _ =>
  checked { laneW := [d] } fun s g x => okGroup s g (x.eachLane fun y l => y.setReg l d v)

/-- A lane instruction of LA, on its own registers. -/
def laneWord3 (k : LaneBody) (o : LaneOp3) (s : State) : Host.Outcome State Fault Refusal :=
  stepWord true o.park (k o.d.toNat o.a.toNat o.b.toNat) s

def laneWord2 (k : LaneBody) (o : LaneOp2) (s : State) : Host.Outcome State Fault Refusal :=
  stepWord true o.park (k o.d.toNat o.a.toNat 0) s

def laneWordI (k : LaneBody) (o : LaneImm) (s : State) : Host.Outcome State Fault Refusal :=
  stepWord true o.park (k o.d.toNat 0 0) s

/-- A lane-crossing word with three registers or with a selector. -/
def crossWord3 (k : LaneBody) (o : Regs3) (s : State) : Host.Outcome State Fault Refusal :=
  stepWord true o.park (k o.d.toNat o.a.toNat o.b.toNat) s

def crossWord2 (k : LaneBody) (o : Regs2) (s : State) : Host.Outcome State Fault Refusal :=
  stepWord true o.park (k o.d.toNat o.a.toNat 0) s

/-- UA: S[d] := f(S[a], S[b]) in every lane of the group (06 R129). -/
def uni3 (f : Word → Word → Word) (o : Regs3) (s : State) : Host.Outcome State Fault Refusal :=
  stepWord true o.park (checked { uniR := [o.a.toNat, o.b.toNat], uniW := [o.d.toNat] } fun s g x =>
    okGroup s g (x.bcast o.d.toNat (f (x.uni o.a.toNat) (x.uni o.b.toNat)))) s

end Sys2Proof.Machine
end

