-- ==== Sys2Proof/Machine/LaneAlu.lean ====
section
/-!
DEFINITION. Integer arithmetic, compares, logic, shifts and fields of the lane pipe (05 R112-R119).
-/
namespace Sys2Proof.Machine

/-- 1 when a relation holds, else 0 (R114). -/
def truth (c : Bool) : Word := if c then 1 else 0

/-- The high word of a product (R112). -/
def mulHighS (a b : Word) : Word := ((a.signExtend 64 * b.signExtend 64) >>> 32).setWidth 32
def mulHighU (a b : Word) : Word := ((a.setWidth 64 * b.setWidth 64) >>> 32).setWidth 32

/-- Shifts by a whole register (R115). -/
def shiftLeft (a b : Word) : Word := if 32 ≤ b.toNat then 0 else a <<< b.toNat
def shiftRight (a b : Word) : Word := if 32 ≤ b.toNat then 0 else a >>> b.toNat
def shiftArith (a b : Word) : Word := a.sshiftRight (min b.toNat 31)

/-- Position and length of a field (R116). -/
def fieldPos (b : Word) : Nat := wbits b 4 0
def fieldLen (b : Word) : Nat := min (wbits b 13 8) (32 - fieldPos b)

/-- `bfe.u`, `bfe.s` and `bfi` (R116). -/
def extractU (a b : Word) : Word := toWord (a.toNat >>> fieldPos b % 2 ^ fieldLen b)
def extractS (a b : Word) : Word :=
  if fieldLen b = 0 then 0 else intWord (sxNat (a.toNat >>> fieldPos b % 2 ^ fieldLen b) (fieldLen b))
def insertField (d a b : Word) : Word :=
  let m := toWord ((2 ^ fieldLen b - 1) * 2 ^ fieldPos b)
  (d &&& ~~~m) ||| ((a <<< fieldPos b) &&& m)

/-- Bit counts (R117). -/
def countOnes (a : Word) : Word := toWord ((List.range 32).countP fun i => wbit a i)
def leadingZeros (a : Word) : Word := toWord (if a = 0 then 32 else 31 - Nat.log2 a.toNat)
def trailingZeros (a : Word) : Word :=
  toWord (match (List.range 32).find? fun i => wbit a i with
    | some i => i
    | none => 32)

/-- A word from its bits. -/
def ofBits (f : Nat → Bool) : Word := toWord ((List.range 32).foldl (fun n i => if f i then n + 2 ^ i else n) 0)

def reverseBits (a : Word) : Word := ofBits fun i => wbit a (31 - i)

/-- Morton interleaving and its inverse (R118). -/
def interleave2 (a b : Word) : Word := ofBits fun i => if i % 2 = 0 then wbit a (i / 2) else wbit b (i / 2)
def interleave3 (d a b : Word) : Word :=
  ofBits fun i => decide (i < 30) &&
    (if i % 3 = 0 then wbit a (i / 3) else if i % 3 = 1 then wbit b (i / 3) else wbit d (i / 3))
def deinterleave (k n : Nat) (a b : Word) : Word :=
  ofBits fun i => decide (i < n) && decide (b.toNat < k) && wbit a (k * i + b.toNat)

/-- One round of `rnd`, and its constants (R119). -/
def rndRound (k x c : Word) : Word :=
  let x := x + k + c
  let x := (x ^^^ (x >>> 16)) * 0x5A3C96E5
  let x := (x ^^^ (x >>> 15)) * 0x2D91B4C7
  x ^^^ (x >>> 15)
def rndWord (k x : Word) : Word := [0x6F1D2A53, 0x1B84E6C9, 0xC2A75F31, 0x8E463B1F].foldl (rndRound k) x

/-! ### Bodies -/

def bodyIadd : LaneBody := lane3 fun a b => plain (a + b)
def bodyIsub : LaneBody := lane3 fun a b => plain (a - b)
def bodyImul : LaneBody := lane3 fun a b => plain (a * b)
def bodyImulhS : LaneBody := lane3 fun a b => plain (mulHighS a b)
def bodyImulhU : LaneBody := lane3 fun a b => plain (mulHighU a b)
def bodyImad : LaneBody := lane4 fun d a b => plain (d + a * b)
def bodyIminS : LaneBody := lane3 fun a b => plain (if a.slt b then a else b)
def bodyIminU : LaneBody := lane3 fun a b => plain (if a.ult b then a else b)
def bodyImaxS : LaneBody := lane3 fun a b => plain (if a.slt b then b else a)
def bodyImaxU : LaneBody := lane3 fun a b => plain (if a.ult b then b else a)
def bodyIabs : LaneBody := lane2 fun a => plain (if a.msb then -a else a)
def bodyPopc : LaneBody := lane2 fun a => plain (countOnes a)
def bodyClz : LaneBody := lane2 fun a => plain (leadingZeros a)
def bodyCtz : LaneBody := lane2 fun a => plain (trailingZeros a)
def bodyBrev : LaneBody := lane2 fun a => plain (reverseBits a)
def bodyIcmpEq : LaneBody := lane3 fun a b => plain (truth (a == b))
def bodyIcmpNe : LaneBody := lane3 fun a b => plain (truth (a != b))
def bodyIcmpLtS : LaneBody := lane3 fun a b => plain (truth (a.slt b))
def bodyIcmpLtU : LaneBody := lane3 fun a b => plain (truth (a.ult b))
def bodyIcmpGeS : LaneBody := lane3 fun a b => plain (truth (!a.slt b))
def bodyIcmpGeU : LaneBody := lane3 fun a b => plain (truth (!a.ult b))
def bodySel : LaneBody := lane4 fun d a b => plain (if d = 0 then b else a)
def bodyAnd : LaneBody := lane3 fun a b => plain (a &&& b)
def bodyAndn : LaneBody := lane3 fun a b => plain (a &&& ~~~b)
def bodyOr : LaneBody := lane3 fun a b => plain (a ||| b)
def bodyXor : LaneBody := lane3 fun a b => plain (a ^^^ b)
def bodyShl : LaneBody := lane3 fun a b => plain (shiftLeft a b)
def bodyShr : LaneBody := lane3 fun a b => plain (shiftRight a b)
def bodySar : LaneBody := lane3 fun a b => plain (shiftArith a b)
def bodyBfeS : LaneBody := lane3 fun a b => plain (extractS a b)
def bodyBfeU : LaneBody := lane3 fun a b => plain (extractU a b)
def bodyBfi : LaneBody := lane4 fun d a b => plain (insertField d a b)
def bodyIlv2 : LaneBody := lane3 fun a b => plain (interleave2 a b)
def bodyIlv3 : LaneBody := lane4 fun d a b => plain (interleave3 d a b)
def bodyDil2 : LaneBody := lane3 fun a b => plain (deinterleave 2 16 a b)
def bodyDil3 : LaneBody := lane3 fun a b => plain (deinterleave 3 10 a b)
def bodyRnd : LaneBody := lane3 fun a b => plain (rndWord a b)
def bodyIaddi (imm : BitVec 14) : LaneBody := laneImmD fun d => d + imm.signExtend 32
def bodyMovi (imm : BitVec 14) : LaneBody := laneImmSet (imm.signExtend 32)
def bodyLui (imm : BitVec 14) : LaneBody := laneImmD fun d => (d <<< 14) ||| imm.setWidth 32
def bodyOri (imm : BitVec 14) : LaneBody := laneImmD fun d => d ||| imm.setWidth 32

/-! ### Meanings -/

/-- `iadd` (R112). -/
def execIadd (o : LaneOp3) (s : State) : Host.Outcome State Fault Refusal := laneWord3 bodyIadd o s

/-- `isub` (R112). -/
def execIsub (o : LaneOp3) (s : State) : Host.Outcome State Fault Refusal := laneWord3 bodyIsub o s

/-- `imul` (R112). -/
def execImul (o : LaneOp3) (s : State) : Host.Outcome State Fault Refusal := laneWord3 bodyImul o s

/-- `imulh.s` (R112). -/
def execImulhS (o : LaneOp3) (s : State) : Host.Outcome State Fault Refusal := laneWord3 bodyImulhS o s

/-- `imulh.u` (R112). -/
def execImulhU (o : LaneOp3) (s : State) : Host.Outcome State Fault Refusal := laneWord3 bodyImulhU o s

/-- `imad` (R112). -/
def execImad (o : LaneOp3) (s : State) : Host.Outcome State Fault Refusal := laneWord3 bodyImad o s

/-- `imin.s` (R112). -/
def execIminS (o : LaneOp3) (s : State) : Host.Outcome State Fault Refusal := laneWord3 bodyIminS o s

/-- `imin.u` (R112). -/
def execIminU (o : LaneOp3) (s : State) : Host.Outcome State Fault Refusal := laneWord3 bodyIminU o s

/-- `imax.s` (R112). -/
def execImaxS (o : LaneOp3) (s : State) : Host.Outcome State Fault Refusal := laneWord3 bodyImaxS o s

/-- `imax.u` (R112). -/
def execImaxU (o : LaneOp3) (s : State) : Host.Outcome State Fault Refusal := laneWord3 bodyImaxU o s

/-- `icmp.eq` (R114). -/
def execIcmpEq (o : LaneOp3) (s : State) : Host.Outcome State Fault Refusal := laneWord3 bodyIcmpEq o s

/-- `icmp.ne` (R114). -/
def execIcmpNe (o : LaneOp3) (s : State) : Host.Outcome State Fault Refusal := laneWord3 bodyIcmpNe o s

/-- `icmp.lt.s` (R114). -/
def execIcmpLtS (o : LaneOp3) (s : State) : Host.Outcome State Fault Refusal := laneWord3 bodyIcmpLtS o s

/-- `icmp.lt.u` (R114). -/
def execIcmpLtU (o : LaneOp3) (s : State) : Host.Outcome State Fault Refusal := laneWord3 bodyIcmpLtU o s

/-- `icmp.ge.s` (R114). -/
def execIcmpGeS (o : LaneOp3) (s : State) : Host.Outcome State Fault Refusal := laneWord3 bodyIcmpGeS o s

/-- `icmp.ge.u` (R114). -/
def execIcmpGeU (o : LaneOp3) (s : State) : Host.Outcome State Fault Refusal := laneWord3 bodyIcmpGeU o s

/-- `sel` (R114). -/
def execSel (o : LaneOp3) (s : State) : Host.Outcome State Fault Refusal := laneWord3 bodySel o s

/-- `and` (R115). -/
def execAndL (o : LaneOp3) (s : State) : Host.Outcome State Fault Refusal := laneWord3 bodyAnd o s

/-- `andn` (R115). -/
def execAndn (o : LaneOp3) (s : State) : Host.Outcome State Fault Refusal := laneWord3 bodyAndn o s

/-- `or` (R115). -/
def execOrL (o : LaneOp3) (s : State) : Host.Outcome State Fault Refusal := laneWord3 bodyOr o s

/-- `xor` (R115). -/
def execXorL (o : LaneOp3) (s : State) : Host.Outcome State Fault Refusal := laneWord3 bodyXor o s

/-- `shl` (R115). -/
def execShl (o : LaneOp3) (s : State) : Host.Outcome State Fault Refusal := laneWord3 bodyShl o s

/-- `shr` (R115). -/
def execShr (o : LaneOp3) (s : State) : Host.Outcome State Fault Refusal := laneWord3 bodyShr o s

/-- `sar` (R115). -/
def execSar (o : LaneOp3) (s : State) : Host.Outcome State Fault Refusal := laneWord3 bodySar o s

/-- `bfe.s` (R116). -/
def execBfeS (o : LaneOp3) (s : State) : Host.Outcome State Fault Refusal := laneWord3 bodyBfeS o s

/-- `bfe.u` (R116). -/
def execBfeU (o : LaneOp3) (s : State) : Host.Outcome State Fault Refusal := laneWord3 bodyBfeU o s

/-- `bfi` (R116). -/
def execBfi (o : LaneOp3) (s : State) : Host.Outcome State Fault Refusal := laneWord3 bodyBfi o s

/-- `ilv.2` (R118). -/
def execIlv2 (o : LaneOp3) (s : State) : Host.Outcome State Fault Refusal := laneWord3 bodyIlv2 o s

/-- `ilv.3` (R118). -/
def execIlv3 (o : LaneOp3) (s : State) : Host.Outcome State Fault Refusal := laneWord3 bodyIlv3 o s

/-- `dil.2` (R118). -/
def execDil2 (o : LaneOp3) (s : State) : Host.Outcome State Fault Refusal := laneWord3 bodyDil2 o s

/-- `dil.3` (R118). -/
def execDil3 (o : LaneOp3) (s : State) : Host.Outcome State Fault Refusal := laneWord3 bodyDil3 o s

/-- `rnd` (R119). -/
def execRnd (o : LaneOp3) (s : State) : Host.Outcome State Fault Refusal := laneWord3 bodyRnd o s

/-- `iabs` (R112, R117). -/
def execIabs (o : LaneOp2) (s : State) : Host.Outcome State Fault Refusal := laneWord2 bodyIabs o s

/-- `popc` (R117). -/
def execPopc (o : LaneOp2) (s : State) : Host.Outcome State Fault Refusal := laneWord2 bodyPopc o s

/-- `clz` (R117). -/
def execClz (o : LaneOp2) (s : State) : Host.Outcome State Fault Refusal := laneWord2 bodyClz o s

/-- `ctz` (R117). -/
def execCtz (o : LaneOp2) (s : State) : Host.Outcome State Fault Refusal := laneWord2 bodyCtz o s

/-- `brev` (R117). -/
def execBrev (o : LaneOp2) (s : State) : Host.Outcome State Fault Refusal := laneWord2 bodyBrev o s

/-- `iaddi` (R113). -/
def execIaddi (o : LaneImm) (s : State) : Host.Outcome State Fault Refusal := laneWordI (bodyIaddi o.imm) o s

/-- `movi` (R113). -/
def execMovi (o : LaneImm) (s : State) : Host.Outcome State Fault Refusal := laneWordI (bodyMovi o.imm) o s

/-- `lui` (R113). -/
def execLui (o : LaneImm) (s : State) : Host.Outcome State Fault Refusal := laneWordI (bodyLui o.imm) o s

/-- `ori` (R113). -/
def execOri (o : LaneImm) (s : State) : Host.Outcome State Fault Refusal := laneWordI (bodyOri o.imm) o s

end Sys2Proof.Machine
end

