-- ==== Sys2Proof/Machine/Trans.lean ====
section
/-!
DEFINITION. The functions of 05 R123, correctly rounded. A root is decided exactly on integers. A
transcendental value is computed to 512 fraction bits; it is never a rounding boundary itself and lies
further from one than that computation errs (DEDUCED, log 23), so rounding the computed value, marked inexact,
rounds the exact one.
-/
namespace Sys2Proof.Machine

/-- The integer square root by bits: n + 1 bits of the root are decided, the highest first. -/
def rootBits (v : Nat) : Nat → Nat → Nat
  | 0, r => r
  | n + 1, r => rootBits v n (if (r + 2 ^ n) * (r + 2 ^ n) ≤ v then r + 2 ^ n else r)

def isqrt (v : Nat) : Nat := rootBits v (Nat.log2 v / 2 + 1) 0

/-- m · 2^e with an even exponent. -/
def evenExp (m : Nat) (e : Int) : Nat × Int := if e % 2 = 0 then (m, e) else (2 * m, e - 1)

/-- √(m · 2^e) as n / d · 2^u: exact where it is rational, else with a last bit that stands for the rest. -/
def sqrtMag (m : Nat) (e : Int) : Nat × Int :=
  let t := evenExp m e
  let r := isqrt t.1
  if r * r = t.1 then (r, t.2 / 2)
  else (2 * isqrt (t.1 * 2 ^ 400) + 1, t.2 / 2 - 201)

/-- Fraction bits of the transcendental computations. -/
def fxBits : Nat := 512

def fxOne : Nat := 2 ^ fxBits

def fxMul (a b : Nat) : Nat := a * b / fxOne

/-- Σ z^(2k+1) / (2k+1) for k < n with alternating or equal signs: atan or atanh. -/
def fxOdd (alternate : Bool) (z n : Nat) : Int :=
  let z2 := fxMul z z
  ((List.range n).foldl (fun (a : Int × Nat) k =>
    let t : Int := (a.2 / (2 * k + 1) : Nat)
    (if alternate && k % 2 == 1 then a.1 - t else a.1 + t, fxMul a.2 z2)) (0, z)).1

/-- ln y for y in [1, 2], as fixed point: y = m / 2^k. -/
def fxLn (m k : Nat) : Int := 2 * fxOdd false ((m - 2 ^ k) * fxOne / (m + 2 ^ k)) 170

def fxLn2 : Nat := (fxLn 2 0).toNat

/-- π by Machin's formula. -/
def fxPi : Nat := (16 * fxOdd true (fxOne / 5) 120 - 4 * fxOdd true (fxOne / 239) 40).toNat

/-- e^t for t in [0, 1). -/
def fxExp (t : Nat) : Nat :=
  ((List.range 110).foldl (fun (a : Nat × Nat) k => (a.1 + a.2, fxMul a.2 t / (k + 1))) (0, fxOne)).1

/-- sin t for t in [0, 2]. -/
def fxSin (t : Nat) : Nat :=
  let t2 := fxMul t t
  ((List.range 70).foldl (fun (a : Int × Nat) k =>
    (if k % 2 = 1 then a.1 - (a.2 : Int) else a.1 + (a.2 : Int), fxMul a.2 t2 / ((2 * k + 2) * (2 * k + 3)))) (0, t)).1.toNat

/-- An inexact fixed-point magnitude times 2^k, rounded. -/
def fxRound (neg : Bool) (v : Nat) (k : Int) : Nat × Word :=
  f32.round .rn 0 neg (2 * v + 1) 1 (k - ((fxBits + 1 : Nat) : Int))

/-- sin(π · n / d) for 0 ≤ n / d ≤ 1/2, with a sign. The zero keeps the sign `zneg`. -/
def sinTurn (neg zneg : Bool) (n d : Nat) : Nat × Word :=
  if n = 0 then (f32.signed zneg 0, 0)
  else if 2 * n = d then f32.round .rn 0 neg 1 1 0
  else fxRound neg (fxSin (fxPi * n / d)) 0

/-- A NaN operand's result. -/
def nanResult (sig : Bool) : Nat × Word := (f32.nanCode, flagIf sig flagNV)

def numRcp (x : FNum) : Nat × Word := f32.divNum (.fin false 1 0) x

def numSqrt : FNum → Nat × Word
  | .nan s => nanResult s
  | .inf n => if n then f32.invalid else (f32.infCode, 0)
  | .fin n m e =>
    if m = 0 then (f32.signed n 0, 0)
    else if n then f32.invalid
    else
      let r := sqrtMag m e
      f32.round .rn 0 false r.1 1 r.2

def numRsq : FNum → Nat × Word
  | .nan s => nanResult s
  | .inf n => if n then f32.invalid else (0, 0)
  | .fin n m e =>
    if m = 0 then (f32.signed n f32.infCode, 0)
    else if n then f32.invalid
    else
      let r := sqrtMag m e
      f32.round .rn 0 false 1 r.1 (-r.2)

def numEx2 : FNum → Nat × Word
  | .nan s => nanResult s
  | .inf n => if n then (0, 0) else (f32.infCode, 0)
  | .fin n m e =>
    let a := scaled m 1 e 0
    let q : Int := (a.1 / a.2 : Nat)
    let exactInt := a.1 % a.2 == 0
    let fl : Int := if n then (if exactInt then -q else -q - 1) else q
    let k := clamp fl (-1000) 1000
    if exactInt then f32.round .rn 0 false 1 1 k
    else
      let fr := if n then a.2 - a.1 % a.2 else a.1 % a.2
      fxRound false (fxExp (fxMul (fr * fxOne / a.2) fxLn2)) k

def numLg2 : FNum → Nat × Word
  | .nan s => nanResult s
  | .inf n => if n then f32.invalid else (f32.infCode, 0)
  | .fin n m e =>
    if m = 0 then (f32.signed true f32.infCode, 0)
    else if n then f32.invalid
    else
      let k := Nat.log2 m
      let w : Int := e + (k : Nat)
      if m = 2 ^ k then f32.deliver .rn 0 (intNum w)
      else
        let v : Int := w * (fxOne : Nat) + fxLn m k * (fxOne : Nat) / (fxLn2 : Nat)
        fxRound (decide (v < 0)) v.natAbs 0

def numSinPi : FNum → Nat × Word
  | .nan s => nanResult s
  | .inf _ => f32.invalid
  | .fin n m e =>
    let a := scaled m 1 e 0
    let r := a.1 % (2 * a.2)
    let upper := decide (a.2 ≤ r)
    let r1 := if upper then r - a.2 else r
    sinTurn (n != upper) n (min r1 (a.2 - r1)) a.2

def numCosPi : FNum → Nat × Word
  | .nan s => nanResult s
  | .inf _ => f32.invalid
  | .fin _ m e =>
    let a := scaled m 1 e 0
    let r := a.1 % (2 * a.2)
    let r1 := if a.2 < r then 2 * a.2 - r else r
    if 2 * r1 ≤ a.2 then sinTurn false false (a.2 - 2 * r1) (2 * a.2)
    else sinTurn true false (2 * r1 - a.2) (2 * a.2)

end Sys2Proof.Machine
end

