-- ==== Sys2Proof/Machine/LaneFloat.lean ====
section
/-!
DEFINITION. Binary32 and packed binary16 arithmetic, the float functions and the conversions of the lane
pipe (05 R120-R125, 04 R103, R104).
-/
namespace Sys2Proof.Machine

/-- The f32 value of a register. -/
def fval (w : Word) : FNum := f32.decode w.toNat

/-- A code and flags as a result. -/
def coded (r : Nat × Word) : Valued := (toWord r.1, r.2)

def fAdd (a b : Word) : Valued := coded (f32.addNum (fval a) (fval b))
def fSub (a b : Word) : Valued := coded (f32.addNum (fval a) (fval b).negate)
def fMul (a b : Word) : Valued := coded (f32.mulNum (fval a) (fval b))
def fFma (d a b : Word) : Valued := coded (f32.fmaNum (fval a) (fval b) (fval d))
def fDiv (a b : Word) : Valued := coded (f32.divNum (fval a) (fval b))
def fMin (a b : Word) : Valued := coded (f32.minMax false a.toNat b.toNat)
def fMax (a b : Word) : Valued := coded (f32.minMax true a.toNat b.toNat)

/-- The float compares (R122). `quiet` says that only a signalling NaN sets NV. -/
def fCompare (rel : FNum → FNum → Bool) (quiet : Bool) (a b : Word) : Valued :=
  let x := fval a
  let y := fval b
  (truth (rel x y), flagIf (if quiet then x.isSig || y.isSig else x.isNan || y.isNan) flagNV)

/-- The float unary functions on a register (R123). -/
def fUnary (f : FNum → Nat × Word) (a : Word) : Valued := coded (f (fval a))

/-- Element j of a packed pair, and a pair from two results (R83, R124). -/
def half (w : Word) (j : Nat) : Nat := wbits w (16 * j + 15) (16 * j)
def pairOf (f : Nat → Nat × Word) : Valued :=
  let r0 := f 0
  let r1 := f 1
  (toWord (r0.1 + 2 ^ 16 * r1.1), r0.2 ||| r1.2)

def hval (w : Word) (j : Nat) : FNum := f16.decode (half w j)

def hAdd (a b : Word) : Valued := pairOf fun j => f16.addNum (hval a j) (hval b j)
def hMul (a b : Word) : Valued := pairOf fun j => f16.mulNum (hval a j) (hval b j)
def hFma (d a b : Word) : Valued := pairOf fun j => f16.fmaNum (hval a j) (hval b j) (hval d j)
def hMinMax (isMax : Bool) (a b : Word) : Valued := pairOf fun j => f16.minMax isMax (half a j) (half b j)

/-! ### Conversions (04 R104) -/

/-- 0xF: a binary32 value rounded to an integral value. -/
def roundIntegral (m : RMode) : FNum → Nat × Word
  | .nan s => nanResult s
  | .inf n => (f32.signed n f32.infCode, 0)
  | .fin n k e =>
    let y := (toInteger m n k e).1
    (f32.signed n (f32.round .rn 0 false y.natAbs 1 0).1, 0)

/-- An integer clamped to a range, as the bits of its field. -/
def satField (x lo hi : Int) (n : Nat) : Valued :=
  let y := clamp x lo hi
  (toWord ((BitVec.ofInt 32 y).toNat % 2 ^ n), flagIf (y != x) flagSAT)

/-- `cvt`: conversion number, mode, the old d and the source. -/
def convert (conv : BitVec 4) (m : RMode) (d a : Word) : Valued :=
  let r : Word := if m = .rs then d else 0
  match conv.toNat with
  | 0x0 => coded (f32.deliver m r (intNum a.toInt))
  | 0x1 => coded (f32.deliver m r (intNum a.toNat))
  | 0x2 => let y := floatToInt m (-(2 ^ 31)) (2 ^ 31 - 1) (fval a); (intWord y.1, y.2)
  | 0x3 => let y := floatToInt m 0 (2 ^ 32 - 1) (fval a); (intWord y.1, y.2)
  | 0x4 => coded (f16.deliver m r (fval a))
  | 0x5 => coded (bf16.deliver m r (fval a))
  | 0x6 => coded (markRound 7 m r (fval a))
  | 0x7 => coded (markRound 3 m r (fval a))
  | 0x8 => coded (f32.deliver .rn 0 (f16.decode (half a 0)))
  | 0x9 => coded (f32.deliver .rn 0 (bf16.decode (half a 0)))
  | 0xA => coded (f32.deliver .rn 0 (markDecode 7 (wbits a 7 0)))
  | 0xB => coded (f32.deliver .rn 0 (markDecode 3 (wbits a 3 0)))
  | 0xC => satField a.toInt (-128) 127 8
  | 0xD => satField a.toInt (-8) 7 4
  | 0xE => coded (f32.deliver .rn 0 (intNum (sxNat a.toNat 8)))
  | _ => coded (roundIntegral m (fval a))

/-! ### Bodies -/

def bodyFadd : LaneBody := lane3 fAdd
def bodyFsub : LaneBody := lane3 fSub
def bodyFmul : LaneBody := lane3 fMul
def bodyFfma : LaneBody := lane4 fFma
def bodyFmin : LaneBody := lane3 fMin
def bodyFmax : LaneBody := lane3 fMax
def bodyFcmpEq : LaneBody := lane3 (fCompare FNum.eqv true)
def bodyFcmpLt : LaneBody := lane3 (fCompare FNum.lt false)
def bodyFcmpLe : LaneBody := lane3 (fCompare (fun x y => x.lt y || x.eqv y) false)
def bodyFcmpUn : LaneBody := lane3 (fCompare (fun x y => x.isNan || y.isNan) true)
def bodyFdiv : LaneBody := lane3 fDiv
def bodyFrcp : LaneBody := lane2 (fUnary numRcp)
def bodyFrsq : LaneBody := lane2 (fUnary numRsq)
def bodyFsqrt : LaneBody := lane2 (fUnary numSqrt)
def bodyFex2 : LaneBody := lane2 (fUnary numEx2)
def bodyFlg2 : LaneBody := lane2 (fUnary numLg2)
def bodyFsinpi : LaneBody := lane2 (fUnary numSinPi)
def bodyFcospi : LaneBody := lane2 (fUnary numCosPi)
def bodyHadd2 : LaneBody := lane3 hAdd
def bodyHmul2 : LaneBody := lane3 hMul
def bodyHfma2 : LaneBody := lane4 hFma
def bodyHmin2 : LaneBody := lane3 (hMinMax false)
def bodyHmax2 : LaneBody := lane3 (hMinMax true)

/-- A stochastic conversion reads its random word from d before it writes it (R108, R125). -/
def bodyCvt (conv : BitVec 4) (m : RMode) : LaneBody :=
  if m = .rs then lane2d (convert conv m) else lane2 (convert conv m 0)

/-! ### Meanings -/

/-- `fadd` (R120). -/
def execFadd (o : LaneOp3) (s : State) : Host.Outcome State Fault Refusal := laneWord3 bodyFadd o s

/-- `fsub` (R120). -/
def execFsub (o : LaneOp3) (s : State) : Host.Outcome State Fault Refusal := laneWord3 bodyFsub o s

/-- `fmul` (R120). -/
def execFmul (o : LaneOp3) (s : State) : Host.Outcome State Fault Refusal := laneWord3 bodyFmul o s

/-- `ffma` (R120). -/
def execFfma (o : LaneOp3) (s : State) : Host.Outcome State Fault Refusal := laneWord3 bodyFfma o s

/-- `fdiv` (R120). -/
def execFdiv (o : LaneOp3) (s : State) : Host.Outcome State Fault Refusal := laneWord3 bodyFdiv o s

/-- `fmin` (R121). -/
def execFmin (o : LaneOp3) (s : State) : Host.Outcome State Fault Refusal := laneWord3 bodyFmin o s

/-- `fmax` (R121). -/
def execFmax (o : LaneOp3) (s : State) : Host.Outcome State Fault Refusal := laneWord3 bodyFmax o s

/-- `fcmp.eq` (R122). -/
def execFcmpEq (o : LaneOp3) (s : State) : Host.Outcome State Fault Refusal := laneWord3 bodyFcmpEq o s

/-- `fcmp.lt` (R122). -/
def execFcmpLt (o : LaneOp3) (s : State) : Host.Outcome State Fault Refusal := laneWord3 bodyFcmpLt o s

/-- `fcmp.le` (R122). -/
def execFcmpLe (o : LaneOp3) (s : State) : Host.Outcome State Fault Refusal := laneWord3 bodyFcmpLe o s

/-- `fcmp.un` (R122). -/
def execFcmpUn (o : LaneOp3) (s : State) : Host.Outcome State Fault Refusal := laneWord3 bodyFcmpUn o s

/-- `hadd2` (R124). -/
def execHadd2 (o : LaneOp3) (s : State) : Host.Outcome State Fault Refusal := laneWord3 bodyHadd2 o s

/-- `hmul2` (R124). -/
def execHmul2 (o : LaneOp3) (s : State) : Host.Outcome State Fault Refusal := laneWord3 bodyHmul2 o s

/-- `hfma2` (R124). -/
def execHfma2 (o : LaneOp3) (s : State) : Host.Outcome State Fault Refusal := laneWord3 bodyHfma2 o s

/-- `hmin2` (R124). -/
def execHmin2 (o : LaneOp3) (s : State) : Host.Outcome State Fault Refusal := laneWord3 bodyHmin2 o s

/-- `hmax2` (R124). -/
def execHmax2 (o : LaneOp3) (s : State) : Host.Outcome State Fault Refusal := laneWord3 bodyHmax2 o s

/-- `frcp` (R123). -/
def execFrcp (o : LaneOp2) (s : State) : Host.Outcome State Fault Refusal := laneWord2 bodyFrcp o s

/-- `frsq` (R123). -/
def execFrsq (o : LaneOp2) (s : State) : Host.Outcome State Fault Refusal := laneWord2 bodyFrsq o s

/-- `fsqrt` (R123). -/
def execFsqrt (o : LaneOp2) (s : State) : Host.Outcome State Fault Refusal := laneWord2 bodyFsqrt o s

/-- `fex2` (R123). -/
def execFex2 (o : LaneOp2) (s : State) : Host.Outcome State Fault Refusal := laneWord2 bodyFex2 o s

/-- `flg2` (R123). -/
def execFlg2 (o : LaneOp2) (s : State) : Host.Outcome State Fault Refusal := laneWord2 bodyFlg2 o s

/-- `fsinpi` (R123). -/
def execFsinpi (o : LaneOp2) (s : State) : Host.Outcome State Fault Refusal := laneWord2 bodyFsinpi o s

/-- `fcospi` (R123). -/
def execFcospi (o : LaneOp2) (s : State) : Host.Outcome State Fault Refusal := laneWord2 bodyFcospi o s

/-- `cvt` (R125). -/
def execCvt (o : CvtOp) (s : State) : Host.Outcome State Fault Refusal :=
  stepWord true o.park (bodyCvt o.conv o.mode o.d.toNat o.a.toNat 0) s

end Sys2Proof.Machine
end

