-- ==== Sys2Proof/Machine/GlobalMem.lean ====
section
/-!
DEFINITION. Accesses of lanes to global memory: buffer records, placement, translation of the lines of an
access, typed pages, run-ahead, and the loads, stores, atomics and reductions (07 R151-R171).
-/
namespace Sys2Proof.Machine

/-! ### Buffer records (R151, R152) -/

/-- A buffer record. `u2` is the element size in half bytes. -/
structure BufRec where
  base : Nat
  raw : Bool
  tb : Bool
  ro : Bool
  swz : Nat
  esz : Nat
  u2 : Nat
  stride : Nat
  ext : Nat
  deriving DecidableEq, Repr

/-- The record of four words, and whether it is valid apart from what the instruction asks of it (R152). -/
def bufRec (ws : List Word) : BufRec × Bool :=
  let w0 := nth ws 0 0
  let w1 := nth ws 1 0
  let w2 := nth ws 2 0
  let esz := wbits w1 23 20
  let u2 := if esz = 5 then 1 else 2 ^ (esz + 1)
  let swz := wbits w1 27 24
  let stride := wbits w2 23 0
  let base := w0.toNat + wbits w1 19 0 * 2 ^ 32
  let ok := decide (swz ≤ 3) && decide (esz ≤ 5) && wbits w2 31 24 == 0
    && (swz != 1 || stride == 0) && (swz != 3 || decide (stride ≤ 1024))
    && (esz == 5 || 2 * base % u2 == 0)
    && (swz != 0 || (2 * stride % u2 == 0 && (esz != 5 || stride == 0)))
    && (swz != 2 || (stride != 0 && 2 * stride % (64 * u2) == 0))
  ({ base := base, raw := wbit w1 31, tb := wbit w1 29, ro := wbit w1 28, swz := swz, esz := esz, u2 := u2
     stride := stride, ext := (nth ws 3 0).toNat }, ok)

/-- The record of an access: registers b to b + 3 of the lowest lane. -/
def Group.record (x : Group) (b : Nat) : BufRec × Bool := bufRec ((List.range 4).map fun j => x.uni (b + j))

/-! ### Placement (R153) -/

/-- Morton numbers of two and three coordinates. -/
def morton2 (x y : Nat) : Nat := (interleave2 (toWord x) (toWord y)).toNat
def morton3 (x y z : Nat) : Nat := (interleave3 (toWord z) (toWord x) (toWord y)).toNat

/-- Whether an index lies in the extent, and the offset of its element in half bytes. -/
def BufRec.place (r : BufRec) (v : Word) : Bool × Nat :=
  let x := wbits v 15 0
  let y := wbits v 31 16
  let ex := r.ext % 2 ^ 16
  let ey := r.ext / 2 ^ 16
  match r.swz with
  | 0 => (decide (v.toNat < r.ext), v.toNat * (if r.stride = 0 then r.u2 else 2 * r.stride))
  | 1 => (decide (x < ex) && decide (y < ey), morton2 x y * r.u2)
  | 2 => (decide (x < ex) && decide (y < ey), y / 8 * (2 * r.stride) + (x / 8 * 64 + y % 8 * 8 + x % 8) * r.u2)
  | _ =>
    let x := wbits v 9 0
    let y := wbits v 19 10
    let z := wbits v 29 20
    (wbits v 31 30 == 0 && decide (x < ex) && decide (y < ey) && decide (z < r.stride), morton3 x y z * r.u2)

/-- An element of a lane's access: its virtual address and whether it is the high half of the byte. -/
structure Elem where
  lane : Nat
  j : Nat
  va : Nat
  hi : Bool
  deriving DecidableEq, Repr

def Elem.line (e : Elem) : Nat := e.va / 128

/-- The elements of a lane. -/
def BufRec.elems (r : BufRec) (lane : Nat) (v : Word) (n : Nat) : List Elem :=
  (List.range n).map fun j =>
    let o := (r.place v).2 + j * r.u2
    { lane := lane, j := j, va := (r.base + o / 2) % 2 ^ 52, hi := r.u2 == 1 && o % 2 == 1 }

/-! ### Typed pages (R159-R161) -/

/-- The element width in bits, and the ESZ of a typed access (R159). -/
def fmtWidth (fmt : Nat) : Nat := match fmt with
  | 1 | 3 => 8
  | 2 | 4 => 4
  | _ => 16
def fmtEsz (fmt : Nat) : Nat := match fmt with
  | 1 | 3 => 0
  | 2 | 4 => 5
  | _ => 1

def fmtMarker (fmt : Nat) : Bool := fmt == 1 || fmt == 2

/-- The block number of element n (R160). -/
def blockNumber (blk n : Nat) : Nat :=
  let wh := match blk with
    | 0 => (32, 1)
    | 1 => (16, 2)
    | 2 => (8, 4)
    | 3 => (4, 8)
    | _ => (1, 32)
  n / 32 / wh.2 * (32 / wh.1) + n % 32 / wh.1

/-- The bytes of the inline scale area of a page. -/
def Page.scaleBytes (p : Page) : Nat := p.size / (4 * fmtWidth p.fmt)

/-- The virtual address of the scale of the element at a virtual address of a marker page (R160). -/
def Page.scaleVa (p : Page) (va : Nat) (hi : Bool) : Nat :=
  let n := if fmtWidth p.fmt = 8 then va - p.vbase else 2 * (va - p.vbase) + if hi then 1 else 0
  let b := blockNumber p.blk n
  if p.scl then (p.vbase + p.size + b) % 2 ^ 52 else p.vbase + p.size - p.scaleBytes + b

/-- An element that may be accessed: its page, and its scale's page for a typed access of a marker page. -/
structure Loc where
  e : Elem
  page : Page
  typed : Bool
  scale : Option Page
  deriving DecidableEq, Repr

def Loc.key (l : Loc) : Nat := (l.page.at l.e.va).key

/-- The location of the scale that an element takes. -/
def Loc.scaleKeys (l : Loc) : List Nat :=
  match l.scale with
  | some p => [(p.at (l.page.scaleVa l.e.va l.e.hi)).key]
  | none => []

/-- The locations that a load of an element of `u2` half bytes reads. -/
def Loc.keys (u2 : Nat) (l : Loc) : List Nat := (List.range ((u2 + 1) / 2)).map (l.key + ·) ++ l.scaleKeys

/-- Whether an access of a page is in a forbidden format (R161): the widths, and the areas. -/
def formatFault (p : Page) (r : BufRec) (atomic : Bool) (n va : Nat) : Bool :=
  let typed := p.fmt != 0 && !r.raw
  let off := va - p.vbase
  (if typed then r.esz != fmtEsz p.fmt || atomic
   else (r.esz == 5 && fmtEsz p.fmt != 5) || (decide (1 < n) && decide (r.u2 ≤ 8)))
    || (typed && fmtMarker p.fmt && !p.scl && decide (p.size ≤ off + p.scaleBytes))
    || (p.cmp != 0 && decide (p.size ≤ off + p.size / 256))

/-- What the checks of one element find: its location, or a cause with the address of the page at fault. -/
inductive Found where
  | loc (l : Loc)
  | fault (c : Cause) (lane va page : Nat)
  deriving DecidableEq, Repr

/-- A fault of a translation of an element, at the address of a page. -/
def Elem.faultOf (e : Elem) (page : Nat) : Xl → Found
  | .migrate => .fault .migrate e.lane e.va page
  | .protect => .fault .protect e.lane e.va page
  | _ => .fault .xlate e.lane e.va page

/-- An address of a page lies in the descriptor area of its compression (R162). -/
def Page.inDescriptors (p : Page) (va : Nat) : Bool := p.cmp != 0 && decide (p.size ≤ va - p.vbase + p.size / 256)

/-- The scale of an element, in the page itself, or in a companion page that must be there and untyped, outside a
descriptor area (R160, R161). Where a smaller page than the scales need follows, byte b is the one at its virtual address,
in whichever page holds it (DESIGN CHOICE, log 43). -/
def findScale (s : State) (ls : Lines) (root : Nat) (p : Page) (e : Elem) : Found × Lines × State :=
  let sva := p.scaleVa e.va e.hi
  if p.scl then
    match s.translateLine ls root sva .read with
    | (.page q, t) =>
      if q.fmt = 0 && !q.inDescriptors sva then (.loc { e := e, page := p, typed := true, scale := some q }, t)
      else (.fault .format e.lane e.va sva, t)
    | (x, t) => (e.faultOf sva x, t)
  else (.loc { e := e, page := p, typed := true, scale := some (p.at sva) }, ls, s)

/-- Step 6 of R154 for one element. -/
def findElem (s : State) (ls : Lines) (root : Nat) (k : AccessKind) (r : BufRec) (atomic : Bool) (n : Nat) (e : Elem) :
    Found × Lines × State :=
  match s.translateLine ls root e.va k with
  | (.page p, t) =>
    if formatFault p r atomic n e.va then (.fault .format e.lane e.va e.va, t)
    else if p.fmt != 0 && !r.raw && fmtMarker p.fmt then findScale t.2 t.1 root p e
    else (.loc { e := e, page := p, typed := p.fmt != 0 && !r.raw, scale := none }, t)
  | (x, t) => (e.faultOf e.va x, t)

/-- Step 6 of R154, each 128-byte line translated once. -/
def findAll (root : Nat) (k : AccessKind) (r : BufRec) (atomic : Bool) (n : Nat) :
    List Elem → Lines → State → List Found × State
  | [], _, s => ([], s)
  | e :: t, ls, s =>
    let f := findElem s ls root k r atomic n e
    let l := findAll root k r atomic n t f.2.1 f.2.2
    (f.1 :: l.1, l.2)

/-- The elements by line, the lines in ascending order of the lowest lane that touches each (R154). -/
def byLine (es : List Elem) : List Elem :=
  let lines := es.foldl (fun (l : List Nat) e => if l.contains e.line then l else l ++ [e.line]) []
  lines.flatMap fun n => es.filter fun e => e.line == n

/-! ### Translation faults and run-ahead (R164, R165) -/

/-- The pages of an access that are not present or are migrating. -/
def faultPages (write : Bool) (fs : List Found) : List BatchPage :=
  fs.filterMap fun f => match f with
    | .fault c _ _ page => if c.serviced then some (batchPage page (c == .migrate) false write) else none
    | .loc _ => none

def Found.cause : Found → Option Cause
  | .fault c _ _ _ => some c
  | .loc _ => none

/-- Whether some element meets a fault that the front end does not service. -/
def otherFault (fs : List Found) : Bool := fs.any fun f => match f.cause with
  | some c => !c.serviced
  | none => false

/-- A run-ahead that begins at the current instruction of a group, with F's record (R164 step 1). -/
def newRunAhead (x : Group) (f : FaultRec) : RunAhead where
  regs := x.regs
  pend := x.pend
  bad := x.bad
  fibres := x.fibres
  current := x.current
  waiting := x.waiting
  tags := x.tags
  fault := f
  batch := []
  count := 0
  stop := false

/-- The group with the pages of an access in its batch: a run-ahead begins where there is none. One whose access meets
another fault on a further line begins too, and stops at once (DESIGN CHOICE, log 43). -/
def Group.withPages (x : Group) (f : FaultRec) (fs : List Found) (write : Bool) : Group :=
  let r := match x.runAhead with
    | some r => r
    | none => newRunAhead x f
  let r1 := (faultPages write fs).foldl RunAhead.enter r
  { x with runAhead := some { r1 with stop := r1.stop || otherFault fs } }

/-- How step 6 of R154 ends: without a fault, with one that is raised, or with pages that a run-ahead takes. -/
inductive Step6 where
  | go
  | trap (t : Trap)
  | absent (f : FaultRec)
  deriving DecidableEq, Repr

/-- The first line that faults decides (R154). -/
def step6 (s : State) (x : Group) (fs : List Found) : Step6 :=
  match fs.find? fun f => f.cause.isSome with
  | some (.fault c lane va page) =>
    if c.serviced then
      let a := page - page % 128
      .absent (faultRec s x { cause := c, lane := some lane, ops := [toWord a, toWord (a / 2 ^ 32)] })
    else .trap { cause := c, lane := some lane, ops := [s.word, toWord va, toWord (va / 2 ^ 32)] }
  | _ => .go

/-- The group and the machine with which a load goes on: in a run-ahead where a page is not there or migrates, whose
checkpoint is written as it begins (R164). -/
def State.loadPages (s : State) (x : Group) (fs : List Found) (st : Step6) : Group × State :=
  match st with
  | .absent f => (x.withPages f fs false, s.checkpoint x)
  | _ => (x, s)

/-! ### Element values -/

/-- What a load of an element returns: its words, the tags, and the location that it read with an error. -/
structure Got where
  ws : List Word
  tags : List Tag
  bad : Option Nat
  deriving DecidableEq, Repr

/-- The first of n locations that reads with an error. -/
def State.badKey (s : State) (core : Nat) (g : Option Nat) (c : Option Comp) (key n : Nat) : Option Nat :=
  ((List.range n).map (key + ·)).find? fun k => (s.loadByte core g c k).2.2

/-- The scale of an element, as the group reads it, the tags, and its location where that reads with an error. -/
def State.scaleOf (s : State) (core : Nat) (g : Option Nat) (l : Loc) : Nat × List Tag × Option Nat :=
  match l.scale with
  | none => (127, [], none)
  | some p =>
    let q := p.at (l.page.scaleVa l.e.va l.e.hi)
    let b := s.loadByte core g q.comp q.key
    (b.1.toNat, b.2.1, if b.2.2 then some q.key else none)

/-- The value of a typed code (R161). -/
def typedValue (fmt code scale : Nat) : Word :=
  let num := match fmt with
    | 1 => markScaled 7 code scale
    | 2 => markScaled 3 code scale
    | 3 => intNum (sxNat code 8)
    | 4 => intNum (sxNat code 4)
    | 5 => f16.decode code
    | _ => bf16.decode code
  toWord (f32.deliver .rn 0 num).1

/-- Loads one element (R161): `u2` half bytes, or a typed code. -/
def State.loadElem (s : State) (core : Nat) (g : Option Nat) (u2 : Nat) (l : Loc) : Got :=
  let n := (u2 + 1) / 2
  let b := s.loadBytes core g l.page.comp l.key n
  let bad := if b.2.2 then s.badKey core g l.page.comp l.key n else none
  let v := ofBytes b.1
  let code := if u2 = 1 then (if l.e.hi then v / 16 else v % 16) else v
  if l.typed then
    let sc := s.scaleOf core g l
    { ws := [typedValue l.page.fmt code sc.1], tags := b.2.1 ++ sc.2.1, bad := bad <|> sc.2.2 }
  else
    { ws := (List.range ((n + 3) / 4)).map fun j => toWord (code >>> (32 * j)), tags := b.2.1, bad := bad }

/-- The code of a value stored to a typed element, and the flags (R161). -/
def typedCode (fmt scale : Nat) (v : Word) : Nat × Word :=
  let toInt := fun (lo hi : Int) (n : Nat) =>
    let y := floatToInt .rn (-(2 ^ 31)) (2 ^ 31 - 1) (fval v)
    let z := clamp y.1 lo hi
    ((z % ((2 ^ n : Nat) : Int)).toNat, y.2 ||| flagIf (z != y.1) flagSAT)
  match fmt with
  | 1 => markEncode 7 scale (fval v)
  | 2 => markEncode 3 scale (fval v)
  | 3 => toInt (-128) 127 8
  | 4 => toInt (-8) 7 4
  | 5 => f16.deliver .rn 0 (fval v)
  | _ => bf16.deliver .rn 0 (fval v)

/-- Stores one element: the low `u2` half bytes of a number. -/
def State.storeCode (s : State) (core g u2 : Nat) (l : Loc) (code : Nat) : State :=
  if u2 = 1 then
    s.storeByte core g l.page.comp l.key (BitVec.ofNat 8 (code % 16 * 17)) (!l.e.hi) l.e.hi false
  else s.storeBytes core g l.page.comp l.key (decide (16 ≤ u2)) (bytesOf (u2 / 2) code)

/-! ### The common course of an access (R154) -/

/-- Lanes that take part: active, and not helpers for a store, atomic or reduction (R168). -/
def Group.participants (x : Group) (helpers : Bool) : List Nat :=
  (lanesOf x.active).filter fun l => helpers || !x.isHelper l

/-- What an access asks of its record (R152): registers per lane of a load or store, or the operation's width
in bytes. -/
inductive Ask where
  | regs (n : Nat)
  | width (u : Nat)
  deriving DecidableEq, Repr

def Ask.ok (a : Ask) (r : BufRec) : Bool :=
  match a with
  | .regs n => decide (r.u2 ≤ 8) || n * 8 == r.u2
  | .width u => r.u2 == 2 * u

/-- Elements per lane: a typed access of n registers has n; eight and sixteen bytes are one element. -/
def Ask.count (a : Ask) (r : BufRec) : Nat :=
  match a with
  | .regs n => if r.u2 ≤ 8 then n else 1
  | .width _ => 1

/-- Steps 2 to 6 of R154, then `k` with what was found for each element in the extent. The PROTECT of a read-only record
comes before any element has an address: it names the record's own base (DESIGN CHOICE, log 43). -/
def access (a b : Nat) (ask : Ask) (write : Bool)
    (k : State → Nat → Group → BufRec → List Found → Step6 → Done) : Body := fun s g x =>
  let r := x.record b
  if !r.2 || !ask.ok r.1 then illegal s
  else if write && r.1.ro then .trap { cause := .protect, ops := [s.word, toWord r.1.base, toWord (r.1.base / 2 ^ 32)] }
  else
    let ls := x.participants (!write)
    match ls.find? fun l => r.1.tb && !(r.1.place (x.reg l a)).1 with
    | some l => .trap { cause := .bounds, lane := some l, ops := [s.word, x.reg l a] }
    | none =>
      let inside := ls.filter fun l => (r.1.place (x.reg l a)).1
      let n := ask.count r.1
      let es := inside.flatMap fun l => r.1.elems l (x.reg l a) n
      let atomic := match ask with
        | .width _ => true
        | .regs _ => false
      let f := findAll (s.rootOf x) (if write then .write else .read) r.1 atomic n (byLine es) [] s
      match step6 s x f.1 with
      | .trap t => .trapAt f.2 t
      | st => k f.2 g x r.1 f.1 st

/-- The locations found for a lane, in element order: they were found line by line. -/
def locsOf (fs : List Found) (lane : Nat) : List Loc :=
  (List.range 8).flatMap fun j => fs.filterMap fun f => match f with
    | .loc l => if l.e.lane == lane && l.e.j == j then some l else none
    | .fault _ _ _ _ => none

/-- Whether a lane touches a faulting line. -/
def laneFaults (fs : List Found) (lane : Nat) : Bool :=
  fs.any fun f => match f with
    | .fault _ l _ _ => l == lane
    | .loc _ => false

def allLocs (fs : List Found) : List Loc :=
  fs.filterMap fun f => match f with
    | .loc l => some l
    | .fault _ _ _ _ => none

/-! ### Loads (R167) -/

/-- The result of a lane's load, from a bank where one is named: on its way, or held with an ECC fault where it read an
error (13 R296). A speculative one that read an error ends the run-ahead. -/
def State.loadResult (s : State) (g : Nat) (x : Group) (lane d : Nat) (ws : List Word) (bad : Bool)
    (src : Nat) (ops : List Word) (bank : Option Nat := none) : State :=
  let r : Result := { group := g, lane := some lane, reg := d, vals := ws, spec := x.runAhead.isSome, bank := bank }
  if !bad then { s with results := s.results ++ [r] }
  else if x.runAhead.isSome then s.modGroup g Group.stopRunAhead
  else
    s.holdFault (s.origin g x) (asyncRec s .ecc (x.first + lane) src (s.issuePc x) (ops ++ [s.word]) 0)
      (some { r with vals := ws.map fun _ => poison }) none

/-- The first location that the elements of a lane's load read with an error. -/
def badOf (l : List Got) : Option Nat := l.findSome? Got.bad

/-- The physical address of an uncorrectable word, as sr.fops0 and sr.fops1 hold it (13 R296). -/
def paWords (bad : Option Nat) : List Word :=
  let pa := bad.getD 0 % 2 ^ 56
  [toWord pa, toWord (pa / 2 ^ 32)]

/-- One lane of a load: `x` is the group that the access began with. -/
def loadLane (g : Nat) (x : Group) (r : BufRec) (fs : List Found) (d a n : Nat) (s : State) (lane : Nat) : State :=
  if laneFaults fs lane then s.modGroup g fun y => y.setRegs lane d (List.replicate n poison)
  else
    let s0 := s.modGroup g fun y => y.setPend lane d n .load
    if !(r.place (x.reg lane a)).1 then s0.addResult g x (some lane) d (List.replicate n 0)
    else
      let ls := locsOf fs lane
      let got := ls.map fun l => s0.loadElem x.core (some g) r.u2 l
      let s1 := s0.modGroup g fun y => y.addTags (got.flatMap Got.tags)
      s1.loadResult g x lane d ((got.flatMap Got.ws).take n) (badOf got).isSome 8 (paWords (badOf got))

/-- `ldb` (R167). -/
def bodyLdb (n : Nat) : LaneBody := fun d a b =>
  aligned [b] <| checked { laneR := [a], laneW := (List.range n).map (d + ·), uniR := (List.range 4).map (b + ·) }
    (access a b (.regs n) false fun s g x r fs st =>
      let (y, s0) := s.loadPages x fs st
      let s1 := (s0.setGroup g y).settleOwn g ((allLocs fs).flatMap (Loc.keys r.u2))
      .ok ((lanesOf x.active).foldl (loadLane g y r fs d a n) s1))

/-! ### Stores (R167) -/

/-- One lane of a store. A typed store encodes with its scale byte as it is stored, and raises nothing where that carries
an uncorrectable error (DESIGN CHOICE, log 43). -/
def storeLane (g : Nat) (x : Group) (r : BufRec) (fs : List Found) (d n : Nat) (s : State) (lane : Nat) : State :=
  let one := fun (s : State) (l : Loc) =>
    if l.typed then
      let sc := s.scaleOf x.core (some g) l
      let c := typedCode l.page.fmt sc.1 (x.reg lane (d + l.e.j))
      (s.storeCode x.core g r.u2 l c.1).modGroup g fun y => y.orFlags lane c.2
    else s.storeCode x.core g r.u2 l (ofBytes (bytesOfWords (x.regList lane d n)))
  (locsOf fs lane).foldl one s

/-- `stb` (R167). A speculative store is discarded after its translation (R164). -/
def bodyStb (n : Nat) : LaneBody := fun d a b =>
  aligned [b] <| checked { laneR := a :: (List.range n).map (d + ·), uniR := (List.range 4).map (b + ·) }
    (access a b (.regs n) true fun s g x r fs st =>
      match st with
      | .absent f => okGroup (s.checkpoint x) g (x.withPages f fs true)
      | _ =>
        if x.runAhead.isSome then .ok s
        else
          let s1 := s.settleOwn g ((allLocs fs).flatMap Loc.scaleKeys)
          .ok ((x.participants false).foldl (storeLane g x r fs d n) s1))

/-! ### Atomics and reductions (R168-R171) -/

/-- The operand of a lane, and the new value of `cas`. -/
def atomLane (x : Group) (wide : Bool) (d : Nat) (l : Loc) : AtomLane :=
  let w := fun i => (x.reg l.e.lane (d + i)).toNat
  let v := if wide then w 0 + w 1 * 2 ^ 32 else w 0
  let new := if wide then w 2 + w 3 * 2 ^ 32 else w 1
  { lane := l.e.lane, key := l.key, comp := l.page.comp, v := BitVec.ofNat 64 v, new := BitVec.ofNat 64 new }

/-- The lanes of an instruction that touch one physical line become one operation (R170). -/
def sliceOpsOf (s : State) (g : Nat) (x : Group) (op : AtomOp) (wide : Bool) (d : Nat) (returns : Bool)
    (ls : List Loc) : List SliceOp :=
  let lines := ls.foldl (fun (t : List Nat) l => insertNat t (l.key / 128)) []
  lines.map fun n =>
    let mine := (lanesOf x.active).flatMap fun i => ls.filter fun l => l.e.lane == i && l.key / 128 == n
    { org := s.origin g x, op := op, wide := wide, dest := if returns then some d else none
      lanes := mine.map (atomLane x wide d), pc := s.issuePc x, word := s.word, tag := Tab.get s.ord.curTags x.core
      seq := s.ord.seq, pass := none }

/-- Registers that an atomic reads: the operand, and for `cas` the new value (R169). -/
def atomReads (op : AtomOp) (wide : Bool) (d : Nat) : List Nat :=
  let k := if wide then 2 else 1
  (List.range (if op = .cas then 2 * k else k)).map (d + ·)

/-- The body of `atb`, `atb64` and `redb`. -/
def bodyAtomic (op : AtomOp) (wide returns : Bool) : LaneBody := fun d a b =>
  let k := if wide then 2 else 1
  let dest := if returns then (List.range k).map (d + ·) else []
  aligned [b] <| checked { laneR := a :: atomReads op wide d, laneW := dest, uniR := (List.range 4).map (b + ·) }
    (access a b (.width (4 * k)) true fun s g x _ fs st =>
      match st with
      | .absent f =>
        let y := x.withPages f fs true
        okGroup (s.checkpoint x) g ((if returns then lanesOf x.active else []).foldl
          (fun z l => z.setRegs l d (List.replicate k (if x.isHelper l then 0 else poison))) y)
      | _ =>
        let ls := allLocs fs
        let s1 := { s with sliceOps := s.sliceOps ++ sliceOpsOf s g x op wide d returns ls }.bumpSeq
        if returns then
          let idle := (lanesOf x.active).filter fun l => !(ls.any fun q => q.e.lane == l)
          let s2 := s1.modGroup g fun y => (lanesOf x.active).foldl (fun y l => y.setPend l d k .atomic) y
          .ok (idle.foldl (fun s l => s.addResult g x (some l) d (List.replicate k 0)) s2)
        else .ok s1)

/-- Whether a size selector names one, two or four registers. -/
def sizeRegs : Size → Nat
  | .one => 1
  | .two => 2
  | .four => 4

/-! ### Meanings -/

/-- `ldb` (R167). -/
def execLdb (o : MemOp) (s : State) : Host.Outcome State Fault Refusal :=
  stepWord true o.park (bodyLdb (sizeRegs o.size) o.d.toNat o.a.toNat o.b.toNat) s

/-- `stb` (R167). -/
def execStb (o : MemOp) (s : State) : Host.Outcome State Fault Refusal :=
  stepWord true o.park (bodyStb (sizeRegs o.size) o.d.toNat o.a.toNat o.b.toNat) s

/-- An atomic or reduction, which run-ahead does not execute. -/
def atomicWord (op : AtomOp) (wide returns : Bool) (o : Regs3) (s : State) : Host.Outcome State Fault Refusal :=
  stepWord false o.park (bodyAtomic op wide returns o.d.toNat o.a.toNat o.b.toNat) s

/-- `atb.add` (R169). -/
def execAtbAdd (o : Regs3) (s : State) : Host.Outcome State Fault Refusal := atomicWord .add false true o s

/-- `atb.exch` (R169). -/
def execAtbExch (o : Regs3) (s : State) : Host.Outcome State Fault Refusal := atomicWord .exch false true o s

/-- `atb.cas` (R169). -/
def execAtbCas (o : Regs3) (s : State) : Host.Outcome State Fault Refusal := atomicWord .cas false true o s

/-- `atb.and` (R169). -/
def execAtbAnd (o : Regs3) (s : State) : Host.Outcome State Fault Refusal := atomicWord .and false true o s

/-- `atb.or` (R169). -/
def execAtbOr (o : Regs3) (s : State) : Host.Outcome State Fault Refusal := atomicWord .or false true o s

/-- `atb.xor` (R169). -/
def execAtbXor (o : Regs3) (s : State) : Host.Outcome State Fault Refusal := atomicWord .xor false true o s

/-- `atb.min.u` (R169). -/
def execAtbMinU (o : Regs3) (s : State) : Host.Outcome State Fault Refusal := atomicWord .minU false true o s

/-- `atb.max.u` (R169). -/
def execAtbMaxU (o : Regs3) (s : State) : Host.Outcome State Fault Refusal := atomicWord .maxU false true o s

/-- `atb.min.s` (R169). -/
def execAtbMinS (o : Regs3) (s : State) : Host.Outcome State Fault Refusal := atomicWord .minS false true o s

/-- `atb.max.s` (R169). -/
def execAtbMaxS (o : Regs3) (s : State) : Host.Outcome State Fault Refusal := atomicWord .maxS false true o s

/-- `atb64.add` (R169). -/
def execAtb64Add (o : Regs3) (s : State) : Host.Outcome State Fault Refusal := atomicWord .add true true o s

/-- `atb64.exch` (R169). -/
def execAtb64Exch (o : Regs3) (s : State) : Host.Outcome State Fault Refusal := atomicWord .exch true true o s

/-- `atb64.cas` (R169). -/
def execAtb64Cas (o : Regs3) (s : State) : Host.Outcome State Fault Refusal := atomicWord .cas true true o s

/-- `atb64.min.u` (R169). -/
def execAtb64MinU (o : Regs3) (s : State) : Host.Outcome State Fault Refusal := atomicWord .minU true true o s

/-- `atb64.max.u` (R169). -/
def execAtb64MaxU (o : Regs3) (s : State) : Host.Outcome State Fault Refusal := atomicWord .maxU true true o s

/-- `redb.add` (R169). -/
def execRedbAdd (o : Regs3) (s : State) : Host.Outcome State Fault Refusal := atomicWord .add false false o s

/-- `redb.fadd` (R169). -/
def execRedbFadd (o : Regs3) (s : State) : Host.Outcome State Fault Refusal := atomicWord .fadd false false o s

/-- `redb.and` (R169). -/
def execRedbAnd (o : Regs3) (s : State) : Host.Outcome State Fault Refusal := atomicWord .and false false o s

/-- `redb.or` (R169). -/
def execRedbOr (o : Regs3) (s : State) : Host.Outcome State Fault Refusal := atomicWord .or false false o s

/-- `redb.xor` (R169). -/
def execRedbXor (o : Regs3) (s : State) : Host.Outcome State Fault Refusal := atomicWord .xor false false o s

/-- `redb.min.u` (R169). -/
def execRedbMinU (o : Regs3) (s : State) : Host.Outcome State Fault Refusal := atomicWord .minU false false o s

/-- `redb.max.u` (R169). -/
def execRedbMaxU (o : Regs3) (s : State) : Host.Outcome State Fault Refusal := atomicWord .maxU false false o s

end Sys2Proof.Machine
end

