-- ==== Sys2Proof/Machine/BankMem.lean ====
section
/-!
DEFINITION. Lane accesses to banks (08 R180-R184): loads, stores and `ats`.
-/
namespace Sys2Proof.Machine

/-- The address of a lane: (V[a] + U[b]) mod 2^32. -/
def Group.bankAddr (x : Group) (l a b : Nat) : Word := x.reg l a + x.uni b

/-- The checks of R180 over the participating lanes. -/
def bankFault (s : State) (x : Group) (b : Block) (sp : Space) (align width ra rb : Nat) (ls : List Nat) : Option Trap :=
  let at_ := fun l => x.bankAddr l ra rb
  let trap := fun (c : Cause) (l : Nat) => { cause := c, lane := some l, ops := [s.word, at_ l] : Trap }
  match ls.find? fun l => b.outOfBank sp align width (at_ l) with
  | some l => some (trap .bankbound l)
  | none => (ls.find? fun l => (b.keyAt sp (at_ l)).isNone).map (trap .detached)

/-- The common course of a lane access to a bank: `k` answers what the access does, with each participating
lane's key. -/
def bankAccess (sp : Space) (align width : Nat) (helpers : Bool) (a b : Nat)
    (k : State → Nat → Group → Block → List (Nat × Nat) → Done) : Body := fun s g x =>
  match s.blockOf x with
  | none => .ok s
  | some blk =>
    let ls := x.participants helpers
    match bankFault s x blk sp align width a b ls with
    | some t => .trap t
    | none => k s g x blk (ls.filterMap fun l => (blk.keyAt sp (x.bankAddr l a b)).map fun key => (l, key))

/-- The banks that a list of lane keys names, each once. -/
def banksOf (ks : List (Nat × Nat)) : List Nat := ks.foldl (fun l p => insertNat l (keyBank p.2)) []

/-- Units that the group has sent to the banks it now accesses are applied first. -/
def State.settleKeys (s : State) (g core : Nat) (ks : List (Nat × Nat)) : State :=
  (banksOf ks).foldl (fun s k => s.settleBank g core k) s

/-- A bank load of n registers (R181, R182). -/
def bodyBankLoad (sp : Space) (n : Nat) : LaneBody := fun d a b =>
  checked { laneR := [a], laneW := (List.range n).map (d + ·), uniR := [b] }
    (bankAccess sp (4 * n) (4 * n) true a b fun s g x _ ks =>
      let one := fun (s : State) (p : Nat × Nat) =>
        let v := s.loadBytes x.core (some g) none p.2 (4 * n)
        let s1 := s.modGroup g fun y => (y.setPend p.1 d n .load).addTags v.2.1
        s1.loadResult g x p.1 d (wordsOfBytes v.1) v.2.2 4 [x.bankAddr p.1 a b, 0] (some (keyBank p.2))
      .ok (ks.foldl one (s.settleKeys g x.core ks)))

/-- A bank store of n registers (R181); discarded during run-ahead (R184). -/
def bodyBankStore (sp : Space) (n : Nat) : LaneBody := fun d a b =>
  checked { laneR := a :: (List.range n).map (d + ·), uniR := [b] }
    (bankAccess sp (4 * n) (4 * n) false a b fun s g x _ ks =>
      if x.runAhead.isSome then .ok s
      else
        let one := fun (s : State) (p : Nat × Nat) =>
          s.storeBytes x.core g none p.2 (decide (2 ≤ n)) (bytesOfWords (x.regList p.1 d n))
        .ok (ks.foldl one (s.settleKeys g x.core ks)))

/-- The lanes of one `ats` that touch one word become one unit (R183). -/
def atsUnits (s : State) (g : Nat) (x : Group) (op : AtomOp) (d a b : Nat) (ks : List (Nat × Nat)) : List PortUnit :=
  let keys := ks.foldl (fun l p => insertNat l p.2) []
  keys.map fun key =>
    let mine := ks.filter fun p => p.2 == key
    let addr := match mine with
      | p :: _ => x.bankAddr p.1 a b
      | [] => 0
    { org := s.origin g x, bank := keyBank key, off := (key - 2 ^ 57) % 2 ^ 19
      op := .atomic op d (mine.map fun p =>
        { lane := p.1, key := key, comp := none, v := (x.reg p.1 d).setWidth 64, new := (x.reg p.1 (d + 1)).setWidth 64 })
      pc := s.issuePc x, word := s.word, addr := addr, seq := s.ord.seq, tag := Tab.get s.ord.curTags x.core }

/-- `ats` (R183): a helper lane receives 0. -/
def bodyAts (op : AtomOp) : LaneBody := fun d a b =>
  checked { laneR := a :: atomReads op false d, laneW := [d], uniR := [b] }
    (bankAccess .scr 4 4 false a b fun s g x _ ks =>
      let s1 := { s with portUnits := s.portUnits ++ atsUnits s g x op d a b ks }.bumpSeq
      let s2 := s1.modGroup g fun y => (lanesOf x.active).foldl (fun y l => y.setPend l d 1 .atomic) y
      let helpers := (lanesOf x.active).filter x.isHelper
      .ok (helpers.foldl (fun s l => s.addResult g x (some l) d [0]) s2))

/-- `lds` (R181). -/
def execLds (o : MemOp) (s : State) : Host.Outcome State Fault Refusal :=
  stepWord true o.park (bodyBankLoad .scr (sizeRegs o.size) o.d.toNat o.a.toNat o.b.toNat) s

/-- `sts` (R181). -/
def execSts (o : MemOp) (s : State) : Host.Outcome State Fault Refusal :=
  stepWord true o.park (bodyBankStore .scr (sizeRegs o.size) o.d.toNat o.a.toNat o.b.toNat) s

/-- `lda` (R181). -/
def execLda (o : MemOp) (s : State) : Host.Outcome State Fault Refusal :=
  stepWord true o.park (bodyBankLoad .act (sizeRegs o.size) o.d.toNat o.a.toNat o.b.toNat) s

/-- `sta` (R181). -/
def execSta (o : MemOp) (s : State) : Host.Outcome State Fault Refusal :=
  stepWord true o.park (bodyBankStore .act (sizeRegs o.size) o.d.toNat o.a.toNat o.b.toNat) s

/-- `ldw` (R182). -/
def execLdw (o : Regs3) (s : State) : Host.Outcome State Fault Refusal :=
  stepWord true o.park (bodyBankLoad .wgt 4 o.d.toNat o.a.toNat o.b.toNat) s

/-- `ats`: run-ahead does not execute it (R184). -/
def atsWord (op : AtomOp) (o : Regs3) (s : State) : Host.Outcome State Fault Refusal :=
  stepWord false o.park (bodyAts op o.d.toNat o.a.toNat o.b.toNat) s

/-- `ats.add` (R183). -/
def execAtsAdd (o : Regs3) (s : State) : Host.Outcome State Fault Refusal := atsWord .add o s

/-- `ats.exch` (R183). -/
def execAtsExch (o : Regs3) (s : State) : Host.Outcome State Fault Refusal := atsWord .exch o s

/-- `ats.cas` (R183). -/
def execAtsCas (o : Regs3) (s : State) : Host.Outcome State Fault Refusal := atsWord .cas o s

/-- `ats.and` (R183). -/
def execAtsAnd (o : Regs3) (s : State) : Host.Outcome State Fault Refusal := atsWord .and o s

/-- `ats.or` (R183). -/
def execAtsOr (o : Regs3) (s : State) : Host.Outcome State Fault Refusal := atsWord .or o s

/-- `ats.xor` (R183). -/
def execAtsXor (o : Regs3) (s : State) : Host.Outcome State Fault Refusal := atsWord .xor o s

/-- `ats.min.u` (R183). -/
def execAtsMinU (o : Regs3) (s : State) : Host.Outcome State Fault Refusal := atsWord .minU o s

/-- `ats.max.u` (R183). -/
def execAtsMaxU (o : Regs3) (s : State) : Host.Outcome State Fault Refusal := atsWord .maxU o s

/-- `ats.min.s` (R183). -/
def execAtsMinS (o : Regs3) (s : State) : Host.Outcome State Fault Refusal := atsWord .minS o s

/-- `ats.max.s` (R183). -/
def execAtsMaxS (o : Regs3) (s : State) : Host.Outcome State Fault Refusal := atsWord .maxS o s

end Sys2Proof.Machine
end

