-- ==== Sys2Proof/Machine/Barrier.lean ====
section
/-!
DEFINITION. The barrier instructions (09 R199-R203), the ring instructions (R206), `fence` (12 R272) and
`ntfy` with the arrival of notify writes (02 R49, R50).
-/
namespace Sys2Proof.Machine

/-- A word on an SCR object of `width` bytes at U[a], checked under R180. `k` gets the bank, the offset and
the address. -/
def objectWord (width : Nat) (u : Uses) (a : Nat) (k : State → Nat → Group → Block → Nat → Nat → Done) : Body :=
  checked { u with uniR := a :: u.uniR } fun s g x =>
    match s.blockOf x with
    | none => .ok s
    | some b =>
      let addr := x.uni a
      match b.checkAt .scr width width addr with
      | .error c => .trap { cause := c, ops := [s.word, addr] }
      | .ok key => k s g x b (keyBank key) (addrOff addr)

/-- A unit that the issuing group sends. -/
def State.unit (s : State) (g : Nat) (x : Group) (bank off : Nat) (addr : Word) (op : PortOp) : PortUnit where
  org := s.origin g x
  bank := bank
  off := off
  op := op
  pc := s.issuePc x
  word := s.word
  addr := addr
  seq := s.ord.seq
  tag := Tab.get s.ord.curTags x.core

def State.sendUnit (s : State) (u : PortUnit) : State := { s with portUnits := s.portUnits ++ [u] }.bumpSeq

/-- `binit` (R199, R200). -/
def execBinit (o : RegsAB) (s : State) : Host.Outcome State Fault Refusal :=
  stepWord false o.park (objectWord 16 { uniR := [o.b.toNat] } o.a.toNat fun s g x _ bank off =>
    let v := x.uni o.b.toNat
    if wbits v 31 16 != 0 || wbits v 15 0 == 0 then illegal s
    else .ok (s.sendUnit (s.unit g x bank off (x.uni o.a.toNat) (.binit (wbits v 15 0))))) s

/-- `barr` with k arrivals: the phase returns to every lane. -/
def arriveWord (count : Group → Nat) (o : Regs2) (s : State) : Host.Outcome State Fault Refusal :=
  stepWord false o.park (objectWord 16 { uniW := [o.d.toNat] } o.a.toNat fun s g x _ bank off =>
    let s1 := s.sendUnit (s.unit g x bank off (x.uni o.a.toNat) (.arrive (count x) (some o.d.toNat)))
    .ok (s1.modGroup g fun y => y.setPendAll o.d.toNat 1 .port)) s

/-- `barr` (R200): one arrival. -/
def execBarr (o : Regs2) (s : State) : Host.Outcome State Fault Refusal := arriveWord (fun _ => 1) o s

/-- `barr.f` (R200): one arrival for each active fibre, helpers included. -/
def execBarrF (o : Regs2) (s : State) : Host.Outcome State Fault Refusal :=
  arriveWord (fun x => (lanesOf x.active).length) o s

/-- `bexp` (R200). -/
def execBexp (o : RegsAB) (s : State) : Host.Outcome State Fault Refusal :=
  stepWord false o.park (objectWord 16 { uniR := [o.b.toNat] } o.a.toNat fun s g x _ bank off =>
    .ok (s.sendUnit (s.unit g x bank off (x.uni o.a.toNat) (.expect (x.uni o.b.toNat).toNat)))) s

/-- `bwait` (R200, R201, R203): it goes on at once, as an acquire at clu scope, when PHASE differs from p;
else its subset waits. A queued fault is delivered at it first, with the `bwait` as resume PC (13 R283): the word issues, and
issues again after the return (02 R32). -/
def execBwait (o : RegsAB) (s : State) : Host.Outcome State Fault Refusal :=
  stepWord false o.park (objectWord 16 { uniR := [o.b.toNat] } o.a.toNat fun s g x _ bank off =>
    if x.deliverable then .hold ((s.modGroup g fun y => y.countIssues 1).deliverCurrent g false)
    else
      let s1 := s.settleBank g x.core bank
      let p := x.uni o.b.toNat
      if s1.phaseAt bank off = p then .hold (s1.modGroup g fun y => (y.countIssues 1).stopCurrent (.phase bank off p o.park))
      else .ok (s1.acquire g .clu)) s

/-! ### Rings (R206) -/

/-- A ring word: the descriptor is checked as the group sees it, and the unit is sent. The banks that FREE and FILL name now
are those that the unit works on: it performs before a later release, such as the give of their slot (14 R297). -/
def ringWord (results : Nat) (op : Nat → PortOp) (o : Regs2) (s : State) : Host.Outcome State Fault Refusal :=
  stepWord false o.park (objectWord 32 { uniW := (List.range results).map (o.d.toNat + ·) } o.a.toNat
    fun s g x b bank off =>
      let s0 := s.settleBank g x.core bank
      let v := s0.loadBytes x.core (some g) none (bankKey bank .data off) 32
      let d := ringDesc v.1
      if d.2 && b.ringOk d.1 then
        let bars := [d.1.free, d.1.fill].map fun a => ((b.bankAt .scr a).getD 0, addrOff a)
        let s1 := s0.sendUnit { s0.unit g x bank off (x.uni o.a.toNat) (op o.d.toNat) with also := bars }
        .ok (s1.modGroup g fun y => y.setPendAll o.d.toNat results .port)
      else illegal s) s

/-- `rinit` (R206). -/
def execRinit (o : Regs2) (s : State) : Host.Outcome State Fault Refusal := ringWord 1 .ringInit o s

/-- `racq` (R206). -/
def execRacq (o : Regs2) (s : State) : Host.Outcome State Fault Refusal := ringWord 3 .ringAcquire o s

/-- `rdone` (R206). -/
def execRdone (o : Regs2) (s : State) : Host.Outcome State Fault Refusal := ringWord 1 .ringDone o s

/-! ### fence and notify -/

/-- `fence` (12 R272): a release and then an acquire at its scope. It holds its group until its writes have reached the
scope (09 R202): where a `gupd` that waits for a page keeps one, until that has ended. -/
def execFence (o : FenceOp) (s : State) : Host.Outcome State Fault Refusal :=
  stepWord false o.park (fun s g x =>
    if o.scope != .grp && s.releaseWaits g x.core s.ord.seq then .hold (s.settleBefore x.core s.ord.seq)
    else .ok ((s.release g x o.scope).acquire g o.scope)) s

/-- `ntfy` (02 R50): a release at dev scope, and a notify write on its way. Helpers alone send nothing. Where a `gupd` keeps
the release from completing, the notify write waits for it (DEDUCED, log 18). -/
def execNtfy (o : RegsAB) (s : State) : Host.Outcome State Fault Refusal :=
  stepWord false o.park (checked { uniR := [o.a.toNat, o.b.toNat] } fun s g x =>
    let t := x.uni o.a.toNat
    if 192 ≤ wbits t 7 0 || wbits t 31 12 != 0 then illegal s
    else if x.allHelpers then .ok s
    else
      let s1 := s.release g x .dev
      .ok { s1 with
        notifyWrites := s1.notifyWrites ++ [{
          core := wbits t 7 0, reg := wbits t 11 8, value := x.uni o.b.toNat,
          sent := if s.releaseWaits g x.core s.ord.seq then some (g, x.core, s.ord.seq) else none }] }) s

/-- A notify write ORs its value into its register, and a nonzero one wakes a gated core (02 R49). -/
def State.notifyOr (s : State) (core reg : Nat) (v : Word) : State :=
  let k := 16 * core + reg
  let s1 := { s with notify := Tab.store 0 s.notify k (Tab.getD s.notify k 0 ||| v) }
  if v = 0 then s1 else s1.noteWake core 4

/-- NOTIFY_WRITE_ARRIVAL (R49). -/
def execNotifyWriteArrival (i : Nat) (s : State) : Host.Outcome State Fault Refusal :=
  match s.notifyWrites[i]? with
  | none => .next s
  | some w =>
    let arrive := fun (s : State) => ({ s with notifyWrites := s.notifyWrites.eraseIdx i }).notifyOr w.core w.reg w.value
    match w.sent with
    | none => .next (arrive s)
    | some (g, core, n) =>
      let s1 := s.settleCore [g] core n
      if s1.releaseWaits g core n then .next s1 else .next (arrive s1)

end Sys2Proof.Machine
end

