-- ==== Sys2Proof/Machine/BankOps.lean ====
section
/-!
DEFINITION. The bank switch: `batt`, `bres`, `bgive`, `brel`, `bmap` (08 R185-R192), the drains of gives and
releases, clearing, and the landing of deliveries (R188-R191).
-/
namespace Sys2Proof.Machine

/-- The cluster of a block: that of its cores. -/
def Block.cluster (b : Block) : Nat :=
  match b.cores with
  | c :: _ => clusterOf c
  | [] => 0

/-- A word whose a operand is a slot-name word (R185). -/
def slotWord (u : Uses) (a : Nat) (k : State → Nat → Group → Block → Slot → Done) : Body :=
  checked { u with uniR := a :: u.uniR } fun s g x =>
    match s.blockOf x with
    | none => .ok s
    | some b =>
      let v := x.uni a
      if wbits v 31 6 != 0 then illegal s
      else
        match b.slot? (spaceOf (wbits v 5 4)) (wbits v 3 0) with
        | none => .trap { cause := .bankbound, ops := [s.word, v] }
        | some q => k s g x b q

/-- The pair of a status and a word, on its way to every lane. -/
def statusPair (s : State) (g : Nat) (x : Group) (d : Nat) (st w : Word) : Done :=
  let s1 := s.modGroup g fun y => y.setPendAll d 2 .bankSwitch
  .ok (s1.addResult g x none d [st, w])

def pairUses (d : Nat) : Uses := { uniW := [d, d + 1] }

/-- Maps a bank into a slot. -/
def State.mapBank (s : State) (block : Nat) (sp : Space) (n bank : Nat) : State :=
  (s.setBankSt bank .held).modBlock block fun b => b.setSlot sp n (.mapped bank)

/-- `batt` (R186). -/
def execBatt (o : Regs2) (s : State) : Host.Outcome State Fault Refusal :=
  stepWord false o.park (slotWord (pairUses o.d.toNat) o.a.toNat fun s g x b q =>
    if q.st != .empty then statusPair s g x o.d.toNat stREFUSED 0
    else
      match s.freeBanks b.cluster with
      | [] => statusPair s g x o.d.toNat stFULL 0
      | k :: _ =>
        statusPair (s.mapBank x.block q.space q.num k) g x o.d.toNat stOK
          (toWord ((s.gen k).toNat * 2 ^ 8 + k % 96))) s

/-- A reservation table entry of a cluster (R187). -/
def entryKey (cluster e : Nat) : Nat := 192 * cluster + e

def State.entry (s : State) (cluster e : Nat) : ResEntry :=
  Tab.getD s.resTable (entryKey cluster e) { seq := 0, owner := none }

def State.setEntry (s : State) (cluster e : Nat) (r : ResEntry) : State :=
  { s with resTable := Tab.store { seq := 0, owner := none } s.resTable (entryKey cluster e) r }

/-- `bres` (R187). Where the barrier address fails R180, the fault names that address (DESIGN CHOICE, log 46). -/
def execBres (o : Regs3) (s : State) : Host.Outcome State Fault Refusal :=
  stepWord false o.park (slotWord { uniR := [o.b.toNat], uniW := [o.d.toNat, o.d.toNat + 1] } o.a.toNat fun s g x b q =>
    let bar := x.uni o.b.toNat
    match b.checkAt .scr 16 16 bar with
    | .error c => .trap { cause := c, ops := [s.word, bar] }
    | .ok key =>
      if q.st != .empty then statusPair s g x o.d.toNat stREFUSED 0
      else
        match (List.range 192).find? fun e => (s.entry b.cluster e).owner.isNone with
        | none => statusPair s g x o.d.toNat stFULL 0
        | some e =>
          let seq := (s.entry b.cluster e).seq + 1
          let s1 := s.setEntry b.cluster e { seq := seq, owner := some (x.block, q.space, q.num) }
          let st : SlotState := .reserved e bar (keyBank key) (s.gen (keyBank key)) false false
          statusPair (s1.modBlock x.block fun b => b.setSlot q.space q.num st) g x o.d.toNat stOK
            (toWord (seq.toNat * 2 ^ 8 + e))) s

/-- The table of a block's address space. -/
def State.rootOfBlock (s : State) (b : Block) : Nat :=
  match Tab.get s.launches b.launch with
  | some l => l.record.root
  | none => 0

/-- A bank of a block leaves its slot: the sets that name it are lost (10 R237). -/
def Block.loseBank (b : Block) (k : Nat) : Block :=
  { b with cvs := b.cvs.map fun p =>
      let names := p.2.first.isSome && (p.2.aBank == k || p.2.barBank == some k || p.2.regions.any fun r => r.1 == k)
      (p.1, { p.2 with lost := p.2.lost || names }) }

/-- `bgive` (R188): the checks at the core and at the switch, and the acceptance; the drain follows. -/
def execBgive (o : RegsAB) (s : State) : Host.Outcome State Fault Refusal :=
  stepWord false o.park (slotWord { uniR := [o.b.toNat] } o.a.toNat fun s g x b q =>
    let ticket := x.uni o.b.toNat
    let e := wbits ticket 7 0
    let r := s.entry b.cluster e
    let trap := fun (c : Cause) => Done.trap { cause := c, ops := [s.word, x.uni o.a.toNat] ++ if c = .give then [ticket] else [] }
    match q.bank? with
    | none => trap .give
    | some k =>
      match (if e ≤ 191 && r.seq.toNat == wbits ticket 31 8 then r.owner else none) with
      | none => trap .give
      | some (rb, rsp, rn) =>
        match s.block? rb with
        | none => trap .give
        | some taker =>
          if s.rootOfBlock taker != s.rootOfBlock b then trap .give
          else if rsp != q.space then trap .spacekind
          else
            match taker.slot? rsp rn with
            | some { st := .reserved _ bar barBank barGen _ cancelled, .. } =>
              let s1 := s.setEntry b.cluster e { r with owner := none }
              let s2 := s1.modBlock rb fun t => t.setSlot rsp rn (.reserved e bar barBank barGen true cancelled)
              let s3 := s2.modBlock x.block fun t => (t.setSlot q.space q.num .empty).loseBank k
              let d : Drain :=
                { bank := k, give := some (rb, rsp, rn), bar := bar, barBank := barBank, barGen := barGen
                  org := s.origin g x, pc := s.issuePc x, word := s.word, slotAddr := x.uni o.a.toNat
                  before := s.ord.seq }
              .ok { s3 with drains := s3.drains ++ [d] }
            | _ => trap .give) s

/-- Releases a slot (R191). -/
def State.releaseSlot (s : State) (org : Origin) (block : Nat) (q : Slot) (pc : CodeAddr) (word name : Word) : State :=
  match q.st with
  | .mapped k =>
    let s1 := s.modBlock block fun t => t.setSlot q.space q.num .empty
    { s1 with
      drains := s1.drains ++ [{ bank := k, give := none, bar := 0, barBank := 0, barGen := 0, org := org, pc := pc,
                                word := word, slotAddr := name, before := s.ord.seq }] }
  | .reserved e bar barBank barGen accepted _ =>
    if accepted then s.modBlock block fun t => t.setSlot q.space q.num (.reserved e bar barBank barGen true true)
    else
      match s.block? block with
      | none => s
      | some b =>
        let s1 := s.setEntry b.cluster e { s.entry b.cluster e with owner := none }
        s1.modBlock block fun t => t.setSlot q.space q.num .empty
  | .empty => s
  | .image _ => s.modBlock block fun t => t.setSlot q.space q.num .empty

/-- `brel` (R191). -/
def execBrel (o : RegA) (s : State) : Host.Outcome State Fault Refusal :=
  stepWord false o.park (slotWord {} o.a.toNat fun s g x _ q =>
    let s1 := s.releaseSlot (s.origin g x) x.block q (s.issuePc x) s.word (x.uni o.a.toNat)
    .ok (match q.bank? with
      | some k => s1.modBlock x.block fun t => t.loseBank k
      | none => s1)) s

/-- The two words of a slot's bank-map register (R176). -/
def State.mapWords (s : State) (b : Block) (core : Nat) (q : Slot) : List Word :=
  let base := 2 ^ 29 + q.space.code * 2 ^ 27 + q.num * 2 ^ 23
  let owner := b.residentOn core * 2 ^ 23
  match q.st with
  | .mapped k => [toWord (2 ^ 31 + base + k % 96 * 2 ^ 16 + (s.gen k).toNat * 2 ^ 8), toWord owner]
  | .reserved e bar _ _ _ _ => [toWord (2 ^ 30 + base + e), toWord (owner + wbits bar 21 4 * 2 ^ 4)]
  | _ => [toWord base, toWord owner]

/-- `bmap` (R192). -/
def execBmap (o : Regs2) (s : State) : Host.Outcome State Fault Refusal :=
  stepWord false o.park (slotWord (pairUses o.d.toNat) o.a.toNat fun s g x b q =>
    okGroup s g (x.bcasts o.d.toNat (s.mapWords b x.core q))) s

/-! ### Drains (R188-R191) -/

/-- Whether a copy command keeps a bank from being drained (R189): it names the bank's slot, and is not past its bytes.
A command that a pre-emption has withdrawn is drained when it has been issued again. -/
def CopyCmd.uses (c : CopyCmd) (bank : Nat) : Bool := c.banks.contains bank && c.phase != .delivering

/-- Whether a matrix operation reads or writes a bank: `regions` names (bank, offset, bytes) (R189). -/
def MatOp.uses (m : MatOp) (bank : Nat) : Bool := m.aBank == bank || m.regions.any fun r => r.1 == bank

/-- Deliveries that carry a generation of a bank, their own or their barrier's: in flight, or of a posted receive
(R179, R190). -/
def State.carried (s : State) (bank : Nat) (gen : BitVec 8) : Bool :=
  (s.deliveries.any fun d => (d.bank == bank && d.gen == gen) || d.bar.any fun q => q.1 == bank && q.2.2 == gen)
    || s.fabric.receives.any fun r => (r.bank == bank && r.gen == gen) || (r.bar.1 == bank && r.bar.2.2 == gen)

/-- Whether a lane access to a bank has not ended: an atomic on its way to its port, or a result on its way to its
register (R189). -/
def State.accessed (s : State) (bank : Nat) : Bool :=
  (s.portUnits.any fun u => u.op.isAtomic && u.banks.contains bank) || (s.results.any fun r => r.bank == some bank)
    || s.held.any fun h => h.result.any fun r => r.bank == some bank

/-- Whether the drain of a bank may end: the lane accesses and engine commands that came before it are done (R189), and
no delivery still carries the generation that it would reach (R179). -/
def State.drained (s : State) (d : Drain) : Bool :=
  !s.accessed d.bank && !(s.copies.any fun c => c.2.uses d.bank) && !(s.matOps.any fun m => m.uses d.bank)
    && !(s.rays.any fun r => r.2.op == .ray && keyBank r.2.record == d.bank)
    && !s.carried d.bank (s.gen d.bank + 1)

/-- Completes the lane accesses to a bank: units and stores on their way are performed (R189). -/
def State.settleDrain (s : State) (d : Drain) : State :=
  let s1 := s.settleUnits fun u => u.banks.contains d.bank && decide (u.seq < d.before)
  drainBuffer (fun e => isBankKey e.key && keyBank e.key == d.bank && decide (e.seq < d.before)) s1.ord.wb.length s1

/-- Units and stores that came before a drain and work on its bank are left: they wait for a `gupd` that waits for a page. -/
def State.unsettled (s : State) (d : Drain) : Bool :=
  (s.portUnits.any fun u => u.banks.contains d.bank && decide (u.seq < d.before))
    || s.ord.wb.any fun e => isBankKey e.key && keyBank e.key == d.bank && decide (e.seq < d.before)

/-- The release of a give cannot complete yet (R188). -/
def State.giveWaits (s : State) (d : Drain) : Bool :=
  s.unsettled d || s.releaseWaits d.org.group d.org.core d.before

/-- A bank enters the pool: its generation increments and it is being cleared (R178). -/
def State.toPool (s : State) (bank : Nat) : State := (s.bumpGen bank).setBankSt bank .clearing

/-- The arrival of a give (R188 step 7): dropped when the barrier's bank has changed; a refusal is an OVERRUN
of the giver (09 R204), whose fault names the word and the barrier address of the reservation (DESIGN CHOICE, log 46). -/
def State.giveArrival (s : State) (d : Drain) : State :=
  if s.gen d.barBank = d.barGen then
    let r := s.contribute d.barBank (addrOff d.bar) fun b => b.arrive 1
    if r.2 then r.1
    else r.1.holdFault d.org (asyncRec s .overrun 0 4 d.pc [d.word, d.bar] 0) none none
  else s

/-- A given bank whose reservation has gone is given, and then released: its generation increments for each (R178, R191). -/
def State.releaseGiven (s : State) (d : Drain) : State :=
  let s1 := s.bumpGen d.bank
  { s1 with drains := s1.drains ++ [{ d with give := none }] }

/-- The arrival of a give to a block: a saved block takes it when it is restored (R194). -/
def State.arriveAt (s : State) (d : Drain) (rb : Nat) (b : Block) : State :=
  if b.phase == .saved then s.modBlock rb fun t => { t with arrivals := t.arrivals ++ [d] } else s.giveArrival d

/-- A given bank enters its reserved slot, or is released at once when the reservation was cancelled or its
block has ended; the arrival is made in each case (R188, R191, R194). -/
def State.enterSlot (s : State) (d : Drain) (rb : Nat) (sp : Space) (n : Nat) : State :=
  match s.block? rb with
  | none => (s.releaseGiven d).giveArrival d
  | some b =>
    match b.slot? sp n with
    | some { st := .reserved _ _ _ _ _ cancelled, .. } =>
      if cancelled then ((s.modBlock rb fun t => t.setSlot sp n .empty).releaseGiven d).arriveAt d rb b
      else ((s.bumpGen d.bank).mapBank rb sp n d.bank).arriveAt d rb b
    | _ => (s.releaseGiven d).arriveAt d rb b

/-- GIVE_DRAIN_COMPLETE (R188 steps 4 to 7): the drain of give `i` of those accepted ends. -/
def execGiveDrainComplete (i : Nat) (s : State) : Host.Outcome State Fault Refusal :=
  match s.drains[i]? with
  | none => .next s
  | some d =>
    match d.give with
    | none => .next s
    | some (rb, sp, n) =>
      if s.drained d then
        let s1 := (s.settleBefore d.org.core d.before).settleDrain d
        if s1.giveWaits d then .next s1
        else
          let s2 := { s1 with drains := s1.drains.eraseIdx i }
          .next ((s2.releaseUpTo [d.org.group] d.org.core d.before .clu).enterSlot d rb sp n)
      else .next s

/-- RELEASE_DRAIN_COMPLETE (R191): the drain of release `i` ends and the bank enters the pool. -/
def execReleaseDrainComplete (i : Nat) (s : State) : Host.Outcome State Fault Refusal :=
  match s.drains[i]? with
  | none => .next s
  | some d =>
    match d.give with
    | some _ => .next s
    | none =>
      if s.drained d then
        let s1 := s.settleDrain d
        if s1.unsettled d then .next s1 else .next ({ s1 with drains := s1.drains.eraseIdx i }.toPool d.bank)
      else .next s

/-- BANK_CLEAR_DONE (R178): the bank is zero and free. -/
def execBankClearDone (bank : Nat) (s : State) : Host.Outcome State Fault Refusal :=
  if s.bankSt bank = .clearing then .next ((s.zeroBank bank).setBankSt bank .free) else .next s

end Sys2Proof.Machine
end

