-- ==== Sys2Proof/Machine/Copy.lean ====
section
/-!
DEFINITION. The copy engine (09 R207-R217): the checks and the acceptance of `cpy`, `cpyo`, `gath` and
`mcast`, the movement of their elements, ring fills, and the landing of deliveries (08 R190).
-/
namespace Sys2Proof.Machine

/-! ### The transfer descriptor (R209) -/

/-- The descriptor T of a copy command. -/
structure Xfer where
  start : Word
  baddr : Word
  roww : Nat
  len : Nat
  nobar : Bool
  ring : Bool
  scl : Bool
  space : Nat
  bar : Word
  deriving DecidableEq, Repr

def xfer (t : List Word) : Xfer :=
  let w2 := nth t 2 0
  let w3 := nth t 3 0
  { start := nth t 0 0, baddr := nth t 1 0, roww := wbits w2 31 20, len := wbits w2 19 0, nobar := wbit w3 31
    ring := wbit w3 30, scl := wbit w3 29, space := wbits w3 25 24, bar := toWord (wbits w3 23 0) }

/-- Step 3 of R210: every field of T is in its range; for `mcast` the mask in vc too (R214; its place in the order: DESIGN
CHOICE, log 46). -/
def xferOk (fn : CopyFn) (r : BufRec) (t : List Word) (vc : Word) : Bool :=
  let x := xfer t
  let w3 := nth t 3 0
  x.len != 0 && x.len % 16 == 0 && decide (x.len ≤ 262144)
    && (if r.swz = 0 || fn = .gath then x.roww == 0 else x.roww != 0)
    && wbits w3 28 26 == 0
    && (if x.ring then (fn == .cpy || fn == .gath) && !x.nobar && x.space == 0 && x.bar == 0 else x.space != 3)
    && (fn != .mcast || (wbits vc 31 12 == 0 && vc != 0))

/-- The spaces that each function may enter (R172, R210). -/
def CopyFn.permits (fn : CopyFn) (sp : Nat) : Bool :=
  match fn with
  | .cpy => decide (sp ≤ 2)
  | .gath => decide (sp ≤ 1)
  | .mcast => sp == 1
  | .cpyo => decide (sp ≤ 1)

/-- The number of elements of a command: LEN / u. -/
def elemCount (r : BufRec) (x : Xfer) : Nat := 2 * x.len / r.u2

/-! ### Acceptance (R207, R210, R211, R214) -/

/-- The bank side of a command: its space, bank, slot and offset, and the barrier object's bank and offset; for a ring,
those of the slot that its fill number takes. -/
structure BankSide where
  space : Nat
  slots : Nat
  fill : Option Nat
  bank : Nat
  slot : Nat
  off : Nat
  area : Nat
  barBank : Nat
  barOff : Nat
  listBank : Nat
  ring : Option Nat
  banks : List Nat
  deriving DecidableEq, Repr

/-- Step 4 of R210 without a ring. An AREA 01 or 10 that is not accepted raises BANKBOUND, after the checks of R180 (DESIGN
CHOICE, log 46). -/
def bankSide (b : Block) (fn : CopyFn) (r : BufRec) (x : Xfer) : Except (Cause × Word) BankSide :=
  let sp := spaceOf x.space
  let wrap := fun (c : Cause) (a : Word) => (Except.error (c, a) : Except (Cause × Word) BankSide)
  if !fn.permits x.space then wrap .spacekind x.baddr
  else
    match b.checkAt sp ((r.u2 + 1) / 2) x.len x.baddr with
    | .error c => wrap c x.baddr
    | .ok key =>
      if addrArea x.baddr != 0 && ((fn != .cpy && fn != .cpyo) || x.scl) then wrap .bankbound x.baddr
      else
        match (if x.nobar then Except.ok (bankKey 0 .data 0) else b.checkAt .scr 16 16 x.bar) with
        | .error c => wrap c x.bar
        | .ok bar =>
          match (if fn = .gath then b.checkAt .scr 4 (4 * elemCount r x) x.start
                 else Except.ok (bankKey 0 .data 0)) with
          | .error c => wrap c x.start
          | .ok list =>
            let bank := keyBank key
            let banks := if fn = .mcast then []
              else [bank] ++ (if x.nobar then [] else [keyBank bar]) ++ (if fn = .gath then [keyBank list] else [])
            .ok { space := x.space, slots := 0, fill := none, bank := bank, slot := addrSlot x.baddr, off := addrOff x.baddr, area := addrArea x.baddr
                  barBank := keyBank bar, barOff := addrOff x.bar, listBank := keyBank list, ring := none
                  banks := banks }

/-- Steps 4 and 5 of R210 with a ring, whose descriptor the engine reads at its bank (R207 step 1): its address, its
space and the index list, and then what it holds. A descriptor that reads with an uncorrectable error says nothing:
the command is accepted on it and aborts (13 R296). -/
def ringSide (b : Block) (read : Nat → List Byte × Bool) (fn : CopyFn) (r : BufRec) (x : Xfer) :
    Except (Cause × Word) BankSide :=
  let wrap := fun (c : Cause) (a : Word) => (Except.error (c, a) : Except (Cause × Word) BankSide)
  match b.checkAt .scr 32 32 x.baddr with
  | .error c => wrap c x.baddr
  | .ok key =>
    let v := read key
    let d := ringDesc v.1
    if !v.2 && !fn.permits d.1.space then wrap .spacekind x.baddr
    else
      match (if fn = .gath then b.checkAt .scr 4 (4 * elemCount r x) x.start
             else Except.ok (bankKey 0 .data 0)) with
      | .error c => wrap c x.start
      | .ok list =>
        let own := keyBank key :: if fn = .gath then [keyBank list] else []
        if v.2 then
          .ok { space := 0, slots := 0, fill := none, bank := keyBank key, slot := addrSlot x.baddr, off := addrOff x.baddr
                area := 0, barBank := keyBank key, barOff := 0, listBank := keyBank list, ring := some key, banks := own }
        else if !d.2 || !b.ringOk d.1 || decide (d.1.size < x.len) then wrap .illegal x.baddr
        else
          match b.bankAt (spaceOf d.1.space) d.1.base, b.bankAt .scr d.1.fill, b.bankAt .scr d.1.free with
          | some bank, some fill, some free =>
            .ok { space := d.1.space, slots := d.1.slots, fill := some d.1.head, bank := bank, slot := addrSlot d.1.base
                  off := addrOff d.1.base + d.1.head % d.1.slots * d.1.size, area := 0, barBank := fill
                  barOff := addrOff d.1.fill, listBank := keyBank list, ring := some key, banks := [bank, fill, free] ++ own }
          | _, _, _ => wrap .illegal x.baddr

/-- The commands of a core that occupy slots. -/
def State.commandsOf (s : State) (core : Nat) : List (Nat × CopyCmd) :=
  s.copies.filter fun c => c.2.org.core == core && c.2.phase != .withdrawn

/-- Before the engine reads a ring descriptor, the units that the group has sent there and the earlier stores of its core
to it perform (R207, 12 R268). -/
def State.settleRing (s : State) (g core bank off : Nat) : State :=
  s.bringBank g core bank off 32

/-- A ring fill has taken its number n = HEAD: HEAD now counts it (R207 step 2). -/
def State.takeFill (s : State) (ring fill : Option Nat) : State :=
  match ring, fill with
  | some key, some n => s.engineWrite none none (key + 16) (bytesOf 4 (n + 1))
  | _, _ => s

/-- The target block of an `mcast` on core k of a cluster: of the same launch, the lowest resident number (R214). -/
def State.targetOn (s : State) (launch core : Nat) : Option (Nat × Block) :=
  (s.blocks.filter fun p => p.2.launch == launch && p.2.seats.any fun e => e.core == core).foldl
    (fun best p => match best with
      | none => some p
      | some q => if p.2.residentOn core < q.2.residentOn core then some p else best) none

/-- The delivery of an `mcast` to one target, with the generations recorded at acceptance; none when the
target is dropped (R214): one whose barrier bank at BAR is not mapped is dropped too (DESIGN CHOICE, log 46). -/
def State.mcastDelivery (s : State) (command k : Nat) (launch core : Nat) (x : Xfer) : Option Delivery :=
  match s.targetOn launch core with
  | none => none
  | some (n, t) =>
    match t.bankAt .act x.baddr, (if x.nobar then some none else (t.bankAt .scr x.bar).map some) with
    | some bank, some bar =>
      some { of := .mcast command k, block := n, space := .act, slot := addrSlot x.baddr, bank := bank
             gen := s.gen bank, off := addrOff x.baddr, data := [], side := [], ready := false
             bar := bar.map fun q => (q, addrOff x.bar, s.gen q), count := x.len }
    | _, _ => none

/-- Accepts an `mcast` at the switch: its deliveries, and its STALEMASK so far. -/
def State.acceptMcast (s : State) (command launch cluster : Nat) (vc : Word) (x : Xfer) : State × Nat × Nat :=
  ((List.range 12).filter vc.getLsbD).foldl (fun a k =>
    match a.1.mcastDelivery command k launch (12 * cluster + k) x with
    | none => (a.1, a.2.1 + 2 ^ k, a.2.2)
    | some d => ({ a.1 with deliveries := a.1.deliveries ++ [d] }, a.2.1, a.2.2 + 1)) (s, 0, 0)

/-! ### The end of a command (R211, R216) -/

/-- A command ends: its status is written, and its slot is free. -/
def State.finishCopy (s : State) (id : Nat) (c : CopyCmd) (status : Word) : State :=
  ({ s with copies := Tab.del s.copies id }).writeResult
    { group := c.org.group, lane := none, reg := c.c, vals := [status], spec := false }

/-- The record of a fault of a command (R216). -/
def CopyCmd.faultRec (s : State) (c : CopyCmd) (cause : Cause) : FaultRec :=
  asyncRec s cause 0 1 c.pc (c.t ++ c.record) c.vc

/-- The status word of a command: STATUS and STALEMASK (R211). -/
def CopyCmd.statusWord (c : CopyCmd) (status : Word) : Word := toWord (c.stale * 2 ^ 8) ||| status

/-- A command ends with a fault: it moves nothing more, its fault goes to its group, and REFUSED is written when the fault
enters the queue (R216). -/
def State.failCopy (s : State) (id : Nat) (c : CopyCmd) (f : FaultRec) : State :=
  let s1 := { s with
    copies := Tab.put s.copies id { c with phase := .delivering, waiting := 1 }
    deliveries := s.deliveries.filter fun d => match d.of with
      | .mcast k _ => k != id
      | _ => true }
  s1.holdFault c.org f
    (some { group := c.org.group, lane := none, reg := c.c, vals := [c.statusWord stREFUSED], spec := false }) (some id)

/-- A command aborts with a cause. -/
def State.abortCopy (s : State) (id : Nat) (c : CopyCmd) (cause : Cause) : State := s.failCopy id c (c.faultRec s cause)

/-! ### The words -/

/-- The body of a copy word: the checks of R210 in order, then its acceptance (R211). The PROTECT of a read-only record
names the record's own base, as for a lane's access (DESIGN CHOICE, log 43). -/
def bodyCopy (fn : CopyFn) (a b c : Nat) : Body :=
  aligned [a, b] <| checked { uniR := (List.range 4).map (a + ·) ++ (List.range 4).map (b + ·) ++ [c], uniW := [c] }
    fun s g x =>
      let r := x.record a
      let t := (List.range 4).map fun j => x.uni (b + j)
      let f := xfer t
      let vc := x.uni c
      if !r.2 || 2 * f.len % r.1.u2 != 0 || (r.1.esz == 5 && fn != .cpy && fn != .cpyo) then illegal s
      else if fn = .cpyo && r.1.ro then .trap { cause := .protect, ops := [s.word, toWord r.1.base, toWord (r.1.base / 2 ^ 32)] }
      else if !xferOk fn r.1 t vc then illegal s
      else
        match s.blockOf x with
        | none => .ok s
        | some blk =>
          let s0 := if f.ring then (match blk.bankAt .scr f.baddr with
            | some k => s.settleRing g x.core k (addrOff f.baddr)
            | none => s) else s
          let side := if f.ring then ringSide blk (s0.engineRead none · 32) fn r.1 f else bankSide blk fn r.1 f
          match side with
          | .error (.illegal, _) => illegal s
          | .error (cause, addr) => .trap { cause := cause, ops := [s.word, addr] }
          | .ok side =>
            if x.allHelpers then okGroup s g (x.bcast c stHELPER)
            else
              let s1 := s0.modGroup g fun y => y.setPendAll c 1 .copyEngine
              let cmds := s1.commandsOf x.core
              if 16 ≤ cmds.length then .ok (s1.addResult g x none c [stFULL])
              else
                let (id, s2) := s1.fresh
                let s3 := s2.takeFill side.ring side.fill
                let (s4, stale, waiting) := if fn = .mcast then s3.acceptMcast id blk.launch (clusterOf x.core) vc f
                  else (s3, 0, 0)
                let cmd : CopyCmd :=
                  { org := s.origin g x
                    slot := match (List.range 16).find? fun i => !cmds.any fun q => q.2.slot == i with
                      | some i => i
                      | none => 0
                    fn := fn, pc := s.issuePc x, word := s.word, t := t
                    record := (List.range 4).map fun j => x.uni (a + j)
                    vc := vc, c := c, root := s.rootOfBlock blk, seq := s4.ord.seq, fill := side.fill, phase := .queued, next := 0
                    stale := stale, waiting := waiting, space := side.space, slots := side.slots, bankSlot := side.slot, bankOff := side.off, bank := side.bank
                    area := side.area, listBank := side.listBank, banks := side.banks, barBank := side.barBank
                    barOff := side.barOff, ring := side.ring, migrating := none, service := none }
                let s5 := { s4 with copies := Tab.put s4.copies id cmd }.bumpSeq
                .ok (if side.ring.isSome && side.fill.isNone then s5.abortCopy id cmd .ecc else s5)

/-- A copy word. -/
def copyWord (fn : CopyFn) (o : EngOp3) (s : State) : Host.Outcome State Fault Refusal :=
  stepWord false o.park (bodyCopy fn o.a.toNat o.b.toNat o.c.toNat) s

/-- `cpy` (R208-R212). -/
def execCpy (o : EngOp3) (s : State) : Host.Outcome State Fault Refusal := copyWord .cpy o s

/-- `cpyo` (R208-R212). -/
def execCpyo (o : EngOp3) (s : State) : Host.Outcome State Fault Refusal := copyWord .cpyo o s

/-- `gath` (R208-R212). -/
def execGath (o : EngOp3) (s : State) : Host.Outcome State Fault Refusal := copyWord .gath o s

/-- `mcast` (R208-R214). -/
def execMcast (o : EngOp3) (s : State) : Host.Outcome State Fault Refusal := copyWord .mcast o s

/-! ### Counting (R203, R204) -/

/-- Bytes of a command are counted into its barrier object; a refusal is an OVERRUN of its group (R204). -/
def State.countCopy (s : State) (id : Nat) (c : CopyCmd) (n : Nat) : State × Bool :=
  if (xfer c.t).nobar || n = 0 then (s, true)
  else
    let r := s.contribute c.barBank c.barOff fun b => b.count n
    if r.2 then r else (r.1.abortCopy id c .overrun, false)

/-! ### Elements (R212, R213) -/

/-- The place of element k: none when it lies outside the extent, else its offset in half bytes; `idx` is
the word of the index list. (DEDUCED, log 39.) -/
def copyPlace (fn : CopyFn) (r : BufRec) (x : Xfer) (k : Nat) (idx : Word) : Option Nat :=
  let at_ := fun (v : Word) => if (r.place v).1 then some (r.place v).2 else none
  if fn = .gath then at_ idx
  else
    match r.swz with
    | 0 => if x.start.toNat + k < 2 ^ 32 then at_ (toWord (x.start.toNat + k)) else none
    | 3 =>
      let px := wbits x.start 9 0 + k % x.roww
      let py := wbits x.start 19 10 + k / x.roww
      if px < 1024 ∧ py < 1024 then at_ (toWord (px + py * 2 ^ 10 + wbits x.start 29 20 * 2 ^ 20)) else none
    | _ =>
      let px := wbits x.start 15 0 + k % x.roww
      let py := wbits x.start 31 16 + k / x.roww
      if px < 2 ^ 16 ∧ py < 2 ^ 16 then at_ (toWord (px + py * 2 ^ 16)) else none

/-- Whether a copy of an element to or from a page is in a forbidden format (R213, 07 R161, R162).
(DEDUCED, log 38.) The inline scale area is closed to a record with RAW = 0 only (DESIGN CHOICE, log 46). -/
def copyFormat (p : Page) (r : BufRec) (scaled : Bool) (va : Nat) : Bool :=
  let off := va - p.vbase
  let marker := fmtMarker p.fmt
  (p.fmt != 0 && fmtWidth p.fmt != 4 * r.u2) || (scaled && !marker)
    || (!r.raw && marker && !p.scl && decide (p.size ≤ off + p.scaleBytes))
    || (p.cmp != 0 && decide (p.size ≤ off + p.size / 256))

/-- How the movement of one element ends. -/
inductive Moved where
  | ok (s : State)
  | fault (c : Cause) (s : State)
  /-- The command stops at a page (R216). -/
  | stop (c : Cause) (va : Nat) (s : State)
  deriving DecidableEq, Repr

/-- Stops or aborts on a translation that is not a page. -/
def stopOrFault (x : Xl) (va : Nat) (s : State) : Moved :=
  match x with
  | .xlate => .stop .xlate va s
  | .migrate => .stop .migrate va s
  | .protect => .fault .protect s
  | .page _ => .ok s

/-- Whether a command places scales: its bank side is an ACT data area (R213). -/
def CopyCmd.scaled (c : CopyCmd) : Bool := (xfer c.t).scl && c.fn != .cpyo && c.area == 0 && c.space == 1

/-- The scale of an element of a marker page, read at its home by an engine. -/
def State.engineScale (s : State) (root : Nat) (p : Page) (va : Nat) (hi : Bool) : Nat × Moved :=
  let sva := p.scaleVa va hi
  if p.scl then
    match s.translate root sva .read with
    | (.page q, s1) =>
      let e := s1.engineRead q.comp q.key 1
      (ofBytes e.1, if q.fmt != 0 then .fault .format s1 else if e.2 then .fault .ecc s1 else .ok s1)
    | (r, s1) => (0, stopOrFault r sva s1)
  else
    let q := p.at sva
    let e := s.engineRead q.comp q.key 1
    (ofBytes e.1, if e.2 then .fault .ecc s else .ok s)

/-- What has been read of an element: its bytes (or one code of 4 bits), and its page scale. -/
structure Piece where
  code : Nat
  scale : Option Nat
  deriving DecidableEq, Repr

/-- Reads global element k of a command. An element outside the extent reads as zero. -/
def State.readElem (s : State) (root : Nat) (c : CopyCmd) (r : BufRec) (k : Nat) : Piece × Moved :=
  let x := xfer c.t
  let lk := bankKey c.listBank .data (addrOff x.start + 4 * k)
  let idx := toWord (ofBytes (s.readHome lk 4))
  if c.fn = .gath && s.anyError lk 4 then ({ code := 0, scale := none }, .fault .ecc s)
  else
    match copyPlace c.fn r x k idx with
    | none => ({ code := 0, scale := none }, if r.tb then .fault .bounds s else .ok s)
    | some o =>
      let va := (r.base + o / 2) % 2 ^ 52
      let hi := r.u2 == 1 && o % 2 == 1
      match s.translate root va .read with
      | (.page p, s1) =>
        if copyFormat p r c.scaled va then ({ code := 0, scale := none }, .fault .format s1)
        else
          let e := s1.engineRead p.comp p.key ((r.u2 + 1) / 2)
          let v := ofBytes e.1
          let code := if r.u2 = 1 then (if hi then v / 16 else v % 16) else v
          if e.2 then ({ code := 0, scale := none }, .fault .ecc s1)
          else if c.scaled then
            let q := s1.engineScale root p va hi
            ({ code := code, scale := some q.1 }, q.2)
          else ({ code := code, scale := none }, .ok s1)
      | (q, s1) => ({ code := 0, scale := none }, stopOrFault q va s1)

/-- Writes the code of an element of `u2` half bytes at half byte `h` of an area of a bank. -/
def State.putBankElem (s : State) (bank : Nat) (a : Area) (h u2 code : Nat) : State :=
  let key := bankKey bank a (h / 2)
  if u2 = 1 then
    s.engineWriteHalf noPoint none key (h % 2 == 1) code
  else s.engineWrite none none key (bytesOf (u2 / 2) code)

/-- The ACT element number of the start of a command's data (R213). -/
def CopyCmd.firstNumber (c : CopyCmd) (r : BufRec) : Nat := 2 * c.bankOff / r.u2

/-- The scale that an element gives its group of 32 in the bank: written for the first element of the group
in the extent, 0x7F for a group that has none, FORMAT where another element's differs. -/
def State.placeScale (s : State) (c : CopyCmd) (sidecar : Nat) (fresh : Bool) (scale : Option Nat) (set : Bool) : Moved :=
  let key := bankKey c.bank .scale sidecar
  match scale with
  | none => if fresh then .ok (s.engineWrite none none key [0x7F]) else .ok s
  | some v =>
    if set then
      if (Memory.read s.mem key).toNat = v then .ok s else .fault .format s
    else .ok (s.engineWrite none none key [BitVec.ofNat 8 v])

/-- An `mcast` hands the bytes from a place on to its deliveries. -/
def State.handOver (s : State) (id at_ : Nat) (bs : List Byte) : State :=
  { s with deliveries := s.deliveries.map fun d => match d.of with
      | .mcast k _ => if k = id then { d with data := d.data.take at_ ++ bs } else d
      | _ => d }

/-- An `mcast` hands a scale to its deliveries. -/
def State.handScale (s : State) (id sidecar : Nat) (fresh : Bool) (scale : Option Nat) (set : Bool) : Moved :=
  let put := fun (v : Byte) => { s with deliveries := s.deliveries.map fun d => match d.of with
      | .mcast k _ => if k = id then { d with side := (d.side.filter fun p => p.1 != sidecar) ++ [(sidecar, v)] } else d
      | _ => d }
  match scale with
  | none => if fresh then .ok (put 0x7F) else .ok s
  | some v =>
    let same := s.deliveries.all fun d => match d.of with
      | .mcast k _ => k != id || d.side.any fun p => p.1 == sidecar && p.2.toNat == v
      | _ => true
    if set then (if same then .ok s else .fault .format s) else .ok (put (BitVec.ofNat 8 v))

/-- Element k of `cpy`, `gath` or `mcast`. `set` says that an earlier element of its group of 32 has placed
the group's scale; the answer says whether one has now. -/
def State.moveIn (s : State) (root id : Nat) (c : CopyCmd) (r : BufRec) (k : Nat) (set : Bool) : Bool × Moved :=
  let e := s.readElem root c r k
  match e.2 with
  | .ok s1 =>
    let n := c.firstNumber r + k
    let fresh := n % 32 == 0
    let had := set && !fresh
    let scaled := if !c.scaled then Moved.ok s1
      else if c.fn = .mcast then s1.handScale id (n / 32) fresh e.1.scale had
      else s1.placeScale c (n / 32) fresh e.1.scale had
    (had || e.1.scale.isSome, match scaled with
      | .ok s2 =>
        if c.fn = .mcast then .ok (s2.handOver id (k * r.u2 / 2) (bytesOf (r.u2 / 2) e.1.code))
        else .ok (s2.putBankElem c.bank (areaOf c.area) (2 * c.bankOff + k * r.u2) r.u2 e.1.code)
      | m => m)
  | m => (set, m)

/-- Element k of `cpyo`: its write outside the extent is dropped. -/
def State.moveOut (s : State) (root : Nat) (c : CopyCmd) (r : BufRec) (k : Nat) : Moved :=
  let x := xfer c.t
  match copyPlace c.fn r x k 0 with
  | none => if r.tb then .fault .bounds s else .ok s
  | some o =>
    let va := (r.base + o / 2) % 2 ^ 52
    let h := 2 * c.bankOff + k * r.u2
    let key := bankKey c.bank (areaOf c.area) (h / 2)
    let n := (r.u2 + 1) / 2
    if s.anyError key n then .fault .ecc s
    else
      let bs := s.readHome key n
      match s.translate root va .write with
      | (.page p, s1) =>
        if copyFormat p r false va then .fault .format s1
        else if r.u2 = 1 then
          let v := nibble (nth bs 0 0) (h % 2 == 1)
          .ok (s1.engineWriteHalf (clusterPoint c.org.core) p.comp p.key (o % 2 == 1) v)
        else .ok (s1.engineWrite (some (clusterPoint c.org.core)) p.comp p.key bs)
      | (q, s1) => stopOrFault q va s1

/-- Moves up to n elements from number k on; answers how far it came, whether the scale of the group of 32 there has
been placed, and how it ended. -/
def moveElems (root id : Nat) (c : CopyCmd) (r : BufRec) : Nat → Nat → Bool → State → Nat × Bool × Moved
  | 0, k, set, s => (k, set, .ok s)
  | n + 1, k, set, s =>
    if c.fn = .cpyo then
      match s.moveOut root c r k with
      | .ok s1 => moveElems root id c r n (k + 1) set s1
      | m => (k, set, m)
    else
      match s.moveIn root id c r k set with
      | (set1, .ok s1) => moveElems root id c r n (k + 1) set1 s1
      | (_, m) => (k, set, m)

/-! ### Running a command (R215, R216) -/

/-- The first fault of the format checks of R213 that names no element: with SCL = 1, whatever the bank side is. -/
def scaleUnaligned (c : CopyCmd) (r : BufRec) : Bool :=
  (xfer c.t).scl && (c.bankOff % (16 * r.u2) != 0 || (xfer c.t).len % (16 * r.u2) != 0)

/-- The bank bytes that elements k up to e of a command write in a bank: data at an offset, and the scales of its groups
of 32. Ranges are keys with their lengths. -/
def CopyCmd.bankRanges (c : CopyCmd) (r : BufRec) (bank off k e : Nat) : List (Nat × Nat) :=
  let first := 2 * off / r.u2
  let lo := off + k * r.u2 / 2
  (bankKey bank (areaOf c.area) lo, off + (e * r.u2 + 1) / 2 - lo)
    :: if c.scaled then [(bankKey bank .scale ((first + k) / 32), (first + e + 31) / 32 - (first + k) / 32)] else []

/-- The bytes of global memory that elements k up to e of a `cpyo` write, as the tables are now: half bytes, by twice
their key and one for the high half. -/
def State.outHalves (s : State) (c : CopyCmd) (r : BufRec) (k e : Nat) : List (Nat × Nat) :=
  (List.range (e - k)).filterMap fun i =>
    match copyPlace c.fn r (xfer c.t) (k + i) 0 with
    | none => none
    | some o =>
      let va := (r.base + o / 2) % 2 ^ 52
      match (walk s c.root va).outcome va .write with
      | .page p => some (2 * p.key + o % 2, r.u2)
      | _ => none

/-- Two lists of ranges share a place. -/
def rangesMeet (l m : List (Nat × Nat)) : Bool :=
  l.any fun a => m.any fun b => decide (a.1 < b.1 + b.2) && decide (b.1 < a.1 + a.2)

/-- What a command has still to write: bank bytes, or half bytes of global memory. A fill whose bytes have all been
written, an aborted command and a withdrawn one write nothing more; an `mcast` writes where its deliveries land. -/
def State.stillWrites (s : State) (id : Nat) (c : CopyCmd) : List (Nat × Nat) × List (Nat × Nat) :=
  let r := (bufRec c.record).1
  let total := elemCount r (xfer c.t)
  if c.phase = .withdrawn ∨ c.phase = .filled then ([], [])
  else if c.fn = .mcast then
    (s.deliveries.flatMap fun d => match d.of with
      | .mcast k _ => if k = id then c.bankRanges r d.bank d.off 0 total else []
      | _ => [], [])
  else if c.phase = .delivering then ([], [])
  else if c.fn = .cpyo then ([], s.outHalves c r c.next total)
  else (c.bankRanges r c.bank c.bankOff c.next total, [])

/-- What the earlier commands of a command's core have still to write. -/
def State.earlierWrites (s : State) (id : Nat) (c : CopyCmd) : List (Nat × Nat) × List (Nat × Nat) :=
  let ws := (s.copies.filter fun p => decide (p.1 < id) && p.2.org.core == c.org.core).map fun p => s.stillWrites p.1 p.2
  (ws.flatMap Prod.fst, ws.flatMap Prod.snd)

/-- The first of n elements from k on that must wait: two commands of one core write the same bytes in issue order
(R215). -/
def State.freeElems (s : State) (c : CopyCmd) (r : BufRec) (ws : List (Nat × Nat) × List (Nat × Nat)) : Nat → Nat → Nat
  | 0, _ => 0
  | n + 1, k =>
    let blocked := if c.fn = .cpyo then rangesMeet (s.outHalves c r k (k + 1)) ws.2
      else c.fn != .mcast && rangesMeet (c.bankRanges r c.bank c.bankOff k (k + 1)) ws.1
    if blocked then 0 else s.freeElems c r ws n (k + 1) + 1

/-- How many elements a command may move before an earlier command of its core must have written (R215). -/
def State.mayMove (s : State) (id : Nat) (c : CopyCmd) : Nat :=
  let r := (bufRec c.record).1
  let ws := s.earlierWrites id c
  let left := elemCount r (xfer c.t) - c.next
  if ws.1.isEmpty && ws.2.isEmpty then left else s.freeElems c r ws left c.next

/-- A command stops at a page: its batch of one page is written; MIGRATE waits until a walk no longer finds MIG,
XLATE for the host's answer (R216, 13 R288). -/
def State.stopCopy (s : State) (id : Nat) (c : CopyCmd) (cause : Cause) (va : Nat) : State :=
  let page : BatchPage :=
    { vpn := va % 2 ^ 52 / 2 ^ 16, migrating := cause == .migrate, fetch := false, write := c.fn == .cpyo }
  let s1 := match s.block? c.org.block with
    | none => s
    | some b => s.writePa (b.area + 0x4000 + 0x1000 * c.org.num + 0x40) (bytesOf 8 1 ++ bytesOf 8 page.entry)
  let c1 := if cause = .migrate && !s.foundMig c.root va then c
    else { c with phase := .stopped, service := some va, migrating := if cause = .migrate then some va else none }
  let s2 := { s1 with copies := Tab.put s1.copies id c1 }
  if cause = .migrate then s2
  else
    { s2 with
      reports := s2.reports ++ [{ kind := .pageService, f := c.faultRec s cause, core := c.org.core,
                                  resident := c.org.resident, group := c.org.num, block := c.org.block,
                                  of := .command id, words := [], index := none }] }

/-- Bytes of n elements. -/
def elemBytes (r : BufRec) (n : Nat) : Nat := n * r.u2 / 2

/-- How far a run may count: to where it came, but not into a group of 32 whose scale has not been placed (R213). -/
def CopyCmd.countable (c : CopyCmd) (r : BufRec) (k : Nat) (set : Bool) : Nat :=
  if c.scaled && !set then k - (c.firstNumber r + k) % 32 else k

/-- A run of a command moves elements from where it stands: all that it may move, or a free number of them,
since a command's bytes land in any pieces; the bytes moved are counted. `k` ends it when all have moved. Where it stands
inside a group of 32, the scale of that group has been placed. -/
def State.runCopy (s : State) (id : Nat) (c : CopyCmd) (k : State → CopyCmd → State) : State :=
  let r := (bufRec c.record).1
  let s0 := s.settleCore [c.org.group] c.org.core c.seq
  let total := elemCount r (xfer c.t)
  if scaleUnaligned c r then s0.abortCopy id c .format
  else
    let may := s0.mayMove id c
    let (j, s1) := s0.choose may
    let m0 := moveElems c.root id c r (if j = 0 then may else j) c.next ((c.firstNumber r + c.next) % 32 != 0) s1
    let m := (c.countable r m0.1 m0.2.1, m0.2.2)
    let c1 := { c with next := max c.next m.1 }
    let fresh := elemBytes r c1.next - elemBytes r c.next
    let counted := fun (s : State) =>
      if c.ring.isSome || c.fn = .mcast then ({ s with copies := Tab.put s.copies id c1 }, true)
      else { s with copies := Tab.put s.copies id c1 }.countCopy id c1 fresh
    match m.2 with
    | .fault cause s2 => let q := counted s2; if q.2 then q.1.abortCopy id c1 cause else q.1
    | .stop cause va s2 => let q := counted s2; if q.2 then q.1.stopCopy id c1 cause va else q.1
    | .ok s2 =>
      let q := counted s2
      if !q.2 then q.1
      else if c1.next = total then k q.1 c1 else q.1

/-- An `mcast` that has read all its elements: its deliveries may land; with none left it ends. -/
def State.finishMcast (s : State) (id : Nat) (c : CopyCmd) : State :=
  if c.waiting = 0 then s.finishCopy id c (c.statusWord (if c.stale = 0 then stOK else stSTALE))
  else
    { s with
      copies := Tab.put s.copies id { c with phase := .delivering }
      deliveries := s.deliveries.map fun d => match d.of with
        | .mcast k _ => if k = id then { d with ready := true } else d
        | _ => d }

/-- COPY_COMMAND_COMPLETE (R215): a command that aims at no ring moves its elements, and its status is written
after its last byte is counted. -/
def execCopyCommandComplete (command : Nat) (s : State) : Host.Outcome State Fault Refusal :=
  match Tab.get s.copies command with
  | none => .next s
  | some c =>
    if c.phase != .queued || c.ring.isSome then .next s
    else
      .next (s.runCopy command c fun s c =>
        if c.fn = .mcast then s.finishMcast command c else s.finishCopy command c stOK)

/-- A ring fill that has written nothing waits for its slot: n − DONE ≥ N (R207 step 3). -/
def State.slotWaits (s : State) (c : CopyCmd) : Bool :=
  match c.ring, c.fill with
  | some key, some n =>
    c.next == 0 && decide (c.slots ≤ (n + 2 ^ 32 - ofBytes (s.readHome (key + 24) 4)) % 2 ^ 32)
  | _, _ => false

/-- RING_FILL_START (R207 steps 3 and 4): a fill whose slot is free writes it. -/
def execRingFillStart (command : Nat) (s : State) : Host.Outcome State Fault Refusal :=
  match Tab.get s.copies command with
  | none => .next s
  | some c =>
    if c.phase != .queued || c.fill.isNone || s.slotWaits c then .next s
    else .next (s.runCopy command c fun s c => { s with copies := Tab.put s.copies command { c with phase := .filled } })

/-- RING_FILL_COUNT (R207 step 5): fill n is counted when FILL is at phase n, as one unit. -/
def execRingFillCount (command : Nat) (s : State) : Host.Outcome State Fault Refusal :=
  match Tab.get s.copies command with
  | none => .next s
  | some c =>
    match c.phase, c.fill with
    | .filled, some n =>
      if (s.bar c.barBank c.barOff).phase = n then
        let len := (xfer c.t).len
        let r := s.contribute c.barBank c.barOff fun b =>
          ((b.expect len).bind fun b => b.count len).bind fun b => b.arrive 1
        if r.2 then .next (r.1.finishCopy command c stOK) else .next (r.1.abortCopy command c .overrun)
      else .next s
    | _, _ => .next s

/-! ### Landing (08 R190, R214) -/

/-- What becomes of a delivery that reaches its bank: it lands where its bank and its barrier's bank keep the
recorded generations and the bank is still in its slot; while a give or release of the bank is accepted and
not complete it is held; else it is dropped. -/
inductive Landing where
  | land | held | drop
  deriving DecidableEq, Repr

def State.landing (s : State) (d : Delivery) : Landing :=
  let mapped := match s.block? d.block with
    | some b => b.bank? d.space d.slot == some d.bank
    | none => false
  let barOk := match d.bar with
    | some (q, _, gen) => s.gen q == gen
    | none => true
  if s.gen d.bank != d.gen then .drop
  else if s.drains.any fun q => q.bank == d.bank then .held
  else if mapped && barOk then .land else .drop

/-- A delivery of an `mcast` waits while an earlier command of its core has still to write the same bytes (R215). -/
def State.deliveryWaits (s : State) (d : Delivery) : Bool :=
  match d.of with
  | .mcast id _ => (match Tab.get s.copies id with
    | some c =>
      let r := (bufRec c.record).1
      rangesMeet (c.bankRanges r d.bank d.off 0 (elemCount r (xfer c.t))) (s.earlierWrites id c).1
    | none => false)
  | _ => false

/-- Writes the bytes of a delivery that lands; a fault of the count is answered with false. -/
def State.landBytes (s : State) (d : Delivery) : State × Bool :=
  let s1 := s.engineWrite none none (bankKey d.bank .data d.off) d.data
  let s2 := d.side.foldl (fun s p => s.engineWrite none none (bankKey d.bank .scale p.1) [p.2]) s1
  match d.bar with
  | none => (s2, true)
  | some (q, o, _) => s2.contribute q o fun b => b.count d.count

/-- The delivery of an `mcast` to cluster core k has landed or was dropped: the last one ends the command. -/
def State.mcastSettled (s : State) (command k : Nat) (landed counted : Bool) : State :=
  match Tab.get s.copies command with
  | none => s
  | some c =>
    let c1 := { c with waiting := c.waiting - 1, stale := if landed then c.stale else c.stale + 2 ^ k }
    if !counted then s.abortCopy command c1 .overrun
    else ({ s with copies := Tab.put s.copies command c1 }).finishMcast command c1

end Sys2Proof.Machine
end

