-- ==== Sys2Proof/Machine/Matrix.lean ====
section
/-!
DEFINITION. The matrix engine (10): convergence registers and sets, `cvdecl`, `mma` and `mmas`, the start and
the computation of an operation, and the accumulator accesses `cva` and `acw`.
-/
namespace Sys2Proof.Machine

/-! ### Formats and scopes (R218, R219) -/

/-- Element width in bits, and the array's K × N of a format. -/
def matWidth (fmt : Nat) : Nat := match fmt with
  | 0 | 2 => 8
  | 1 | 3 => 4
  | _ => 16
def matK (fmt : Nat) : Nat := 512 / matWidth fmt
def matN (fmt : Nat) : Nat := if matWidth fmt = 4 then 256 else 128

def matMarker (fmt : Nat) : Bool := decide (fmt ≤ 1)
def matInt (fmt : Nat) : Bool := fmt == 2 || fmt == 3

/-- B registers of a signer, and with the scale register. -/
def matRegs (sc : CvScope) (fmt : Nat) : Nat :=
  let r := if matWidth fmt = 4 then 4 else 2
  (if sc = .core then r else 4 * r) + if matMarker fmt then 1 else 0

/-- Columns of C. -/
def matCols (sc : CvScope) (fmt : Nat) : Nat := if sc = .group then matN fmt / 4 else matN fmt

/-- The greatest M of a scope. -/
def maxRows : CvScope → Nat
  | .core => 512
  | _ => 128

def scopeCode : CvScope → Nat
  | .group => 0
  | .quad => 1
  | .core => 2

/-! ### Parameters (R232) -/

/-- The four parameter words. -/
structure MatParams where
  a : Word
  c : Word
  nobar : Bool
  zero : Bool
  fmt : Nat
  rows : Nat
  bar : Word
  phase : Word
  ok : Bool
  deriving DecidableEq, Repr

def matParams (ps : List Word) : MatParams :=
  let w := nth ps 2 0
  let nobar := wbit w 31
  let fmt := wbits w 29 27
  { a := nth ps 0 0, c := nth ps 1 0, nobar := nobar, zero := wbit w 30, fmt := fmt, rows := 4 * (wbits w 26 20 + 1)
    bar := toWord (wbits w 17 0 * 16), phase := nth ps 3 0
    ok := decide (fmt ≤ 5) && wbits w 19 18 == 0 && (!nobar || wbits w 17 0 == 0) }

/-! ### Sets (R228, R229) -/

/-- Whether a block has the name cv on a core (R228). -/
def Block.hasCv (b : Block) (core cv : Nat) : Bool :=
  b.seats.any fun e => e.core == core && decide (cv < e.cv.length)

def Block.putSet (b : Block) (core cv : Nat) (c : CvSet) : Block := { b with cvs := Tab.put b.cvs (cvKey core cv) c }

def CvSet.full (c : CvSet) : Bool := c.sigs.length == c.count

/-- The set as sr.fops5 and the CONVERGE record lay it out (R237). -/
def setWord (cv : Nat) (sc : CvScope) (count : Nat) : Word := toWord (cv + scopeCode sc * 2 ^ 4 + count * 2 ^ 16)

/-- A fresh Open set. -/
def openSet (sc : CvScope) (count : Nat) : CvSet where
  scope := sc
  count := count
  sigs := []
  first := none
  word := 0
  params := []
  regions := []
  aBank := 0
  barBank := none
  lost := false
  seq := 0
  closed := none

/-- The subsets of a core that the matrix scoreboard held and holds no longer are eligible again (R235); the end of a hold
wakes the core as a result of its matrix engine does (02 R46, R47). -/
def State.retryCore (s : State) (core : Nat) : State :=
  let s1 := if s.groups.any fun p => p.2.core == core && p.2.waiting.any (s.holdEnded p.1 p.2) then s.noteWake core 2 else s
  { s1 with groups := s1.groups.map fun p => if p.2.core = core then (p.1, s.retryMatrix p.1 p.2) else p }

/-- `cvdecl` (R230). -/
def execCvdecl (o : CvdeclOp) (s : State) : Host.Outcome State Fault Refusal :=
  stepWord false o.park (fun s g x =>
    match s.blockOf x with
    | none => .ok s
    | some b =>
      let cv := o.cv.toNat
      if !b.hasCv x.core cv then illegal s
      else
        let fresh := openSet o.scope o.count.toNat
        match Tab.get b.cvs (cvKey x.core cv) with
        | none => .ok (s.modBlock x.block fun b => b.putSet x.core cv fresh)
        | some c =>
          if c.closed.isSome then s.holdMatrix g x { closed := some cv }
          else if c.scope == o.scope && c.count == o.count.toNat then .ok s
          else .trap { cause := .converge, ops := [s.word, setWord cv c.scope c.count] }) s

/-! ### Signatures (R220, R222, R224, R233) -/

/-- The check of the A address (R220). -/
def checkA (b : Block) (p : MatParams) : Except Cause Nat :=
  if addrArea p.a != 0 then .error .bankbound else b.checkAt .act 64 (64 * p.rows) p.a

/-- The slots that a C region touches: (slot, offset, bytes) (R224). -/
def regionSlots : Nat → Nat → Nat → List (Nat × Nat × Nat)
  | 0, _, _ => []
  | n + 1, lam, bytes =>
    if bytes = 0 then []
    else
      let here := min bytes (2 ^ 18 - lam % 2 ^ 18)
      (lam / 2 ^ 18, lam % 2 ^ 18, here) :: regionSlots n (lam + here) (bytes - here)

/-- The check of the C region: its pieces by bank (R224). -/
def checkC (b : Block) (p : MatParams) (cols : Nat) : Except Cause (List (Nat × Nat × Nat)) :=
  let lam := addrSlot p.c * 2 ^ 18 + addrOff p.c
  let ps := regionSlots 33 lam (8 * p.rows * cols)
  if wbits p.c 31 24 != 0 || addrArea p.c != 0 || addrOff p.c % 8 != 0
      || (ps.any fun q => decide (b.window .acc ≤ q.1)) then .error .bankbound
  else if ps.any fun q => (b.bank? .acc q.1).isNone then .error .detached
  else .ok (ps.filterMap fun q => (b.bank? .acc q.1).map fun k => (k, q.2.1, q.2.2))

/-- The check of the fence object (R233). -/
def checkBar (b : Block) (p : MatParams) : Except Cause (Option Nat) :=
  if p.nobar then .ok none
  else
    match b.checkAt .scr 16 16 p.bar with
    | .ok key => .ok (some (keyBank key))
    | .error c => .error c

/-- The position of a lane as a signer of a scope (R219). -/
def signPos (sc : CvScope) (x : Group) (l : Nat) : Nat :=
  match sc with
  | .core => 64 * x.part + (x.first + l)
  | .quad => 64 * (x.part % 4) + (x.first + l)
  | .group => l

/-- Whether a group may sign a set: it lies in the quad, or is the group, of the first signature. -/
def CvSet.admits (c : CvSet) (g : Nat) (x : Group) : Bool :=
  match c.first with
  | none => true
  | some (o, _, part) =>
    match c.scope with
    | .core => o.core == x.core
    | .quad => o.core == x.core && part / 4 == x.part / 4
    | .group => o.group == g

/-- The word as it is compared: bit 30 is left out (R233). -/
def signWord (w : Word) : Word := w &&& 0xBFFFFFFF

/-- The signatures of the active fibres. -/
def newSigs (sc : CvScope) (g : Nat) (x : Group) (a n : Nat) : List Signature :=
  (lanesOf x.active).map fun l => { group := g, lane := l, pos := signPos sc x l, reg := a, regs := n }

/-- The body of `mma` and `mmas` (R233). -/
def bodySign (cv a b : Nat) : Body := fun s g x =>
  match s.blockOf x with
  | none => .ok s
  | some blk =>
    if !blk.hasCv x.core cv then illegal s
    else
      aligned [b] (checked { uniR := (List.range 4).map (b + ·), win := [a] } fun s g x =>
        let ps := (List.range 4).map fun j => x.uni (b + j)
        let p := matParams ps
        if !p.ok then illegal s
        else
          match Tab.get blk.cvs (cvKey x.core cv) with
          | none => .trap { cause := .converge, ops := [s.word, setWord cv .group 0] }
          | some c =>
            let converge : Done := .trap { cause := .converge, ops := [s.word, setWord cv c.scope c.count] }
            let n := matRegs c.scope p.fmt
            if c.closed.isSome then converge
            else
              match x.outside ((List.range n).map (a + ·)) with
              | some r => .trap { cause := .window, ops := [s.word, toWord r] }
              | none =>
                if maxRows c.scope < p.rows then illegal s
                else
                  match checkA blk p with
                  | .error e => .trap { cause := e, ops := [s.word, p.a] }
                  | .ok ka =>
                    match checkC blk p (matCols c.scope p.fmt) with
                    | .error e => .trap { cause := e, ops := [s.word, p.c] }
                    | .ok regions =>
                      match checkBar blk p with
                      | .error e => .trap { cause := e, ops := [s.word, p.bar] }
                      | .ok bar =>
                        let sigs := newSigs c.scope g x a n
                        let poss := sigs.map Signature.pos
                        if c.first.isSome && (signWord c.word != signWord s.word || c.params != ps) then converge
                        else if !c.admits g x || !decide poss.Nodup || c.count < c.sigs.length + sigs.length
                            || (poss.any fun q => c.sigs.any fun e => e.pos == q) then converge
                        else
                          let c1 : CvSet := if c.first.isSome then c
                            else { c with first := some (s.origin g x, s.issuePc x, x.part), word := s.word
                                          params := ps, regions := regions, aBank := keyBank ka, barBank := bar }
                          let c2 := { c1 with sigs := c1.sigs ++ sigs, seq := s.ord.seq }
                          if c2.full then
                            .ok (({ s with cvClosed := s.cvClosed + 1 }.modBlock x.block fun t =>
                              t.putSet x.core cv { c2 with closed := some s.cvClosed }).bumpSeq)
                          else .ok ((s.modBlock x.block fun t => t.putSet x.core cv c2).bumpSeq)) s g x

/-- `mma` (R233). -/
def execMma (o : MmaOp) (s : State) : Host.Outcome State Fault Refusal :=
  stepWord false o.park (bodySign o.cv.toNat o.a.toNat o.b.toNat) s

/-- `mmas` (R233). -/
def execMmas (o : MmaOp) (s : State) : Host.Outcome State Fault Refusal :=
  stepWord false o.park (bodySign o.cv.toNat o.a.toNat o.b.toNat) s

/-! ### Start and abort (R234, R237) -/

/-- The array quarters of a core that an operation uses, as 4 · quad + quarter (R219). -/
def usedQuarters (sc : CvScope) (part : Nat) : List Nat :=
  match sc with
  | .core => List.range 16
  | .quad => (List.range 4).map (4 * (part / 4) + ·)
  | .group => [part]

/-- The record of an asynchronous matrix fault (R237). -/
def matFault (s : State) (cause : Cause) (pc : CodeAddr) (params : List Word) (word : Word) (cv : Nat) (sc : CvScope)
    (count : Nat) : FaultRec :=
  asyncRec s cause 0 2 pc (params.take 4 ++ [word, setWord cv sc count]) 0

/-- A set is removed: its registers are no longer lent, its region is not busy, its register is Idle. -/
def State.dropSet (s : State) (block core cv : Nat) : State :=
  (s.modBlock block fun b => { b with cvs := Tab.del b.cvs (cvKey core cv) }).retryCore core

/-- Conditions 1 to 4 of R234. -/
def State.isReady (s : State) (core : Nat) (p : MatParams) (c : CvSet) (part : Nat) : Bool :=
  let fence := match c.barBank with
    | none => true
    | some k => s.phaseAt k (addrOff p.bar) != p.phase
  let ready := c.sigs.all fun q => match s.group? q.group with
    | none => true
    | some x => (List.range q.regs).all fun j => !x.isPending q.lane (q.reg + j)
  let n := match c.closed with
    | some n => n
    | none => 0
  let used := usedQuarters c.scope part
  let free := s.matOps.all fun m => m.org.core != core || !(m.quarters.any used.contains)
  let earlier := (s.matOps.any fun m => m.org.core == core && decide (m.closed < n) && piecesMeet m.regions c.regions)
    || s.blocks.any fun b => b.2.cvs.any fun q => q.1 / 8 == core && (match q.2.closed with
      | some k => decide (k < n)
      | none => false) && piecesMeet q.2.regions c.regions
  fence && ready && free && !earlier

/-- A set may start when it is ready and no set of the core that closed earlier is: ready sets start in the order in
which they closed (R234). -/
def State.mayStart (s : State) (core : Nat) (p : MatParams) (c : CvSet) (part : Nat) : Bool :=
  s.isReady core p c part && !s.blocks.any fun b => b.2.cvs.any fun q =>
    q.1 / 8 == core && !q.2.lost && match q.2.closed, c.closed, q.2.first with
      | some k, some n, some (_, _, r) => decide (k < n) && s.isReady core (matParams q.2.params) q.2 r
      | _, _, _ => false

/-- The registers of the signers, by position. A lane keeps its registers after its fibre ends (R238). -/
def State.capture (s : State) (c : CvSet) : List (Nat × List Word) :=
  c.sigs.map fun q => (q.pos, match s.group? q.group with
    | some x => x.regList q.lane q.reg q.regs
    | none => [])

/-- The start of a set with a fence phase is an acquire at clu scope for its signers: it covers the tags that their loads
have returned, and asks for promotions (12 R271, R273). -/
def State.fenceAcquire (s : State) (core : Nat) (p : MatParams) (signers : List Nat) : State :=
  if p.nobar then s
  else (signers.foldl (fun l g => insertNat l g) []).foldl (fun s g => s.acquire g .clu) (s.discardInside core .clu)

/-- MMA_SET_START (R234): a Closed set whose conditions hold starts: B is captured and the registers are
released. A set that has lost a slot aborts (R237). -/
def execMmaSetStart (block core cv : Nat) (s : State) : Host.Outcome State Fault Refusal :=
  match s.block? block with
  | none => .next s
  | some b =>
    match Tab.get b.cvs (cvKey core cv) with
    | none => .next s
    | some c =>
      match c.first with
      | none => .next s
      | some (o, pc, part) =>
        let p := matParams c.params
        if !b.hasCv core cv then .next s
        else if c.lost then
          .next ((s.dropSet block core cv).holdFault o
            (matFault s .detached pc c.params c.word cv c.scope c.count) none none)
        else
          match c.closed with
          | none => .next s
          | some n =>
            if s.mayStart core p c part then
              let m : MatOp :=
                { org := o, cv := cv, scope := c.scope, count := c.count, word := c.word, params := c.params, pc := pc
                  regions := c.regions, aBank := c.aBank, quarters := usedQuarters c.scope part
                  captured := s.capture c, signers := c.sigs.map Signature.group, seq := c.seq, closed := n }
              .next (({ s with matOps := s.matOps ++ [m] }.dropSet block core cv).fenceAcquire core p m.signers)
            else .next s

/-! ### The computation (R220-R227) -/

/-- Where element (k, n) of B is held: the signer's position, the register of its group, the element in it,
and the sub-position whose scale byte applies (R222, R223). -/
def holder (sc : CvScope) (fmt k n : Nat) : Nat × Nat × Nat × Nat :=
  let w := matWidth fmt
  let r := if w = 4 then 4 else 2
  let e := 32 / w
  let E := r * e
  let c4 := matN fmt / 4
  let q := n / c4
  let L := k / E * c4 + n % c4
  let j := k % E / e
  match sc with
  | .core => (256 * q + L, j, k % e, 0)
  | .quad => (L, q * r + j, k % e, q)
  | .group => (L % 64, L / 64 * r + j, k % e, L / 64)

/-- A factor of a product: its element's code, and its scale. -/
structure Factor where
  code : Nat
  scale : Nat
  deriving DecidableEq, Repr

/-- The value of an element without its scale. -/
def matValue (fmt code : Nat) : FNum :=
  match fmt with
  | 0 => markDecode 7 code
  | 1 => markDecode 3 code
  | 2 => intNum (sxNat code 8)
  | 3 => intNum (sxNat code 4)
  | 4 => f16.decode code
  | _ => bf16.decode code

/-- Element (k, n) of B as captured; a position without a signer gives zero. -/
def MatOp.bAt (m : MatOp) (fmt k n : Nat) : Factor :=
  let w := matWidth fmt
  let h := holder m.scope fmt k n
  match m.captured.find? fun p => p.1 == h.1 with
  | none => { code := 0, scale := 127 }
  | some (_, ws) =>
    let code := field (nth ws h.2.1 0).toNat (w * h.2.2.1 + w - 1) (w * h.2.2.1)
    let sreg := nth ws (matRegs m.scope fmt - 1) 0
    { code := code, scale := if matMarker fmt then field sreg.toNat (8 * h.2.2.2 + 7) (8 * h.2.2.2) else 127 }

/-- The dense row of A from a compressed one: the units under a bitmap (R221). -/
def unpackRow (units : Nat) (unit : Nat) (bitmap v : Nat) : Nat :=
  ((List.range units).foldl (fun (a : Nat × Nat) u =>
    if bitmap.testBit u then (a.1 + field v (unit * a.2 + unit - 1) (unit * a.2) <<< (unit * u), a.2 + 1) else a)
    (0, 0)).1

/-- Row m of A, dense, as one number. -/
def MatOp.aRow (s : State) (o : MatOp) (p : MatParams) (m : Nat) : Nat :=
  let off := addrOff p.a + 64 * m
  let v := ofBytes (s.readHome (bankKey o.aBank .data off) 64)
  if wbit o.word 21 then
    let bits := ofBytes (s.readHome (bankKey o.aBank .bitmap (off / 8)) 8)
    if matWidth p.fmt = 16 then unpackRow 32 16 bits v else unpackRow 64 8 bits v
  else v

/-- The elements of row m of A. -/
def MatOp.aFactors (s : State) (o : MatOp) (p : MatParams) (m : Nat) : List Factor :=
  let w := matWidth p.fmt
  let row := o.aRow s p m
  (List.range (matK p.fmt)).map fun k =>
    let i := ((addrOff p.a + 64 * m) * 8 / w + k) / 32
    { code := field row (w * k + w - 1) (w * k)
      scale := if matMarker p.fmt then (Memory.read s.mem (bankKey o.aBank .scale i)).toNat else 127 }

/-- The product of two elements with their scales; none when one of them is zero (R106, R225). -/
def matTerm (fmt : Nat) (a b : Factor) : Option FNum :=
  let x := matValue fmt a.code
  let y := matValue fmt b.code
  if x.isZero || y.isZero then none
  else if x.isNan || y.isNan || (matMarker fmt && (a.scale == 255 || b.scale == 255)) then some (.nan false)
  else
    match x, y with
    | .fin n1 m1 e1, .fin n2 m2 e2 =>
      let sh : Int := if matMarker fmt then (a.scale : Int) + b.scale - 254 else 0
      some (.fin (n1 != n2) (m1 * m2) (e1 + e2 + sh))
    | _, _ => some (.inf (x.neg? != y.neg?))

/-- The exact sum of finite values. -/
def finSum (l : List FNum) : Bool × Nat × Int :=
  l.foldl (fun a t => match t with
    | .fin n m e => finAdd a.1 a.2.1 a.2.2 n m e
    | _ => a) (false, 0, 0)

/-- The new value of an acc40 entry, and its flags (R225). -/
def accSum (c : FNum) (ts : List FNum) : Nat × Word :=
  let all := c :: ts
  if all.any FNum.isNan || ((all.any fun t => t.isInf && t.neg?) && (all.any fun t => t.isInf && !t.neg?)) then
    acc40.invalid
  else
    match all.find? FNum.isInf with
    | some t => (acc40.signed t.neg? acc40.infCode, 0)
    | none =>
      let x := finSum all
      if x.2.1 = 0 then (0, 0) else acc40.round .rn 0 x.1 x.2.1 1 x.2.2

/-- The flag byte of an entry from flags of the predicate word (R99). -/
def accFlags (f : Word) : Nat := wbits f 12 8
/-- The flags that an entry's flag byte stands for (R241). -/
def flagsOfAcc (n : Nat) : Word := toWord (n % 32 * 2 ^ 8)

/-- The new entry of C: `old` is the prior entry, or 0 when ZERO = 1 (R225, R226). -/
def newEntry (fmt : Nat) (old : Nat) (as bs : List Factor) : Nat :=
  let f0 := field old 44 40
  if matInt fmt then
    let c := sxNat old 40
    let sum := (as.zip bs).foldl (fun (t : Int) p =>
      t + sxNat p.1.code (matWidth fmt) * sxNat p.2.code (matWidth fmt)) c
    let r := clamp sum (-(2 ^ 39 - 1)) (2 ^ 39 - 1)
    (r % 2 ^ 40).toNat + (f0 ||| (if r = sum then 0 else 16)) * 2 ^ 40
  else
    let r := accSum (acc40.decode (old % 2 ^ 40)) ((as.zip bs).filterMap fun p => matTerm fmt p.1 p.2)
    r.1 + (f0 ||| accFlags r.2) * 2 ^ 40

/-- The key of entry i of C. -/
def MatOp.entryKey (o : MatOp) (i : Nat) : Nat :=
  (o.regions.foldl (fun (a : Nat × Option Nat) q =>
    match a.2 with
    | some _ => a
    | none => if a.1 < q.2.2 then (a.1, some (bankKey q.1 .data (q.2.1 + a.1))) else (a.1 - q.2.2, none))
    (8 * i, none)).2.getD 0

/-- Bytes of the slot of row m of A that are read: all 64, or the packed units that its bitmap counts (R221). -/
def MatOp.rowBytes (s : State) (o : MatOp) (p : MatParams) (m : Nat) : Nat :=
  if wbit o.word 21 then
    let bits := ofBytes (s.readHome (bankKey o.aBank .bitmap ((addrOff p.a + 64 * m) / 8)) 8)
    if matWidth p.fmt = 16 then 2 * ((List.range 32).filter bits.testBit).length
    else ((List.range 64).filter bits.testBit).length
  else 64

/-- Whether the engine would read an uncorrectable error: in A, its sidecars or the prior C (R237). -/
def MatOp.badReads (s : State) (o : MatOp) (p : MatParams) : Bool :=
  let off := addrOff p.a
  let w := matWidth p.fmt
  ((List.range p.rows).any fun m => s.anyError (bankKey o.aBank .data (off + 64 * m)) (o.rowBytes s p m))
    || (matMarker p.fmt && s.anyError (bankKey o.aBank .scale (off * 8 / w / 32)) (64 * p.rows * 8 / w / 32))
    || (wbit o.word 21 && s.anyError (bankKey o.aBank .bitmap (off / 8)) (8 * p.rows))
    || (!p.zero && o.regions.any fun q => s.anyError (bankKey q.1 .data q.2.1) q.2.2)

/-- C as the operation leaves it. -/
def State.multiply (s : State) (o : MatOp) (p : MatParams) : State :=
  let cols := matCols o.scope p.fmt
  let bcol := (List.range cols).map fun n => (List.range (matK p.fmt)).map fun k => o.bAt p.fmt k n
  (List.range p.rows).foldl (fun t m =>
    let as := o.aFactors s p m
    bcol.zipIdx.foldl (fun t q =>
      let key := o.entryKey (m * cols + q.2)
      let old := if p.zero then 0 else ofBytes (s.readHome key 8)
      t.engineWrite none none key (bytesOf 8 (newEntry p.fmt old as q.1))) t) s

/-- The bytes of A and of its sidecars that an operation reads: keys with lengths. -/
def MatOp.aRanges (o : MatOp) (p : MatParams) : List (Nat × Nat) :=
  let off := addrOff p.a
  let w := matWidth p.fmt
  [(bankKey o.aBank .data off, 64 * p.rows), (bankKey o.aBank .scale (off * 8 / w / 32), 64 * p.rows * 8 / w / 32),
    (bankKey o.aBank .bitmap (off / 8), 8 * p.rows)]

/-- A copy that a signer made before its signature has still to write what the operation reads of A (R236; DEDUCED,
log 40). -/
def State.copyPending (s : State) (o : MatOp) (p : MatParams) : Bool :=
  s.copies.any fun c => o.signers.contains c.2.org.group && decide (c.2.seq < o.seq)
    && rangesMeet (s.stillWrites c.1 c.2).1 (o.aRanges p)

/-- The acquire of an operation's start waits for promotions (12 R271). -/
def State.startWaits (s : State) (o : MatOp) : Bool := s.ord.promotions.any fun q => o.signers.contains q.group

/-- MMA_OP_COMPLETE (R234): operation `i` of those started reads A, its sidecars and C, after the stores that
its signers made before signing (R236), and writes C. One that meets an uncorrectable error writes no entry of C (R237 leaves
open how many it has written: DESIGN CHOICE, log 46). -/
def execMmaOpComplete (i : Nat) (s : State) : Host.Outcome State Fault Refusal :=
  match s.matOps[i]? with
  | none => .next s
  | some o =>
    let p := matParams o.params
    if s.copyPending o p || s.startWaits o then .next s
    else
      let s1 := ({ s with matOps := s.matOps.eraseIdx i }).settleCore o.signers o.org.core o.seq
      if o.badReads s1 p then
        .next ((s1.retryCore o.org.core).holdFault o.org
          (matFault s1 .ecc o.pc o.params o.word o.cv o.scope o.count) none none)
      else .next ((s1.multiply o p).retryCore o.org.core)

/-! ### Accumulator accesses (R240-R242) -/

/-- The keys of a lane's entries. -/
def entryKeys (key c : Nat) : List Nat := (List.range c).map fun j => key + 8 * j

/-- The rounding mode of a control word. -/
def modeNum (n : Nat) : Option RMode := modeOf? (BitVec.ofNat 3 n)

/-- The control word of `cva` is valid (R240). -/
def cvaOk (w : Word) : Bool :=
  let int := wbit w 12
  let tgt := wbits w 11 8
  let rm := wbits w 2 0
  wbits w 31 13 == 0 && wbits w 5 3 == 0 && decide (tgt ≤ 6)
    && (if tgt = 6 then rm == 0 else if tgt = 5 then (if int then rm == 0 else decide (rm ≤ 3)) else decide (rm ≤ 4))

/-- A value rounded to a target: its code in the low bits (R241). -/
def roundTo (tgt : Nat) (m : RMode) (r : Word) (x : FNum) : Nat × Word :=
  match tgt with
  | 0 => f32.deliver m r x
  | 1 => f16.deliver m r x
  | 2 => bf16.deliver m r x
  | 3 => markRound 7 m r x
  | _ => markRound 3 m r x

/-- The words that `cva` returns for an entry, and the flags of the conversion; `old` holds the register. -/
def cvaWords (w : Word) (e : Nat) (old : Word) : List Word × Word :=
  let tgt := wbits w 11 8
  if tgt = 6 then ([toWord e, toWord (e / 2 ^ 32)], 0)
  else
    let x := if wbit w 12 then intNum (sxNat e 40) else acc40.decode (e % 2 ^ 40)
    let v := if wbit w 7 && x.neg? && !x.isNan then FNum.fin false 0 0 else x
    let m := match modeNum (wbits w 2 0) with
      | some m => m
      | none => .rn
    if tgt = 5 then
      let y := floatToInt m (-(2 ^ 31)) (2 ^ 31 - 1) v
      if wbit w 12 then
        let z := if wbit w 7 then max 0 (sxNat e 40) else sxNat e 40
        let c := clamp z (-(2 ^ 31)) (2 ^ 31 - 1)
        ([intWord c], flagIf (c != z) flagSAT)
      else ([intWord y.1], y.2)
    else
      let r := roundTo tgt m old v
      ([toWord r.1], r.2)

/-- One lane of `cva`. -/
def cvaLane (g : Nat) (x : Group) (w : Word) (d c a b : Nat) (s : State) (p : Nat × Nat) : State :=
  let per := if wbits w 11 8 = 6 then 2 else 1
  let clears := wbit w 6 && !x.isHelper p.1 && x.runAhead.isNone
  let bytes := (List.range (8 * c)).map (p.2 + ·)
  let s0 := if clears then s.bringHome x.core s.ord.seq bytes else s
  let v := s0.loadBytes x.core (some g) none p.2 (8 * c)
  let es := (List.range c).map fun j => ofBytes ((v.1.drop (8 * j)).take 8)
  let out := es.zipIdx.map fun q => cvaWords w q.1 (x.reg p.1 (d + q.2))
  let fl := out.foldl (fun f q => f ||| q.2) (0 : Word) ||| es.foldl (fun f e => f ||| flagsOfAcc (field e 44 40)) 0
  let s1 := s0.modGroup g fun y => ((y.setPend p.1 d (per * c) .load).addTags v.2.1).orFlags p.1 fl
  let s2 := if clears then s1.atomicWrite none p.2 (bytesOf (8 * c) 0) (Tab.get s1.ord.curTags x.core) else s1
  let s3 := if clears then { s2 with errors := s2.errors.filter fun e =>
    !(decide (p.2 ≤ 8 * e) && decide (8 * e < p.2 + 8 * c)) } else s2
  s3.loadResult g x p.1 d (out.flatMap Prod.fst) v.2.2 4 [x.bankAddr p.1 a b, 0] (some (keyBank p.2))

/-- The course of `cva` and `acw`: the address, the control pair and the whole data group are checked for window and
pending bits, then the control word (03 R69), then R180 with 8-byte entries, then the hold of R235. A pending control
word does not say how many registers an entry takes: one is then checked for each. -/
def accWord (ok : Word → Bool) (per : Word → Nat) (write : Bool) (c : Nat)
    (k : Word → State → Nat → Group → List (Nat × Nat) → State) : LaneBody := fun d a b =>
  fun s g x =>
    let w := x.uni (b + 1)
    let rs := (List.range ((if x.isPending 0 (b + 1) then 1 else per w) * c)).map (d + ·)
    checked { laneR := a :: (if write then rs else []), laneW := if write then [] else rs, uniR := [b, b + 1] }
      (fun s g x =>
        if !ok w then illegal s
        else
          bankAccess .acc 8 (8 * c) (!write) a b (fun s g x _ ks =>
            if ks.any fun p => (entryKeys p.2 c).any fun key => s.busyAt x.core key then
              s.holdMatrix g x { entries := ks.flatMap fun p => entryKeys p.2 c }
            else .ok (k w s g x ks)) s g x) s g x

/-- `cva` (R241). -/
def bodyCva (c : Nat) : LaneBody := fun d a b =>
  accWord cvaOk (fun w => if wbits w 11 8 = 6 then 2 else 1) false c
    (fun w s g x ks => ks.foldl (cvaLane g x w d c a b) s) d a b

/-- The entry that `acw` writes (R242). -/
def acwEntry (src : Nat) (v v1 : Word) : Nat :=
  match src with
  | 0 => v.toNat + wbits v1 12 0 * 2 ^ 32
  | 1 => (acc40.deliver .rn 0 (fval v)).1
  | _ => (v.toInt % 2 ^ 40).toNat

/-- `acw` (R242). -/
def bodyAcw (c : Nat) : LaneBody := fun d a b =>
  accWord (fun w => wbits w 31 4 == 0 && decide (wbits w 3 0 ≤ 2)) (fun w => if wbits w 3 0 = 0 then 2 else 1) true c
    (fun w s g x ks =>
      if x.runAhead.isSome then s
      else
        let src := wbits w 3 0
        let one := fun (s : State) (p : Nat × Nat) =>
          (List.range c).foldl (fun s j =>
            let e := if src = 0 then acwEntry 0 (x.reg p.1 (d + 2 * j)) (x.reg p.1 (d + 2 * j + 1))
              else acwEntry src (x.reg p.1 (d + j)) 0
            s.storeBytes x.core g none (p.2 + 8 * j) true (bytesOf 8 e)) s
        ks.foldl one s) d a b

/-- `cva` (R240, R241). -/
def execCva (o : MemOp) (s : State) : Host.Outcome State Fault Refusal :=
  stepWord true o.park (bodyCva (sizeRegs o.size) o.d.toNat o.a.toNat o.b.toNat) s

/-- `acw` (R240, R242). -/
def execAcw (o : MemOp) (s : State) : Host.Outcome State Fault Refusal :=
  stepWord true o.park (bodyAcw (sizeRegs o.size) o.d.toNat o.a.toNat o.b.toNat) s

end Sys2Proof.Machine
end

