-- ==== Sys2Proof/Machine/Launch.lean ====
section
/-!
DEFINITION. Launches (11 R243-R252): the launch record and its checks, the placement of groups (02 R398), wait
lists and reservation, gangs, the start of a block, and completion words.
-/
namespace Sys2Proof.Machine

/-! ### The launch record (R243) -/

/-- The record's 96 bytes. -/
def launchRec (bs : List Byte) : LaunchRec :=
  let v := ofBytes bs
  let ctl := field v 255 192
  { code := field v 47 0, map := field v 115 64, root := field v 167 128 * 2 ^ 16
    narg := field ctl 45 42, nowait := ctl.testBit 41, gang := ctl.testBit 40, head := field ctl 39 38
    blklvl := field ctl 37 35, nlvl := field ctl 34 32, cls := field ctl 31 30, ncv := field ctl 29 26
    nacc := field ctl 25 21, nwgt := field ctl 20 16, nact := field ctl 15 11, nscr := field ctl 10 6
    ra := field ctl 5 2, wid := field ctl 1 0
    lvls := wordsOfBytes ((bs.drop 32).take 32), args := wordsOfBytes ((bs.drop 64).take 32) }

/-- The levels above the block level that multiply blocks, in order. -/
def LaunchRec.above (r : LaunchRec) : List Nat :=
  (List.range (r.nlvl + 1)).filter fun k => decide (r.blklvl < k) && lvlDom (r.lvl k) != 7

/-- Q_k: blocks in a unit of level k (R245). -/
def LaunchRec.unitBlocks (r : LaunchRec) (k : Nat) : Nat :=
  (r.above.filter (· ≤ k)).foldl (fun p j => p * lvlExt (r.lvl j)) 1

def LaunchRec.blockCount (r : LaunchRec) : Nat := r.unitBlocks 7

/-! ### The checks (R244, R249) -/

/-- Row 1: reserved fields, CODE, NCV, NARG and the slots. -/
def recordOk (bs : List Byte) : Bool :=
  let v := ofBytes bs
  let r := launchRec bs
  field v 63 48 == 0 && field v 127 116 == 0 && field v 191 168 == 0 && field v 255 238 == 0
    && (r.lvls.all fun w => wbits w 31 22 == 0) && ((r.lvls.drop (r.nlvl + 1)).all (· == 0))
    && r.code % 4 == 0 && decide (r.ncv ≤ 8) && decide (r.narg ≤ 8) && decide (r.slots ≤ 16)

/-- The narrowest scope that a domain permits, and the fibres that a domain holds (R244). -/
def domainScope (d : Nat) : Nat := match d with
  | 0 => 0
  | 1 | 2 | 3 => 1
  | 4 => 2
  | 5 | 6 => 3
  | _ => 5
def domainFibres (width d : Nat) : Nat := match d with
  | 0 => width
  | 1 => 256
  | 2 => 1024
  | 3 => 4096
  | _ => 6144

/-- Row 2: the rules of R244. -/
def levelsOk (r : LaunchRec) (rank : Nat) : Bool :=
  let ks := List.range (r.nlvl + 1)
  let dom := fun k => lvlDom (r.lvl k)
  decide (r.blklvl ≤ r.nlvl) && dom 0 == 0 && lvlExt (r.lvl 0) == r.width
    && ks.all (fun k =>
      lvlExt (r.lvl k) != 0 && decide (lvlScope (r.lvl k) ≤ 5)
        && decide (domainScope (dom k) ≤ lvlScope (r.lvl k))
        && (k == 0 || decide (dom (k - 1) ≤ dom k)) && (dom k != 7 || k == r.nlvl)
        && (decide (r.blklvl < k)
          || (decide (dom k ≤ 4) && decide (r.prodBelow (k + 1) ≤ domainFibres r.width (dom k))))
        && (dom k != 7 || (decide (lvlExt (r.lvl k) ≤ 576) && decide (rank < lvlExt (r.lvl k)))))
    && decide (r.blockFibres ≤ 6144) && decide (r.blockCount ≤ 65536)

/-! Placement maps (R248). -/

def entryCl (e : Word) : Bool := wbit e 31
def entryCores (e : Word) : Nat := wbits e 9 8 + 1
def entryCore (e : Word) : Nat := wbits e 7 0

/-- The cluster that an entry places its block in. -/
def entryCluster (e : Word) : Nat := if entryCl e then entryCore e else clusterOf (entryCore e)

/-- An entry's own part of row 3. -/
def entryOk (r : LaunchRec) (e : Word) : Bool :=
  let c := entryCore e
  let n := entryCores e
  wbits e 30 10 == 0 && (n == 1 || lvlDom (r.lvl r.blklvl) == 4)
    && (if entryCl e then decide (c ≤ 15)
        else decide (c ≤ 191) && decide (c + n ≤ 192) && clusterOf c == clusterOf (c + n - 1))

/-- Two entries of one unit of a core-domain or cluster-domain level agree (R248). -/
def entriesAgree (dom : Nat) (e f : Word) : Bool :=
  if dom = 3 then entryCl e == entryCl f && entryCore e == entryCore f else entryCluster e == entryCluster f

/-- Row 3 for entry b of a map. -/
def mapEntryOk (r : LaunchRec) (map : List Word) (b : Nat) : Bool :=
  let e := nth map b 0
  entryOk r e && (r.above.filter fun k => lvlDom (r.lvl k) == 3 || lvlDom (r.lvl k) == 4).all fun k =>
    let q := r.unitBlocks k
    entriesAgree (lvlDom (r.lvl k)) (nth map (b / q * q) 0) e

/-! ### Places of groups (R398) -/

def overlapNat (a n b m : Nat) : Bool := decide (a < b + m) && decide (b < a + n)

/-- Whether a place is free of the places taken: its lanes in its row, and its registers in its lane columns. -/
def Spot.free (occ : List Spot) (q : Spot) : Bool :=
  occ.all fun o => o.part != q.part || !overlapNat o.first o.width q.first q.width
    || (o.row != q.row && !overlapNat o.wbase o.wsize q.wbase q.wsize)

/-- The place of a group within a partition: lowest row, then lowest lane, then lowest window base. -/
def spotIn (occ : List Spot) (part w ws : Nat) : Option Spot :=
  (List.range 4).findSome? fun row =>
    (List.range (64 / w)).findSome? fun i =>
      ((List.range 32).map fun j => { part := part, row := row, first := i * w, width := w, wbase := 8 * j, wsize := ws
                                      fibres := w : Spot }).find? fun q =>
        decide (q.wbase + ws ≤ 256) && q.free occ

/-- The partition with the fewest fibres among some; the lower among equals. -/
def emptiest (occ : List Spot) (parts : List Nat) : Option Nat :=
  let count := fun p => (occ.filter fun o => o.part == p).foldl (fun n o => n + o.fibres) 0
  parts.foldl (fun best p => match best with
    | none => some p
    | some q => if count p < count q then some p else best) none

/-- The partitions that a group of a block may go to, given those that earlier groups of the block on this core
took: (group number, partition). -/
def allowedParts (r : LaunchRec) (taken : List (Nat × Nat)) (g : Nat) : List Nat :=
  ((List.range (r.blklvl + 1)).filter fun k => lvlDom (r.lvl k) == 1 || lvlDom (r.lvl k) == 2).foldl (fun ps k =>
    let p := r.prodBelow (k + 1)
    match taken.find? fun t => t.1 * r.width / p == g * r.width / p with
    | none => ps
    | some (_, q) => ps.filter fun x => if lvlDom (r.lvl k) = 1 then x == q else x / 4 == q / 4) (List.range 16)

/-- Places for groups of a block on one core, one at a time. -/
def placeGroups (r : LaunchRec) : List Nat → List (Nat × Nat) → List Spot → Option (List Spot)
  | [], _, _ => some []
  | g :: t, taken, occ =>
    match emptiest occ (allowedParts r taken g) with
    | none => none
    | some p =>
      match spotIn occ p r.width r.wsize with
      | none => none
      | some q => (placeGroups r t (taken ++ [(g, p)]) (occ ++ [q])).map (q :: ·)

/-- The groups that core j of n gets (R248). -/
def corePart (groups n j : Nat) : List Nat :=
  (List.range ((j + 1) * groups / n - j * groups / n)).map (j * groups / n + ·)

/-- Whether the parts of a block on n cores keep the units of its partition, quad and core domains whole: each such unit
lies inside one core (R245). -/
def unitsWhole (r : LaunchRec) (n : Nat) : Bool :=
  (List.range n).all fun j => (List.range (r.blklvl + 1)).all fun k =>
    !(lvlDom (r.lvl k) == 1 || lvlDom (r.lvl k) == 2 || lvlDom (r.lvl k) == 3)
      || j * r.blockGroups / n * r.width % r.prodBelow (k + 1) == 0

/-- Row 4 for an entry: every part of the block fits an empty core, and no unit that must lie inside one core is cut
(R245, R248; DEDUCED, log 45). -/
def fitsEmpty (r : LaunchRec) (e : Word) : Bool :=
  unitsWhole r (entryCores e) && (List.range (entryCores e)).all fun j =>
    (placeGroups r (corePart r.blockGroups (entryCores e) j) [] []).isSome

/-- The reason that rows 3 and 4 reject a map for, with the index of the first failing entry. -/
def mapReason (r : LaunchRec) (map : List Word) : Nat × Nat :=
  match (List.range map.length).find? fun b => !mapEntryOk r map b with
  | some b => (3, b)
  | none =>
    match (List.range map.length).find? fun b => !fitsEmpty r (nth map b 0) with
    | some b => (4, b)
    | none => (0, 0)

/-! ### Reading the record and the map (R249) -/

/-- Bytes of a physical range as the front end reads them at their home; none beyond memory or with an error. -/
def State.readPhys (s : State) (host : Bool) (pa n : Nat) : Option (List Byte) :=
  if !host && decide (deviceEnd < pa % 2 ^ 56 + n) then none
  else
    let key := physKey host pa
    let r := s.engineRead (s.compAt key) key n
    if r.2 then none else some r.1

/-- Bytes at a virtual address that lie in one 64 KiB page, as the front end reads them; none where they cannot be read. -/
def State.readVirtual (s : State) (root va n : Nat) : Option (List Byte) × State :=
  match s.translate root va .read with
  | (.page p, s1) => let r := s1.engineRead p.comp p.key n; (if r.2 then none else some r.1, s1)
  | (_, s1) => (none, s1)

/-- The map's entries through the launch's address space; none when one cannot be read. An entry may cross a page. -/
def readMap (root map : Nat) : Nat → Nat → State → Option (List Word) × State
  | 0, _, s => (some [], s)
  | n + 1, b, s =>
    let va := map + 4 * b
    let here := min 4 (2 ^ 16 - va % 2 ^ 16)
    match s.readVirtual root va here with
    | (none, s1) => (none, s1)
    | (some lo, s1) =>
      match (if here = 4 then (some [], s1) else s1.readVirtual root (va + here) (4 - here)) with
      | (none, s2) => (none, s2)
      | (some hi, s2) =>
        let t := readMap root map n (b + 1) s2
        (t.1.map (toWord (ofBytes (lo ++ hi)) :: ·), t.2)

/-- What the checks of R249 find: the record, the map, and a reason with its place; `lost` is the cause that
kept the record from being read. -/
structure Checked where
  record : LaunchRec
  map : List Word
  reason : Nat
  place : Nat
  lost : Option Cause
  deriving DecidableEq, Repr

/-- The checks of R249 in their order. `pixel` leaves out the map: a pixel launch has none (18 R343). -/
def State.checkLaunch (s : State) (pa rank : Nat) (pixel : Bool) : Checked × State :=
  let no := launchRec []
  match s.readPhys false pa 96 with
  | none =>
    let cause := if deviceEnd < pa % 2 ^ 56 + 96 then Cause.protect else Cause.ecc
    ({ record := no, map := [], reason := 5, place := 0, lost := some cause }, s)
  | some bs =>
    let r := launchRec bs
    if !recordOk bs then ({ record := r, map := [], reason := 1, place := 0, lost := none }, s)
    else if !levelsOk r rank then ({ record := r, map := [], reason := 2, place := 0, lost := none }, s)
    else if pixel then
      ({ record := r, map := [], reason := if fitsEmpty r 0 then 0 else 4, place := 0, lost := none }, s)
    else
      match readMap r.root r.map r.blockCount 0 s with
      | (none, s1) => ({ record := r, map := [], reason := 5, place := 0, lost := none }, s1)
      | (some m, s1) =>
        let f := mapReason r m
        ({ record := r, map := m, reason := f.1, place := f.2, lost := none }, s1)

/-! ### Accepting a launch -/

/-- A block that waits (R250). -/
def waitingBlock (launch num : Nat) (e : Word) : Block where
  launch := launch
  num := num
  entry := e
  phase := .waiting
  cores := if entryCl e then [] else (List.range (entryCores e)).map (entryCore e + ·)
  seats := []
  groups := []
  bs := List.replicate 16 0
  tvec := 0
  tvecHi := 0
  slots := []
  cvs := []
  area := 0
  areaLen := 0
  started := 0
  issued := false
  pixels := []
  arrivals := []
  saved := []
  yieldsTo := none
  moveTo := none
  reserved := []
  newBanks := []
  moveRing := none

/-- Adds a launch whose blocks wait, one for each map entry given; a rejected launch has none. -/
def State.addLaunch (s : State) (l : Launch) (entries : List (Nat × Word)) : State :=
  let (id, s1) := s.fresh
  let first := s1.nextId
  let l1 := { l with first := first, count := entries.length, left := entries.length }
  let blocks := entries.zipIdx.map fun p => (first + p.2, waitingBlock id p.1.1 p.1.2)
  { s1 with
    nextId := first + entries.length
    launches := Tab.put s1.launches id l1
    blocks := blocks.foldl (fun t p => Tab.put t p.1 p.2) s1.blocks }

/-- The launch of a checked record; a rejection is REFUSED with its reason. -/
def newLaunch (s : State) (c : Checked) (pa source comp rank : Nat) : Launch where
  record := c.record
  recPa := pa
  source := source
  stamp := s.tsc
  comp := comp
  rank := rank
  map := c.map
  first := 0
  count := 0
  left := 0
  gang := c.record.gang && c.reason == 0
  unitCores := []
  flush := []
  status := if c.reason = 0 then 0 else 4
  reason := c.reason
  place := c.place
  noRoot := c.lost
  word := .due
  ring := none
  slow := false
  queue := none
  pass := none

/-! ### Wait lists (R250) -/

/-- The order of blocks on wait lists: class, a block that returns to the head of its class, the command's time
stamp, the source, the launch, the block number. -/
def State.waitKey (s : State) (id : Nat) (b : Block) : List Nat :=
  match Tab.get s.launches b.launch with
  | none => [id]
  | some l => [l.record.cls, if b.phase = .waiting ∧ b.moveTo.isNone then 1 else 0, l.stamp.toNat, l.source, b.launch, b.num]

def lexLess : List Nat → List Nat → Bool
  | [], [] => false
  | [], _ :: _ => true
  | _ :: _, [] => false
  | a :: s, b :: t => decide (a < b) || (a == b && lexLess s t)

/-- The entry that says where a block is to be placed. -/
def Block.target (b : Block) : Word :=
  match b.moveTo with
  | some (e, _) => e
  | none => b.entry

/-- Whether a block stands on the wait list of a core: a waiting one, of a gang too, on the lists of its entry; a saved one on
those of its cores; one that a MOVE has named on those of its new cores. -/
def Block.standsOn (b : Block) (core : Nat) : Bool :=
  let on := fun (e : Word) => if entryCl e then clusterOf core == entryCore e
    else decide (entryCore e ≤ core) && decide (core < entryCore e + entryCores e)
  match b.moveTo, b.phase with
  | some (e, _), _ => b.reserved.isEmpty && on e
  | none, .waiting => on b.entry
  | none, .saved => b.cores.contains core
  | none, _ => false

/-- Whether a block is the first on the wait list of a core. -/
def State.firstOn (s : State) (id : Nat) (b : Block) (core : Nat) : Bool :=
  !s.blocks.any fun p => p.1 != id && p.2.standsOn core && lexLess (s.waitKey p.1 p.2) (s.waitKey id b)

/-! ### Room on a core -/

/-- The places taken on a core: a group's lanes and window return when its last fibre ends (02 R23). -/
def State.taken (s : State) (core : Nat) : List Spot :=
  ((s.groups.filter fun p => p.2.core == core && !p.2.fibres.isEmpty).map fun p =>
    { part := p.2.part, row := p.2.row, first := p.2.first, width := p.2.width, wbase := p.2.wbase
      wsize := p.2.wsize, fibres := p.2.fibres.length })
    ++ s.blocks.flatMap fun p => (p.2.reserved.filter fun e => e.1.core == core).flatMap fun e => e.2.map Prod.snd

/-- The seats of a core, those held for a block that moves there among them. -/
def State.seatsOn (s : State) (core : Nat) : List Seat :=
  s.blocks.flatMap fun p => (p.2.seats ++ p.2.reserved.map Prod.fst).filter fun e => e.core == core

/-- The lowest numbers below a bound that a list does not hold. -/
def freeNumbers (bound : Nat) (used : List Nat) : List Nat := (List.range bound).filter fun n => !used.contains n

/-- A seat on a core for a block with so many slots and convergence registers: the lowest resident number, map
registers and convergence registers (02 R42, 08 R176, 10 R228). -/
def State.newSeat (s : State) (core slots cvs : Nat) : Option Seat :=
  let es := s.seatsOn core
  let bm := freeNumbers 16 (es.flatMap Seat.bm)
  let cv := freeNumbers 8 (es.flatMap Seat.cv)
  match freeNumbers 512 (es.map Seat.resident) with
  | n :: _ =>
    if slots ≤ bm.length ∧ cvs ≤ cv.length then
      some { core := core, resident := n, bm := bm.take slots, cv := cv.take cvs }
    else none
  | [] => none

/-- The places and seats of a block on given cores: none when one of its parts does not fit. -/
def State.fitOn (s : State) (r : LaunchRec) (groups : Nat) (cores : List Nat) : Option (List (Seat × List (Nat × Spot))) :=
  cores.zipIdx.mapM fun p =>
    let gs := corePart groups cores.length p.2
    match s.newSeat p.1 r.slots r.ncv, placeGroups r gs [] (s.taken p.1) with
    | some e, some spots => if s.status.clusters.getLsbD (clusterOf p.1) then some (e, gs.zip spots) else none
    | _, _ => none

/-- The sublists of n elements, in lexicographic order. -/
def choicesOf : Nat → List Nat → List (List Nat)
  | 0, _ => [[]]
  | _ + 1, [] => []
  | n + 1, a :: t => (choicesOf n t).map (a :: ·) ++ choicesOf (n + 1) t

/-- The core that a unit of a core-domain level took, for a block whose entry has CL = 1 (R248). -/
def Launch.unitCore (l : Launch) (num : Nat) : Option Nat :=
  (l.record.above.filter fun k => lvlDom (l.record.lvl k) == 3).findSome? fun k =>
    Tab.get l.unitCores (2 ^ 17 * k + num / l.record.unitBlocks k)

/-- Records the core that a block took for its units. -/
def Launch.noteUnits (l : Launch) (num : Nat) (cores : List Nat) : Launch :=
  match cores with
  | [c] =>
    { l with unitCores := (l.record.above.filter fun k => lvlDom (l.record.lvl k) == 3).foldl (fun t k =>
        let u := 2 ^ 17 * k + num / l.record.unitBlocks k
        if (Tab.get t u).isSome then t else Tab.put t u c) l.unitCores }
  | _ => l

/-- The sets of cores that an entry may take, in order of preference. -/
def entryChoices (e : Word) (unit : Option Nat) : List (List Nat) :=
  if entryCl e then
    match unit with
    | some c => [[c]]
    | none => choicesOf (entryCores e) ((List.range 12).map (12 * entryCore e + ·))
  else [(List.range (entryCores e)).map (entryCore e + ·)]

/-- The sets of cores that an entry of a block of the launch may take: in a core-domain unit, the core that the unit took
(R248). -/
def Launch.choices (l : Launch) (num : Nat) (e : Word) : List (List Nat) :=
  entryChoices e ((l.unitCore num).filter fun c => clusterOf c == entryCluster e)

/-! ### Save areas (13 R291) -/

/-- The pool in effect: its registers take effect while no block holds an area (13 R289). -/
def State.poolNow (s : State) : Nat × Nat :=
  if s.blocks.any fun p => p.2.areaLen != 0 then s.log.pool
  else (s.log.saveBase.toNat + s.log.saveBaseH.toNat * 2 ^ 32, s.log.saveLen.toNat * 2 ^ 16)

/-- The lowest free place for an area in the pool (DESIGN CHOICE, log 13). -/
def State.findArea (s : State) (size : Nat) : Option Nat :=
  let pool := s.poolNow
  let used := (s.blocks.filter fun p => p.2.areaLen != 0).map fun p => (p.2.area, p.2.areaLen)
  let ok := fun (a : Nat) => decide (a + size ≤ pool.1 + pool.2) && used.all fun u => !overlapNat u.1 u.2 a size
  (pool.1 :: used.map fun u => u.1 + u.2).foldl (fun best a =>
    if ok a then (match best with
      | none => some a
      | some b => some (min a b)) else best) none

/-! ### Starting a block (R245-R247, 18 R343, R344) -/

/-- sr.lvl0 to sr.lvl7 of fibre f of block b (R245, R246). -/
def levelWords (r : LaunchRec) (rank b f : Nat) : List Word :=
  (List.range 8).map fun k =>
    let e := lvlExt (r.lvl k)
    if r.nlvl < k then 0
    else if lvlDom (r.lvl k) = 7 then toWord (rank % 2 ^ 16 * 2 ^ 16 + e)
    else if k ≤ r.blklvl then toWord (f / r.prodBelow k % e * 2 ^ 16 + e)
    else toWord (b / r.unitBlocks (k - 1) % e * 2 ^ 16 + e)

/-- The level words of a pixel fibre (18 R344). -/
def pixelLevels (r : LaunchRec) (f : Nat) : List Word :=
  let w := r.width
  let ls := (List.range 8).map fun k =>
    let e := lvlExt (r.lvl k)
    if r.nlvl < k then 0
    else if k ≤ r.blklvl then toWord (f / r.prodBelow k % e * 2 ^ 16 + e) else toWord e
  setNth ls 0 (toWord (f % w * 2 ^ 16 + w))

def newFibre (code : Nat) (helper : Bool) (lvl : List Word) : Fibre where
  pc := BitVec.ofNat 48 code
  flags := if helper then flagHELP else 0
  repc := 0
  link := 0
  lvl := lvl
  rewait := false

/-- Registers from v0 on, in each of some lanes. -/
def startRegs (lanes : List (Nat × List Word)) : Sparse Word :=
  lanes.foldl (fun t p => p.2.zipIdx.foldl (fun t q => Tab.store 0 t (regKey p.1 q.2) q.1) t) []

/-- Group n of a block as it starts. Every fibre is in one subset at CODE; the lanes of a pixel launch after its
last fibre hold none. -/
def newGroup (l : Launch) (id : Nat) (b : Block) (core n : Nat) (q : Spot) : Group :=
  let r := l.record
  let w := r.width
  let px := b.pixels.filter fun p => p.index / w == n
  let args := match l.queue with
    | some (k, first, count) => [toWord k, toWord first, toWord count] ++ (r.args.drop 3)
    | none => r.args
  let lanes := if l.pass.isSome then px.map fun p => (p.index % w, p.regs)
    else (List.range w).map fun i => (i, args.take r.narg)
  let fibres := if l.pass.isSome then px.map fun p => (p.index % w, newFibre r.code p.helper (pixelLevels r p.index))
    else (List.range w).map fun i => (i, newFibre r.code false (levelWords r l.rank b.num (w * n + i)))
  { block := id, num := n, core := core, part := q.part, row := q.row, first := q.first, width := w
    wbase := q.wbase, wsize := q.wsize, regs := startRegs lanes, pend := [], bad := [], badResult := false
    fibres := fibres, current := none, waiting := [newWaiting (maskOf (fibres.map Prod.fst)) .none 0], issues := 0
    fcause := 0, fpc := 0, fpcHi := 0, ftime := 0, ftimeHi := 0, xops := 0, fops := List.replicate 8 0, faults := []
    tags := [], hold := none, runAhead := none, rasterPass := none, rasterBatch := 0
    pixels := px, repeating := false }

/-- The slots of a block's windows, each with a bank. -/
def newSlots (r : LaunchRec) (banks : List Nat) : List Slot :=
  let names := (List.range r.nscr).map (fun n => (Space.scr, n)) ++ (List.range r.nact).map (fun n => (Space.act, n))
    ++ (List.range r.nwgt).map (fun n => (Space.wgt, n)) ++ (List.range r.nacc).map (fun n => (Space.acc, n))
  names.zip banks |>.map fun p => { space := p.1.1, num := p.1.2, st := .mapped p.2 }

/-- A request of the scheduler to launch, pre-empt or migrate reaches some cores (02 R47). -/
def State.schedWake (s : State) (cores : List Nat) : State := cores.foldl (fun s c => s.noteWake c 8) s

/-- A block starts on its seats: banks are attached, an area is allotted, its groups are created. -/
def State.startBlock (s : State) (id : Nat) (b : Block) (l : Launch) (fit : List (Seat × List (Nat × Spot)))
    (area : Nat) : State :=
  let r := l.record
  let cores := fit.map fun p => p.1.core
  let cluster := match cores with
    | c :: _ => clusterOf c
    | [] => 0
  let banks := (s.freeBanks cluster).take r.slots
  let s1 : State := banks.foldl (fun s k => s.setBankSt k .held) s
  let spots := fit.flatMap fun p => p.2.map fun q => (p.1.core, q.1, q.2)
  let firstGroup := s1.nextId
  let groups := spots.zipIdx.map fun p => (firstGroup + p.2, newGroup l id b p.1.1 p.1.2.1 p.1.2.2)
  let size := areaSize r r.blockGroups
  let b1 :=
    { b with
      phase := .running, cores := cores, seats := fit.map Prod.fst, groups := groups.map Prod.fst
      slots := newSlots r banks, area := area, areaLen := size, started := firstGroup, issued := false
      moveTo := none, moveRing := b.moveTo.map Prod.snd }
  let s2 : State :=
    { s1 with
      nextId := firstGroup + groups.length
      log := { s1.log with pool := s1.poolNow }
      groups := (groups.filter fun p => !p.2.fibres.isEmpty).foldl (fun t p => Tab.put t p.1 p.2) s1.groups
      blocks := Tab.put s1.blocks id b1
      launches := Tab.put s1.launches b.launch (l.noteUnits b.num cores) }
  let s3 : State := groups.foldl (fun s p => s.writePa (groupArea b1 p.2) (List.replicate 64 0)) s2
  s3.schedWake cores

/-- Reserves a waiting block on the first set of cores on which it fits; `allow` says which cores it may take.
The cluster's pool must hold a bank for each of its slots, and the save pool an area. -/
def State.reserve (s : State) (id : Nat) (b : Block) (allow : Nat → Bool) : Option State :=
  match Tab.get s.launches b.launch with
  | none => none
  | some l =>
    let r := l.record
    if (s.freeBanks (entryCluster b.target)).length < r.slots then none
    else
      match s.findArea (areaSize r r.blockGroups) with
      | none => none
      | some area =>
        if s.poolNow.2 = 0 then none
        else
          match (l.choices b.num b.target).findSome? fun cs =>
            if cs.all allow then s.fitOn r r.blockGroups cs else none with
          | none => none
          | some fit => some (s.startBlock id b l fit area)

/-- A running block that a MOVE has named is reserved on its new cores, with a bank for each slot where they lie in
another cluster; it then stops (R259). -/
def State.reserveMove (s : State) (id : Nat) (b : Block) : Option State :=
  match Tab.get s.launches b.launch with
  | none => none
  | some l =>
    let r := l.record
    let e := b.target
    let banks := if some (entryCluster e) = b.cores.head?.map clusterOf then [] else (s.freeBanks (entryCluster e)).take r.slots
    if banks.length < r.slots && some (entryCluster e) != b.cores.head?.map clusterOf then none
    else
      match (l.choices b.num e).findSome? fun cs =>
        if cs.all (s.firstOn id b) then s.fitOn r r.blockGroups cs else none with
      | none => none
      | some fit =>
        some (((banks.foldl (fun (s : State) k => s.setBankSt k .held) s).modBlock id fun b =>
          { b with reserved := fit, newBanks := banks, phase := .stopping }).schedWake b.cores)

/-- BLOCK_RESERVE (R250): a waiting block that is first on the wait list of every core it takes, and fits, is
reserved on all of them in one step and starts; a block that moves is reserved on its new cores (R259). -/
def execBlockReserve (block : Nat) (s : State) : Host.Outcome State Fault Refusal :=
  match s.block? block with
  | none => .next s
  | some b =>
    if b.phase = .running ∧ b.moveTo.isSome then
      match s.reserveMove block b with
      | some s1 => .next s1
      | none => .next s
    else
    let gang := match Tab.get s.launches b.launch with
      | some l => l.gang
      | none => false
    if b.phase = .waiting ∧ !gang then
      match s.reserve block b (s.firstOn block b) with
      | some s1 => .next s1
      | none => .next s
    else .next s

/-! ### Gangs (R250) -/

/-- Reserves the blocks of a gang one after another, or none of them. Each is first on its wait lists when its turn
comes. -/
def reserveAll : List Nat → State → Option State
  | [], s => some s
  | id :: t, s =>
    match s.block? id with
    | none => reserveAll t s
    | some b =>
      match s.reserve id b (s.firstOn id b) with
      | none => none
      | some s1 => reserveAll t s1

def Launch.blockIds (l : Launch) : List Nat := (List.range l.count).map (l.first + ·)

/-- The gangs that come before one: by time stamp, and then by source. -/
def State.earlierGangs (s : State) (id : Nat) (l : Launch) : List Launch :=
  (s.launches.filter fun p => p.1 != id && p.2.gang
    && lexLess [p.2.stamp.toNat, p.2.source, p.1] [l.stamp.toNat, l.source, id]).map Prod.snd

/-- GANG_RESERVE (R250): all blocks of a gang start, or none; a gang with NOWAIT that does not fit completes with
FULL. A gang does not go before an earlier one that fits. -/
def execGangReserve (launch : Nat) (s : State) : Host.Outcome State Fault Refusal :=
  match Tab.get s.launches launch with
  | none => .next s
  | some l =>
    if !l.gang || (s.earlierGangs launch l).any fun e => (reserveAll e.blockIds s).isSome then .next s
    else
      match reserveAll l.blockIds s with
      | some s1 =>
        .next { s1 with launches := Tab.modify s1.launches launch fun l => { l with gang := false } }
      | none =>
        if l.record.nowait then
          .next { s with
            blocks := l.blockIds.foldl Tab.del s.blocks
            launches := Tab.put s.launches launch
              { l with gang := false, left := 0, status := 2, reason := 6, place := 0 } }
        else .next s

/-! ### Completion (R252) -/

/-- The completion word. -/
def Launch.wordValue (l : Launch) : Nat := l.status + l.reason * 2 ^ 8 + 2 ^ 31 + l.place * 2 ^ 32

/-- The launch is gone; a command that completes with its word completes. -/
def State.closeLaunch (s : State) (id : Nat) (l : Launch) : State :=
  let s1 := { s with launches := Tab.del s.launches id }
  match l.ring, l.slow with
  | some r, true => s1.commandDone r
  | _, _ => s1

/-- The record of a front-end fault on a completion word (R252, R289). -/
def Launch.wordFault (s : State) (l : Launch) (cause : Cause) : FaultRec :=
  asyncRec s cause 0 9 0
    [toWord l.comp, toWord (l.comp / 2 ^ 32), toWord l.wordValue, toWord (l.wordValue / 2 ^ 32)] 0

/-- A report of the front end itself. -/
def frontReport (kind : ReportKind) (f : FaultRec) (of : ServiceOf) (words : List Word) : Report where
  kind := kind
  f := f
  core := 0
  resident := 0
  group := 0
  block := 0
  of := of
  words := words
  index := none

/-- The word is not written: a log entry of kind 11 says so. -/
def State.wordFailed (s : State) (id : Nat) (l : Launch) (cause : Cause) : State :=
  ({ s with reports := s.reports ++ [frontReport .completion (l.wordFault s cause) .none []] }).closeLaunch id l

/-- Whether a page is one that the front end may not write 8 plain bytes to: typed, or a descriptor area. -/
def Page.plain8 (p : Page) : Bool :=
  p.fmt == 0 && !(p.cmp != 0 && decide (p.size ≤ p.pa - p.base + p.size / 256))

/-- Writes the completion word, or asks for page service (R288). -/
def State.putWord (s : State) (id : Nat) (l : Launch) : State :=
  match s.translate l.record.root l.comp .write with
  | (.page p, s1) =>
    if p.plain8 then (s1.engineWrite none p.comp p.key (bytesOf 8 l.wordValue)).closeLaunch id l
    else s1.wordFailed id l .format
  | (.protect, s1) => s1.wordFailed id l .protect
  | (.migrate, s1) =>
    if s1.foundMig l.record.root l.comp then { s1 with launches := Tab.put s1.launches id { l with word := .migrating l.comp } }
    else s1
  | (.xlate, s1) =>
    { s1 with
      launches := Tab.put s1.launches id { l with word := .service }
      reports := s1.reports ++ [frontReport .pageService (l.wordFault s1 .xlate) (.completion id) []] }

/-- Whether work of an ended block of a launch is still on its way. -/
def State.launchBusy (s : State) (l : Launch) : Bool :=
  let mine := fun (b : Nat) => decide (l.first ≤ b) && decide (b < l.first + l.count)
  s.copies.any (fun c => mine c.2.org.block) || s.matOps.any (fun m => mine m.org.block)
    || s.drains.any (fun d => mine d.org.block) || s.portUnits.any (fun u => mine u.org.block)
    || s.rays.any fun r => mine r.2.org.block

/-- LAUNCH_COMPLETION (R252): the last block has ended. The writes of its blocks become visible at the system
point, and the completion word is written. -/
def execLaunchCompletion (launch : Nat) (s : State) : Host.Outcome State Fault Refusal :=
  match Tab.get s.launches launch with
  | none => .next s
  | some l =>
    if l.left ≠ 0 ∨ l.word ≠ .due ∨ s.launchBusy l then .next s
    else
      let s1 := l.flush.foldl (fun s p => s.releaseUpTo [] p.1 p.2 .sys) s
      if l.flush.any fun p => s1.storeKept p.1 p.2 then .next s1
      else if l.comp = 0 then .next (s1.closeLaunch launch l)
      else
        match l.noRoot with
        | some c => .next (s1.wordFailed launch l c)
        | none => .next (s1.putWord launch l)

end Sys2Proof.Machine
end

