-- ==== Sys2Proof/Machine/Harts.lean ====
section
/-!
DEFINITION. The front-end harts (11 R260): the extension's instructions, their exceptions, signal lines, and the
end of a wait.
-/
namespace Sys2Proof.Machine

/-- Register x of a hart: x0 reads as zero. -/
def Hart.reg (h : Hart) (r : BitVec 5) : DWord := if r = 0 then 0 else Tab.getD h.regs r.toNat 0

/-- Writes a register: x0 stays zero. -/
def Hart.setReg (h : Hart) (r : BitVec 5) (v : DWord) : Hart :=
  if r = 0 then h else { h with regs := Tab.store 0 h.regs r.toNat v }

def State.setHart (s : State) (n : Nat) (h : Hart) : State := { s with harts := Tab.put s.harts n h }

/-- MIE and MPIE of mstatus. -/
def statusMIE : Nat := 3
def statusMPIE : Nat := 7

/-- TAKING AN EXCEPTION on a hart: mepc and mcause are written, MPIE takes MIE, MIE is cleared, and the pc goes
to the base of mtvec (PRESUMED, log 10). -/
def Hart.trap (h : Hart) (cause : Nat) : Hart :=
  let mpie := if h.mstatus.getLsbD statusMIE then 2 ^ statusMPIE else 0
  let kept := h.mstatus &&& ~~~(BitVec.ofNat 64 (2 ^ statusMIE + 2 ^ statusMPIE))
  { h with
    mepc := h.pc, mcause := BitVec.ofNat 64 cause, mtval := 0
    mstatus := kept ||| BitVec.ofNat 64 mpie, pc := h.mtvec &&& ~~~3 }

/-- RETURNING FROM AN EXCEPTION on a hart (`mret` of the base set, log 10). -/
def Hart.ret (h : Hart) : Hart :=
  let mie := if h.mstatus.getLsbD statusMPIE then 2 ^ statusMIE else 0
  let kept := h.mstatus &&& ~~~(BitVec.ofNat 64 (2 ^ statusMIE))
  { h with mstatus := kept ||| BitVec.ofNat 64 (mie + 2 ^ statusMPIE), pc := h.mepc }

/-- How a hart instruction ends; one that stalls has no effect yet, and issues again. -/
inductive HartDone where
  | value (v : DWord) (s : State)
  | except (cause : Nat) (s : State)
  | waits (mask : DWord)
  | stalls
  deriving DecidableEq, Repr

/-- A hart word: rd receives the value and the pc advances; an exception leaves rd as it was. -/
def hartWord (o : HartOp) (k : State → DWord → DWord → HartDone) (s : State) : Host.Outcome State Fault Refusal :=
  match s.hart with
  | none => .fault .noHart
  | some n =>
    match Tab.get s.harts n with
    | none => .fault .noHart
    | some h =>
      match k s (h.reg o.rs1) (h.reg o.rs2) with
      | .value v s1 => .next { s1 with harts := Tab.modify s1.harts n fun h => { (h.setReg o.rd v) with pc := h.pc + 4 } }
      | .except c s1 => .next (s1.setHart n (h.trap c))
      | .waits mask => .next (s.setHart n { h with waiting := some (o.rd, mask) })
      | .stalls => .next s

/-- `xbfx` (R260). -/
def execXbfx (o : HartOp) (s : State) : Host.Outcome State Fault Refusal :=
  hartWord o (fun s a b =>
    if b &&& ~~~(0x7F3F : DWord) != 0 then .except 27 s
    else
      let p := field b.toNat 5 0
      let n := min (field b.toNat 14 8) (64 - p)
      .value (BitVec.ofNat 64 (a.toNat / 2 ^ p % 2 ^ n)) s) s

/-- The command at a ring's RPTR (R258): none when it cannot be read. -/
def State.commandBytes (s : State) (r : Ring) : Option (List Byte) :=
  s.readPhys r.host (r.base.toNat + r.baseH.toNat * 2 ^ 32 + 64 * (r.rptr.toNat % 2 ^ r.log2n.toNat)) 64

/-- A ring's command can be read now: FE is set, and so is the stack bit of its line in device memory (22 R383; DEDUCED,
log 33). -/
def State.commandReady (s : State) (r : Ring) : Bool :=
  s.status.fe && (r.host ||
    s.stacksReady (r.base.toNat + r.baseH.toNat * 2 ^ 32 + 64 * (r.rptr.toNat % 2 ^ r.log2n.toNat)) 64)

def freshRing : Ring where
  base := 0
  host := false
  baseH := 0
  en := false
  err := false
  log2n := 4
  wptr := 0
  rptr := 0
  done := 0
  late := 0

def State.ringAt (s : State) (n : Nat) : Ring := Tab.getD s.rings n freshRing

def State.setRing (s : State) (n : Nat) (r : Ring) : State := { s with rings := Tab.store freshRing s.rings n r }

/-- `rfetch` (R260). The command of a host ring is read through CXL, where the host may have no translation of its address:
the spec gives the exception and leaves to the host when it comes, so that it is a free choice (DESIGN CHOICE, log 4). -/
def execRfetch (o : HartOp) (s : State) : Host.Outcome State Fault Refusal :=
  hartWord o (fun s a b =>
    if 64 ≤ a.toNat then .except 24 s
    else if b.toNat % 64 != 0 || decide (Config.hartLocalSize < b.toNat + 64) then .except 26 s
    else
      let r := s.ringAt a.toNat
      if r.rptr = r.wptr then .value 1 s
      else if !s.commandReady r then .stalls
      else
        let (lost, s0) := if r.host then s.choose 2 else (0, s)
        match lost, s0.commandBytes r, s0.hart with
        | 0, some bs, some n =>
          let s1 := s0.setRing a.toNat { r with rptr := r.rptr + 1 }
          .value 0 { s1 with harts := Tab.modify s1.harts n fun h =>
            { h with local_ := Memory.writeBytes h.local_ b.toNat bs } }
        | _, _, _ => .except 25 s0) s

/-- `swait` (R260): at once when a line of the mask is set, else the hart waits. -/
def execSwait (o : HartOp) (s : State) : Host.Outcome State Fault Refusal :=
  hartWord o (fun s a _ =>
    if a = 0 then .except 28 s
    else if s.signals &&& a != 0 then .value (s.signals &&& a) s
    else .waits a) s

/-- `disp` (R260): a cluster scheduler's input holds at most 64 records. -/
def execDisp (o : HartOp) (s : State) : Host.Outcome State Fault Refusal :=
  hartWord o (fun s a b =>
    if 16 ≤ a.toNat then .except 29 s
    else if b.toNat % 32 != 0 || decide (Config.hartLocalSize < b.toNat + 96) then .except 30 s
    else
      let q := Tab.getD s.clusterInputs a.toNat []
      if 64 ≤ q.length then .value 2 s
      else
        let bs := match s.hart.bind (Tab.get s.harts) with
          | some h => Memory.readBytes h.local_ b.toNat 96
          | none => []
        .value 0 { s with clusterInputs := Tab.put s.clusterInputs a.toNat (q ++ [bs]) }) s

/-- A waiting hart goes on past its `swait` with a value. -/
def Hart.wake (h : Hart) (v : DWord) : Hart :=
  match h.waiting with
  | none => h
  | some (rd, _) => { (h.setReg rd v) with pc := h.pc + 4, waiting := none }

/-- SWAIT_TIMEOUT (R260): the wait of a hart ends with 0. -/
def execSwaitTimeout (hart : Nat) (s : State) : Host.Outcome State Fault Refusal :=
  match Tab.get s.harts hart with
  | none => .next s
  | some h => .next (s.setHart hart (h.wake 0))

/-- SIGNAL_LINE_SET (R260): the line is set, and harts that wait for it go on. -/
def execSignalLineSet (line : Nat) (s : State) : Host.Outcome State Fault Refusal :=
  if 64 ≤ line then .next s
  else
    let sg := s.signals ||| BitVec.twoPow 64 line
    let wake := fun (h : Hart) => match h.waiting with
      | some (_, mask) => if sg &&& mask != 0 then h.wake (sg &&& mask) else h
      | none => h
    .next { s with signals := sg, harts := s.harts.map fun p => (p.1, wake p.2) }

end Sys2Proof.Machine
end

