-- ==== Sys2Proof/Machine/Sha.lean ====
section
/-!
DEFINITION. SHA-512 (FIPS 180-4), with which the boot ROM measures what it loads (22 R387).
-/
namespace Sys2Proof.Machine

/-- Whether a number has no divisor but 1 and itself. -/
def isPrime (n : Nat) : Bool := decide (2 ≤ n) && (List.range n).all fun d => decide (d < 2) || n % d != 0

/-- The largest number of n bits above those of r whose k-th power is at most v. -/
def rootOf (k v : Nat) : Nat → Nat → Nat
  | 0, r => r
  | n + 1, r => rootOf k v n (if (r + 2 ^ n) ^ k ≤ v then r + 2 ^ n else r)

/-- The first 64 bits of the fraction of the k-th root of p. -/
def rootFraction (k p : Nat) : DWord := BitVec.ofNat 64 (rootOf k (p * 2 ^ (64 * k)) 72 0)

/-- The constants of the 80 rounds: fractions of the cube roots of the first 80 primes, of which 409 is the last. -/
def sha512K : List DWord := ((List.range 410).filter isPrime).map (rootFraction 3)

/-- The hash value at the start: fractions of the square roots of the first 8 primes, of which 19 is the last. -/
def sha512Init : List DWord := ((List.range 20).filter isPrime).map (rootFraction 2)

def shaBig0 (x : DWord) : DWord := x.rotateRight 28 ^^^ x.rotateRight 34 ^^^ x.rotateRight 39
def shaBig1 (x : DWord) : DWord := x.rotateRight 14 ^^^ x.rotateRight 18 ^^^ x.rotateRight 41
def shaSmall0 (x : DWord) : DWord := x.rotateRight 1 ^^^ x.rotateRight 8 ^^^ x >>> 7
def shaSmall1 (x : DWord) : DWord := x.rotateRight 19 ^^^ x.rotateRight 61 ^^^ x >>> 6

/-- n words of the message schedule, from a window of 16. -/
def shaSchedule : Nat → List DWord → List DWord
  | 0, _ => []
  | n + 1, w =>
    let next := shaSmall1 (nth w 14 0) + nth w 9 0 + shaSmall0 (nth w 1 0) + nth w 0 0
    nth w 0 0 :: shaSchedule n (w.drop 1 ++ [next])

/-- One round on the eight working variables, with the word and constant of the round. -/
def shaRound (h : List DWord) (p : DWord × DWord) : List DWord :=
  let v := fun i => nth h i 0
  let t1 := v 7 + shaBig1 (v 4) + (v 4 &&& v 5 ^^^ ~~~(v 4) &&& v 6) + p.2 + p.1
  let t2 := shaBig0 (v 0) + (v 0 &&& v 1 ^^^ v 0 &&& v 2 ^^^ v 1 &&& v 2)
  [t1 + t2, v 0, v 1, v 2, v 3 + t1, v 4, v 5, v 6]

/-- A block of 16 words enters the hash. -/
def shaBlock (h : List DWord) (block : List DWord) : List DWord :=
  (h.zip (((shaSchedule 80 block).zip sha512K).foldl shaRound h)).map fun p => p.1 + p.2

/-- A big-endian number. -/
def ofBytesBig (bs : List Byte) : Nat := bs.foldl (fun n b => n * 256 + b.toNat) 0

/-- The bytes of a number, the most significant first. -/
def bytesBig (n v : Nat) : List Byte := (bytesOf n v).reverse

/-- n blocks of 128 bytes, as words. -/
def shaBlocks : Nat → List Byte → List (List DWord)
  | 0, _ => []
  | n + 1, bs =>
    ((List.range 16).map fun i => BitVec.ofNat 64 (ofBytesBig ((bs.drop (8 * i)).take 8))) :: shaBlocks n (bs.drop 128)

/-- The digest of a message: 64 bytes. -/
def sha512 (bs : List Byte) : List Byte :=
  let pad := (239 - bs.length % 128) % 128
  let m := bs ++ [0x80] ++ List.replicate pad 0 ++ bytesBig 16 (8 * bs.length)
  ((shaBlocks (m.length / 128) m).foldl shaBlock sha512Init).flatMap fun w => bytesBig 8 w.toNat

end Sys2Proof.Machine
end

