-- ==== Sys2Proof/Machine/Boot.lean ====
section
/-!
DEFINITION. Secure boot and attestation (22 R387). The identity key, the ROM's own key and the certificate chain are
opaque (PRESUMED, log 12).
-/
namespace Sys2Proof.Machine

/-! ### Boot -/

/-- A measurement register is extended with a digest: M := SHA-512(M ‖ digest). -/
def extend (m digest : List Byte) : List Byte := sha512 (m ++ digest)

/-- The front-end harts as they start, at the beginning of the image in their local memory (PRESUMED, log 10). -/
def startHart (image : List Byte) : Hart where
  regs := []
  pc := 0
  mepc := 0
  mcause := 0
  mtval := 0
  mtvec := 0
  mstatus := 0
  fregs := []
  fcsr := 0
  local_ := Memory.writeBytes [] 0 image
  waiting := none

/-- BOOT_VERIFY (R387): the boot ROM has read the image, or could not. A good signature extends measurement register 0
and starts the harts. -/
def execBootVerify (image : Option (List Byte)) (s : State) : Host.Outcome State Fault Refusal :=
  let t := s.status
  if t.boot ≠ 0 ∨ s.power.trip then .next s
  else
    match image with
    | none => .next { s with status := { t with boot := 3 } }
    | some bs =>
      if Config.imageVerifies bs then
        .next { s with
          status := { t with boot := 1, measures := setNth t.measures 0 (extend (nth t.measures 0 []) (sha512 bs)) }
          harts := (List.range 4).map fun n => (n, startHart bs) }
      else .next { s with status := { t with boot := 2 } }

/-! ### SPDM -/

/-- The answer of the ROM to a request; request and answer enter the transcript that a later signature covers. -/
def State.answerSpdm (s : State) (request : List Byte) (a : SpdmAnswer) : State :=
  { s with spdm := { transcript := s.spdm.transcript ++ request, answer := some a } }

/-- GET_VERSION (R387): 1.2 and 1.3; it begins a transcript. -/
def execGetVersion (s : State) : Host.Outcome State Fault Refusal :=
  .next ({ s with spdm := { transcript := [], answer := none } }.answerSpdm [0x10, 0x84, 0, 0] (.versions [(1, 2), (1, 3)]))

/-- GET_CAPABILITIES (R387): certificates, challenge and measurements; no key exchange. -/
def execGetCapabilities (s : State) : Host.Outcome State Fault Refusal :=
  .next (s.answerSpdm [0x12, 0xE1, 0, 0] (.capabilities true true true false))

/-- NEGOTIATE_ALGORITHMS (R387). -/
def execNegotiateAlgorithms (s : State) : Host.Outcome State Fault Refusal :=
  .next (s.answerSpdm [0x12, 0xE3, 0, 0] (.algorithms "SHA-512" "RSASSA-PSS 4096"))

/-- GET_DIGESTS (R387): of the chain in slot 0. -/
def execGetDigests (s : State) : Host.Outcome State Fault Refusal :=
  .next (s.answerSpdm [0x12, 0x81, 0, 0] (.digests [(0, sha512 (Config.certificateChain 0))]))

/-- GET_CERTIFICATE (R387): a portion of the chain in slot 0, and how much remains. -/
def execGetCertificate (slot offset length : Nat) (s : State) : Host.Outcome State Fault Refusal :=
  let req := [0x12, 0x82, BitVec.ofNat 8 slot, 0] ++ bytesOf 2 offset ++ bytesOf 2 length
  let chain := Config.certificateChain 0
  let portion := (chain.drop offset).take length
  if slot ≠ 0 ∨ chain.length ≤ offset then .next (s.answerSpdm req .error)
  else .next (s.answerSpdm req (.certificate portion (chain.length - offset - portion.length)))

/-- CHALLENGE (R387): signed with the identity key over the transcript and the ROM's own nonce, which is free (DESIGN CHOICE, log 4). -/
def execChallenge (slot : Nat) (nonce : BitVec 256) (s : State) : Host.Outcome State Fault Refusal :=
  let req := [0x12, 0x83, BitVec.ofNat 8 slot, 0] ++ bytesOf 32 nonce.toNat
  if slot ≠ 0 then .next (s.answerSpdm req .error)
  else
    let own := (List.range 32).map fun i => Config.freeByte (s.free + i)
    let digest := sha512 (Config.certificateChain 0)
    let signed := s.spdm.transcript ++ req ++ digest ++ own
    .next ({ s with free := s.free + 32 }.answerSpdm req (.challengeAuth digest own (Config.identitySignature signed)))

/-- GET_MEASUREMENTS (R387): measurements 1 to 8 are registers 0 to 7; index 0 asks for their number, 255 for all. -/
def execGetMeasurements (index : Nat) (s : State) : Host.Outcome State Fault Refusal :=
  let req := [0x12, 0xE0, 0, BitVec.ofNat 8 index]
  let m := fun (i : Nat) => (i, nth s.status.measures (i - 1) [])
  if index = 0 then .next (s.answerSpdm req (.measurements [(8, [])]))
  else if index ≤ 8 then .next (s.answerSpdm req (.measurements [m index]))
  else if index = 255 then .next (s.answerSpdm req (.measurements ((List.range 8).map fun i => m (i + 1))))
  else .next (s.answerSpdm req .error)

end Sys2Proof.Machine
end

