-- ==== Sys2Proof/Machine/Control.lean ====
section
/-!
DEFINITION. Jumps, calls and branches (06 R135-R138), `fspawn` (R140), `nop`, `park` and `yield` (R145,
R146), `trap` and `brk` (R147).
-/
namespace Sys2Proof.Machine

/-- The target of a word at pc: pc + 4 · off (03 R63). -/
def target {n : Nat} (pc : CodeAddr) (off : BitVec n) : CodeAddr := pc + off.signExtend 48 * 4

/-- Every issuing fibre goes to one address. -/
def Group.jumpTo (x : Group) (t : CodeAddr) : Group := x.mapFibres x.active fun f => { f with pc := t }

/-- `jmp` (R135). -/
def execJmp (o : JumpOp) (s : State) : Host.Outcome State Fault Refusal :=
  jumpWord true o.park (fun s g x => okGroup s g (x.jumpTo (target x.pc o.off))) s

/-- `call` (R135). -/
def execCall (o : JumpOp) (s : State) : Host.Outcome State Fault Refusal :=
  jumpWord true o.park (fun s g x =>
    okGroup s g ((x.mapFibres x.active fun f => { f with link := x.pc + 4 }).jumpTo (target x.pc o.off))) s

/-- A uniform branch: taken when `cond` holds of U[c]. -/
def uniBranch (cond : Word → Bool) (o : LaneBranch) (s : State) : Host.Outcome State Fault Refusal :=
  jumpWord true o.park (checked { uniR := [o.c.toNat] } fun s g x =>
    okGroup s g (x.jumpTo (if cond (x.uni o.c.toNat) then target x.pc o.off else x.pc + 4))) s

/-- `ubrz` (R135). -/
def execUbrz (o : LaneBranch) (s : State) : Host.Outcome State Fault Refusal := uniBranch (fun v => v == 0) o s

/-- `ubrnz` (R135). -/
def execUbrnz (o : LaneBranch) (s : State) : Host.Outcome State Fault Refusal := uniBranch (fun v => v != 0) o s

/-- The part that stays current after a split, as a place in the parts by ascending PC (02 R30). -/
def keptPart (h : Hint) (taken : CodeAddr) (parts : List (Nat × Mask)) : Nat :=
  let i := match parts with
    | (a, _) :: _ => if a == taken.toNat then 0 else 1
    | [] => 0
  match h with
  | .likely => i
  | .unlikely => 1 - i
  | _ => 0

/-- A lane branch (R137): each active lane goes by its own condition. -/
def laneBranch (cond : Word → Bool) (o : LaneBranch) (s : State) : Host.Outcome State Fault Refusal :=
  jumpWord true o.park (checked { laneR := [o.c.toNat] } fun s g x =>
    let t := target x.pc o.off
    let held := maskOf ((lanesOf x.active).filter fun l => cond (x.reg l o.c.toNat))
    let x1 := x.mapFibres x.active fun f => { f with pc := x.pc + 4 }
    let x2 := x1.mapFibres held fun f => { f with pc := t }
    if held == 0 || held == x.active then okGroup s g x2
    else if o.hint = .uniform then
      .trap { cause := .nonuniform, ops := [s.word, held.setWidth 32, (held >>> 32).setWidth 32] }
    else if t == x.pc + 4 then okGroup s g x2
    else okGroup s g (x2.splitCurrent (keptPart o.hint t))) s

/-- `brz` (R137). -/
def execBrz (o : LaneBranch) (s : State) : Host.Outcome State Fault Refusal := laneBranch (fun v => v == 0) o s

/-- `brnz` (R137). -/
def execBrnz (o : LaneBranch) (s : State) : Host.Outcome State Fault Refusal := laneBranch (fun v => v != 0) o s

/-- Every issuing fibre goes to its own link; the part at the lowest PC stays current (R136). -/
def Group.returns (x : Group) : Group :=
  (x.mapFibres x.active fun f => { f with pc := f.link }).splitCurrent fun _ => 0

/-- `ret` (R136); issued by fibres that run a handler it returns from the exception (13 R287), which writes v0 to v3: it is
held while one of them is lent to the matrix engine (10 R235). -/
def execRet (o : ParkOnly) (s : State) : Host.Outcome State Fault Refusal :=
  runWord true (fun s g m =>
    match s.group? g with
    | none => s
    | some x =>
      if x.maskTrap x.active then s.trapReturn g o.park
      else (s.setGroup g x.returns).complete g m 0 o.park) (fun s g x =>
    if x.maskTrap x.active && s.writesLent g x { laneW := [0, 1, 2, 3] } then
      s.holdMatrix g x { laneW := [0, 1, 2, 3] } else .ok s) s

/-- `jr` (R136): the register pair a, a + 1. -/
def execJr (o : RegA) (s : State) : Host.Outcome State Fault Refusal :=
  jumpWord true o.park (checked { uniR := [o.a.toNat, o.a.toNat + 1] } fun s g x =>
    let lo := x.uni o.a.toNat
    let hi := x.uni (o.a.toNat + 1)
    if lo &&& 3 != 0 || hi &&& 0xFFFF0000 != 0 then illegal s
    else okGroup s g (x.jumpTo (codeAddr lo hi))) s

/-! ### fspawn (R140) -/

/-- The free lanes of a group: no fibre, no pending result, no register lent (R140, 10 R238). -/
def State.freeLanes (s : State) (g : Nat) (x : Group) : List Nat :=
  let lent := s.lent g x
  x.lanes.filter fun l => (x.fibre? l).isNone && !x.lanePending l && !lent.any fun p => p.1 == l

/-- A new fibre in lane m, spawned by f. -/
def spawned (f : Fibre) (m : Nat) (off : Word) : Fibre where
  pc := f.pc + off.signExtend 48
  flags := 0
  repc := 0
  link := 0
  lvl := match f.lvl with
    | [] => []
    | w :: t => toWord (m * 2 ^ 16 + w.toNat % 2 ^ 16) :: t
  rewait := false

/-- A new fibre joins the waiting subset that this issue forms at its PC. -/
def Group.addFibre (y : Group) (m : Nat) (c : Fibre) : Group :=
  let joins := fun (u : Subset) => u.wait == .none && u.since == y.issues + 1 && y.pcOf u.mask == c.pc
  let waiting :=
    if y.waiting.any joins then
      y.waiting.map fun u => if joins u then { u with mask := u.mask ||| laneBit m } else u
    else y.waiting ++ [newWaiting (laneBit m) .none (y.issues + 1)]
  { y with fibres := Tab.put y.fibres m c, waiting := waiting }

/-- The spawns of the active lanes in ascending order: `x` is the group as it was, `y` as it becomes. -/
def spawnLanes (x : Group) (d a b : Nat) : List Nat → List Nat → Group → Group
  | [], _, y => y
  | l :: t, free, y =>
    match x.fibre? l, free with
    | some f, m :: rest =>
      if f.helper then spawnLanes x d a b t (m :: rest) (y.setReg l d 0xFFFFFFFF)
      else
        let c := spawned f m (x.reg l b)
        spawnLanes x d a b t rest (((y.addFibre m c).setReg m 0 (x.reg l a)).setReg l d (toWord m))
    | _, _ => spawnLanes x d a b t free (y.setReg l d 0xFFFFFFFF)

/-- `fspawn` (R140). -/
def execFspawn (o : Regs3) (s : State) : Host.Outcome State Fault Refusal :=
  stepWord false o.park (checked { laneR := [o.a.toNat, o.b.toNat], laneW := [o.d.toNat] } fun s g x =>
    match (lanesOf x.active).find? fun l => x.reg l o.b.toNat &&& 3 != 0 with
    | some l => .trap { cause := .illegal, lane := some l, ops := [s.word] }
    | none => okGroup s g (spawnLanes x o.d.toNat o.a.toNat o.b.toNat (lanesOf x.active) (s.freeLanes g x) x)) s

/-! ### Waiting, yielding and traps (R145-R147) -/

/-- `nop` (R145). -/
def execNop (o : ParkOnly) (s : State) : Host.Outcome State Fault Refusal :=
  stepWord true o.park (fun s _ _ => .ok s) s

/-- `park` (R145): a `nop` whose park marker is set. -/
def execPark (_o : ParkOnly) (s : State) : Host.Outcome State Fault Refusal :=
  stepWord true true (fun s _ _ => .ok s) s

/-- `yield` (R146): counts as an issue; then the subset that has waited longest becomes current. A waiting subset at the PC
that follows does not merge first: it counts among those that the yield is to (DESIGN CHOICE, log 46). -/
def execYield (o : ParkOnly) (s : State) : Host.Outcome State Fault Refusal :=
  runWord true (fun s g m =>
    let s1 := s.complete g m 4 o.park
    match s1.group? g with
    | none => s1
    | some x => if x.runAhead.isNone && x.waiting.any Subset.eligible then s1.yieldTo g else s1)
    (fun s _ _ => .ok s) s

/-- `trap` (R147). -/
def execTrap (o : CodeOp) (s : State) : Host.Outcome State Fault Refusal :=
  stepWord false o.park (fun _ _ _ => .trap { cause := .trap, ops := [o.code.setWidth 32] }) s

/-- `brk` (R147). -/
def execBrk (o : CodeOp) (s : State) : Host.Outcome State Fault Refusal :=
  stepWord false o.park (fun _ _ _ => .trap { cause := .brk, ops := [o.code.setWidth 32] }) s

end Sys2Proof.Machine
end

