-- ==== Sys2Proof/Machine/Queue.lean ====
section
/-!
DEFINITION. Hardware queues (11 R253-R257): `enq`, `deq`, `qarm`, `qstat`, the launches of bound queues, and the
release of their records.
-/
namespace Sys2Proof.Machine

def Queue.capacity (q : Queue) : Nat := 2 ^ q.log2cap

def Queue.full (q : Queue) : Bool := (q.tail - q.free).toNat == q.capacity

/-- The virtual address of record n. -/
def Queue.recordVa (q : Queue) (n : Word) : Nat := (q.base + 64 * (n.toNat % q.capacity)) % 2 ^ 52

def State.setQueue (s : State) (n : Nat) (q : Queue) : State := { s with queues := Tab.put s.queues n q }

/-! ### Launches of a bound queue (R257) -/

/-- One block of a bound queue's launch record, for `count` records from HEAD on. -/
def State.launchBound (s : State) (n : Nat) (q : Queue) (count : Nat) : State :=
  let (c, s1) := s.checkLaunch q.binding 0 false
  let head := q.head.toNat
  let q1 :=
    { q with
      head := q.head + toWord count, launched := if c.reason = 0 then q.launched + 1 else q.launched
      claims := q.claims ++ [(head, count, false)] }
  let l := { newLaunch s1 c q.binding (64 + n) 0 0 with queue := some (n, head, count) }
  let entries := if c.reason = 0 then [(q.launched % c.map.length, nth c.map (q.launched % c.map.length) 0)] else []
  (s1.setQueue n q1).addLaunch l entries

/-- Claims as long as a batch is there, at most `fuel` times; a flush claims what is left. -/
def claimAll (n : Nat) (flush : Bool) : Nat → State → State
  | 0, s => s
  | fuel + 1, s =>
    match Tab.get s.queues n with
    | none => s
    | some q =>
      let left := (q.tail - q.head).toNat
      if q.binding = 0 || left = 0 then s
      else if q.batch ≤ left then claimAll n flush fuel (s.launchBound n q q.batch)
      else if flush then s.launchBound n q left
      else s

/-- A flush of a queue, or the claims after an enqueue. -/
def State.claims (s : State) (n : Nat) (flush : Bool) : State := claimAll n flush (2 ^ 20) s

/-- FREE advances over the records that are released, up to the first that is still claimed. -/
def Queue.release (q : Queue) : Queue :=
  let done := q.claims.takeWhile fun c => c.2.2
  { q with
    free := done.foldl (fun f c => f + toWord c.2.1) q.free
    claims := q.claims.drop done.length }

/-- The block of a claim has ended: its records are released (R257). -/
def State.releaseClaim (s : State) (n first count : Nat) : State :=
  { s with queues := Tab.modify s.queues n fun q =>
      { q with claims := q.claims.map fun (i, k, e) => (i, k, e || (i == first && k == count)) }.release }

/-! ### Arming (R255) -/

/-- An armed queue that has an unclaimed record arrives on its object, and is no longer armed; the arrival is
dropped where the object's bank has changed (08 R190). -/
def State.armedArrival (s : State) (n : Nat) : State :=
  match Tab.get s.queues n with
  | none => s
  | some q =>
    match q.armed with
    | none => s
    | some a =>
      if q.head = q.tail then s
      else
        let s1 := s.setQueue n { q with armed := none }
        if s1.gen a.bank = a.gen then
          let r := s1.contribute a.bank a.off fun b => b.arrive 1
          if r.2 then r.1
          else r.1.holdFault a.org (asyncRec s .overrun 0 5 a.pc [a.word, toWord n] 0) none none
        else s1

/-! ### The instructions (R254-R256) -/

/-- The queue word: number, FLUSH, NOREC, and whether an instruction accepts it. -/
def queueWordOk (w : Word) (enq : Bool) : Bool :=
  wbits w 31 11 == 0 && (if enq then !wbit w 10 || wbit w 9 else wbits w 10 9 == 0)

/-- The page of a record: present, not migrating and writable. -/
def State.recordKey (s : State) (q : Queue) (n : Word) : Option (Option Comp × Nat) × State :=
  match s.translate q.root (q.recordVa n) .write with
  | (.page p, s1) => (some (p.comp, p.key), s1)
  | (_, s1) => (none, s1)

/-- An asynchronous fault of the unit, QUEUE or, where the record reads with an uncorrectable error, ECC: vc receives
REFUSED (R256; 13 R296). The spec does not say what the registers of a result then hold: they receive free words (DESIGN
CHOICE, log 4). -/
def State.queueFault (s : State) (g : Nat) (x : Group) (cause : Cause) (w : Word) (c : Nat) (a n : Nat) : State :=
  let (ws, s0) := s.freeWords n
  let s1 := if n = 0 then s else s0.addResult g x none a ws
  s1.holdFault (s.origin g x) (asyncRec s cause 0 5 (s.issuePc x) [w] 0)
    (some { group := g, lane := none, reg := c, vals := [stREFUSED], spec := false }) none

/-- The common course of the four instructions: the registers of group a (read by `enq`, written by `deq` and
`qstat`) start at a multiple of 4; the queue word and, for `qarm`, the object are checked; a subset of helpers
sends nothing, but for `qstat`. `k` gets the queue; a queue that is not configured or is of another address
space faults. An `enq` that finds room is held while a `gupd` keeps its release from completing (DEDUCED, log 18). -/
def queueWord (count : Nat) (reads writes enq : Bool) (pre : State → Group → Block → Option Trap)
    (k : State → Nat → Group → Queue → State) (o : EngOp3) (s : State) : Host.Outcome State Fault Refusal :=
  let a := o.a.toNat
  let b := o.b.toNat
  let c := o.c.toNat
  let rs := (List.range count).map (a + ·)
  stepWord false o.park (aligned (if 1 < count then [a] else []) (checked
    { uniR := (if reads then rs else []) ++ [b], uniW := (if writes then rs else []) ++ [c] } fun s g x =>
      match s.blockOf x with
      | none => .ok s
      | some blk =>
        let w := x.uni b
        if !queueWordOk w enq then illegal s
        else
          match pre s x blk with
          | some t => .trap t
          | none =>
            let stat := count == 8
            if x.allHelpers && !stat then
              okGroup s g ((if writes then x.bcasts a (List.replicate count 0) else x).bcast c stHELPER)
            else
              let n := wbits w 8 0
              let s1 := s.modGroup g fun y =>
                (if writes then y.setPendAll a count .queueUnit else y).setPendAll c 1 .queueUnit
              let wrote := if writes then count else 0
              match Tab.get s1.queues n with
              | none => .ok (s1.queueFault g x .queue w c a wrote)
              | some q =>
                if q.root != s.rootOfBlock blk then .ok (s1.queueFault g x .queue w c a wrote)
                else if enq && (wbit w 10 || !q.full) && s.releaseWaits g x.core s.ord.seq then .hold (s.settleBefore x.core s.ord.seq)
                else .ok (k s1 g x q))) s

/-- `enq` (R255): a release at dev scope where it returns OK; a full queue has no effect. -/
def execEnq (o : EngOp3) (s : State) : Host.Outcome State Fault Refusal :=
  queueWord 16 true false true (fun _ _ _ => none) (fun s g x q =>
    let w := x.uni o.b.toNat
    let n := wbits w 8 0
    let c := o.c.toNat
    let finish := fun (s : State) =>
      let s1 := (s.claims n (wbit w 9)).armedArrival n
      s1.addResult g x none c [stOK]
    if wbit w 10 then finish (s.release g x .dev)
    else if q.full then s.addResult g x none c [stFULL]
    else
      match s.recordKey q q.tail with
      | (none, s1) => s1.queueFault g x .queue w c 0 0
      | (some (comp, key), s1) =>
        let s2 := s1.release g x .dev
        let bytes := bytesOfWords ((List.range 16).map fun j => x.uni (o.a.toNat + j))
        finish ((s2.engineWrite none comp key bytes).setQueue n { q with tail := q.tail + 1 })) o s

/-- `deq` (R255): an acquire at dev scope where it returns a record. -/
def execDeq (o : EngOp3) (s : State) : Host.Outcome State Fault Refusal :=
  queueWord 16 false true false (fun _ _ _ => none) (fun s g x q =>
    let w := x.uni o.b.toNat
    let n := wbits w 8 0
    let a := o.a.toNat
    let c := o.c.toNat
    if q.binding ≠ 0 then s.queueFault g x .queue w c a 16
    else if q.head = q.tail then
      (s.addResult g x none a (List.replicate 16 0)).addResult g x none c [stEMPTY]
    else
      match s.recordKey q q.head with
      | (none, s1) => s1.queueFault g x .queue w c a 16
      | (some (comp, key), s1) =>
        let r := s1.engineRead comp key 64
        if r.2 then s1.queueFault g x .ecc w c a 16
        else
          let s2 := (s1.setQueue n { q with head := q.head + 1, free := q.head + 1 }).acquire g .dev
          ((s2.addResult g x none a (wordsOfBytes r.1)).addResult g x none c [stOK]).armedArrival n) o s

/-- `qarm` (R255): the object passes R180 as a 16-byte SCR object. -/
def execQarm (o : EngOp3) (s : State) : Host.Outcome State Fault Refusal :=
  queueWord 1 true false false (fun s x blk =>
    let bar := x.uni o.a.toNat
    match blk.checkAt .scr 16 16 bar with
    | .ok _ => none
    | .error e => some { cause := e, ops := [s.word, bar] }) (fun s g x q =>
    let w := x.uni o.b.toNat
    let n := wbits w 8 0
    let c := o.c.toNat
    let bar := x.uni o.a.toNat
    if q.binding ≠ 0 then s.queueFault g x .queue w c 0 0
    else if q.armed.isSome then s.addResult g x none c [stREFUSED]
    else
      match (s.blockOf x).bind fun b => b.bankAt .scr bar with
      | none => s
      | some bank =>
        let arm : Arm :=
          { bank := bank, off := addrOff bar, gen := s.gen bank, org := s.origin g x, pc := s.issuePc x, word := s.word }
        ((s.setQueue n { q with armed := some arm }).addResult g x none c [stOK]).armedArrival n) o s

/-- The eight words of `qstat` (R255). -/
def Queue.words (q : Queue) : List Word :=
  [q.tail, q.head, q.free,
   toWord ((if q.binding = 0 then 0 else 2 ^ 31) + (if q.armed.isSome then 2 ^ 30 else 0) + q.log2cap * 2 ^ 24 + q.batch),
   toWord q.base, toWord (q.base / 2 ^ 32), toWord q.binding, toWord (q.binding / 2 ^ 32)]

/-- `qstat` (R255). -/
def execQstat (o : EngOp3) (s : State) : Host.Outcome State Fault Refusal :=
  queueWord 8 false true false (fun _ _ _ => none) (fun s g x q =>
    (s.addResult g x none o.a.toNat q.words).addResult g x none o.c.toNat [stOK]) o s

end Sys2Proof.Machine
end

