-- ==== Sys2Proof/Machine/Traversal.lean ====
section
/-!
DEFINITION. The traversal unit (16 R312-R330): the walk of a ray, state records and result groups, `trace` and
`tres`, `gframe` and `gupd`, and what a fault does to them.
-/
namespace Sys2Proof.Machine

/-! ### The walk (R312-R314) -/

/-- The machine and what a traversal keeps on its way: TBEST and the best hit in `t`, the parameter that is
still to be offered, and how many records it reads before it pauses. -/
structure Walker where
  s : State
  t : Trail
  offer : Option Word
  left : Option Nat
  deriving DecidableEq, Repr

/-- How a part of a walk ends. A position is the depth and the trail down to it. -/
inductive Walked where
  | next (w : Walker)
  | ended (w : Walker)
  | proc (w : Walker) (f : Frame) (l : Leaf) (depth trail path : Nat)
  | pause (w : Walker) (depth trail : Nat)
  | fault (w : Walker) (c : Cause) (va at_ depth trail : Nat)
  deriving DecidableEq, Repr

/-- Offers a hit (R314): the record afterwards, and whether it was accepted. -/
def Trail.offerHit (t : Trail) (tmin tr prim u v : Word) (path depth : Nat) : Trail × Bool :=
  if wordLe tmin tr && wordLe tr t.tbest && (!t.hit || wordLt tr t.tbest || prim.ult t.bprim) then
    ({ t with hit := true, tbest := tr, bprim := prim, bu := u, bv := v, bpath := path, bdepth := depth }, true)
  else (t, false)

/-- The triangles of a leaf in index order (R310, R313); the flag ends the walk (FIRST). -/
def testTriangles (r : RayRec) (f : Frame) (l : Leaf) (path depth : Nat) :
    List ((Nat × Nat × Nat) × Nat) → Trail → Trail × Bool
  | [], t => (t, false)
  | (i, j) :: rest, t =>
    match triHit f.o f.d r.oneSide (l.point i.1) (l.point i.2.1) (l.point i.2.2) with
    | none => testTriangles r f l path depth rest t
    | some h =>
      let q := t.offerHit r.tmin ((h.t.plus f.t0).word .rn) (l.prim + toWord j) (h.u.word .rn) (h.v.word .rn) path depth
      if q.2 && r.first then (q.1, true) else testTriangles r f l path depth rest q.1

/-- The walk of a node's list from rank k on; a forced child is on the trail that is followed. -/
def walkKids (go : Walker → Child × Frac → Nat → Bool → Walked) :
    List (Child × Frac) → Nat → Bool → Walker → Walked
  | [], _, _, w => .next w
  | c :: t, k, forced, w =>
    if !forced && wordLt w.t.tbest (c.2.word .rn) then .next w
    else
      match go w c k forced with
      | .next w1 => walkKids go t (k + 1) false w1
      | r => r

/-- Visits a leaf; `at_` says that the followed trail ends here. -/
def visitLeaf (root : Nat) (r : RayRec) (at_ : Bool) (w : Walker) (f : Frame) (va depth trail path : Nat) : Walked :=
  match w.s.readRecord root va 128 with
  | .fault c s1 => .fault { w with s := s1 } c va depth depth trail
  | .ok v _ s1 =>
    let w1 := { w with s := s1 }
    match leafOf v with
    | none => .fault w1 .node va depth depth trail
    | some l =>
      match at_, w.offer with
      | true, some x =>
        let w2 := { w1 with offer := none }
        if !l.proc then .fault w1 .node va depth depth trail
        else if wordNan x then .next w2
        else
          let q := w.t.offerHit r.tmin (wordPlus .rn x f.t0) l.prim 0 0 path depth
          if q.2 && r.first then .ended { w2 with t := q.1 } else .next { w2 with t := q.1 }
      | _, _ =>
        if l.proc then (if r.noProc then .next w1 else .proc w1 f l depth trail path)
        else
          let q := testTriangles r f l path depth l.tris.zipIdx w1.t
          if q.2 then .ended { w1 with t := q.1 } else .next { w1 with t := q.1 }

/-- Visits the record at a path, at most n levels deep. `follow` is the position down to which the trail is
followed (R315). (DEDUCED, log 16.) -/
def visit (root : Nat) (r : RayRec) :
    Nat → Option (Nat × Nat) → Walker → Frame → Nat → Bool → Nat → Nat → Nat → Nat → Walked
  | 0, _, w, _, _, _, depth, trail, _, parent => .fault w .depth parent (depth - 1) (depth - 1) (trail % 2 ^ 72)
  | n + 1, follow, w, f, va, leaf, depth, trail, path, _ =>
    let (following, at_, pos) := match follow with
      | some q => (decide (depth < q.1), depth == q.1, if depth < q.1 then q else (depth, trail))
      | none => (false, false, (depth, trail))
    if !following && w.left == some 0 then .pause w depth trail
    else
      let w0 := if following then w else { w with left := w.left.map fun k => k - 1 }
      if leaf then
        if following then .fault w0 .node va depth pos.1 pos.2
        else visitLeaf root r at_ w0 f va depth trail path
      else if at_ && w.offer.isSome then .fault w0 .node va depth depth trail
      else
        match w0.s.readRecord root va 64 with
        | .fault c s1 => .fault { w0 with s := s1 } c va depth pos.1 pos.2
        | .ok v _ s1 =>
          let w1 := { w0 with s := s1 }
          match nodeKids va v with
          | none => .fault w1 .node va depth pos.1 pos.2
          | some kids =>
            let l := nodeList r f kids
            let k := if following then field pos.2 (3 * depth + 2) (3 * depth) else 0
            if following && decide (l.length ≤ k) then .fault w1 .node va depth pos.1 pos.2
            else
              walkKids (fun w c k forced =>
                visit root r n (if forced then follow else none) w (f.inward c.1 c.2) c.1.addr c.1.leaf (depth + 1)
                  (trail + k * 8 ^ depth) (path + c.1.idx * 8 ^ depth) va) (l.drop k) k following w1

/-- The walk from the root record. -/
def walkRay (root : Nat) (r : RayRec) (follow : Option (Nat × Nat)) (w : Walker) : Walked :=
  let pos := match follow with
    | some q => q
    | none => (0, 0)
  match w.s.readRecord root r.root 64 with
  | .fault c s1 => .fault { w with s := s1 } c r.root 0 pos.1 pos.2
  | .ok v _ s1 =>
    match rootNode r.root v with
    | none => .fault { w with s := s1 } .node r.root 0 pos.1 pos.2
    | some a => visit root r 25 follow { w with s := s1 } r.frame a false 0 0 0 r.root

/-! ### State records and results (R315, R318) -/

/-- The 64 bytes of a state record. -/
def Trail.bytes (t : Trail) : List Byte :=
  bytesOf 64 (t.trail + t.depth * 2 ^ 72 + t.kind * 2 ^ 77 + t.bpath * 2 ^ 80 + t.bdepth * 2 ^ 152
    + (if t.hit then 2 ^ 157 else 0) + t.tbest.toNat * 2 ^ 160 + t.bprim.toNat * 2 ^ 192 + t.bu.toNat * 2 ^ 224
    + t.bv.toNat * 2 ^ 256 + t.check.toNat * 2 ^ 288)

/-- A state record from its bytes. -/
def trailOf (v : Nat) : Trail :=
  { trail := field v 71 0, depth := field v 76 72, kind := field v 79 77, bpath := field v 151 80
    bdepth := field v 156 152, hit := v.testBit 157, tbest := toWord (field v 191 160)
    bprim := toWord (field v 223 192), bu := toWord (field v 255 224), bv := toWord (field v 287 256)
    check := toWord (field v 319 288) }

/-- The state of a new traversal (R317). -/
def freshTrail (r : RayRec) : Trail :=
  { kind := 1, depth := 0, trail := 0, hit := false, tbest := r.tmax, bprim := 0, bu := 0, bv := 0, bpath := 0
    bdepth := 0, check := r.check }

/-- A path of up to 24 steps as three words; the last one holds the depth. -/
def pathWords (path depth : Nat) : List Word :=
  [toWord path, toWord (path / 2 ^ 32), toWord (path / 2 ^ 64 % 2 ^ 8 + depth * 2 ^ 8)]

/-- The results of a traversal that has ended. -/
def Trail.results (t : Trail) : List Word :=
  if t.hit then [stHIT, t.tbest, t.bprim, t.bu, t.bv] ++ pathWords t.bpath t.bdepth ++ List.replicate 8 0
  else stMISS :: List.replicate 15 0

/-- The results of a traversal that is suspended at a procedural leaf. -/
def procResults (r : RayRec) (t : Trail) (f : Frame) (l : Leaf) (path depth : Nat) : List Word :=
  let cl := fun (i : Int) => clamp i (-(2 ^ 47)) (2 ^ 47 - 1)
  let u := fun (i : Int) => (cl i % 2 ^ 48).toNat
  let range := f.o.list.any fun i => cl i != i
  let sh := fun i => nth f.sh i 0
  [stPROC ||| (if range then 0x100 else 0), wordPlus .rd r.tmin (-f.t0), l.prim, wordPlus .ru t.tbest (-f.t0), l.user]
    ++ pathWords path depth
    ++ [toWord (u f.o.x), toWord (u f.o.y), toWord (u f.o.z), toWord (u f.o.x / 2 ^ 32 + u f.o.y / 2 ^ 32 * 2 ^ 16),
        toWord (u f.o.z / 2 ^ 32), toWord (sh 0 + sh 1 * 2 ^ 8 + sh 2 * 2 ^ 16), 0, 0]

/-- Writes a state record at its bank. -/
def State.putTrail (s : State) (r : Ray) (t : Trail) : State := s.engineWrite none none r.record t.bytes

/-! ### trace and tres at the unit -/

/-- What a walk comes to. (DEDUCED, log 16.) -/
def State.endWalk (id : Nat) (r : Ray) (q : RayRec) : Walked → State
  | .next w | .ended w =>
    let t := { w.t with
      kind := 3, depth := 0, trail := 0, bpath := if w.t.hit then w.t.bpath else 0, bdepth := if w.t.hit then w.t.bdepth else 0 }
    (w.s.putTrail r t).finishRay id r t.results
  | .proc w f l depth trail path =>
    let t := { w.t with kind := 2, depth := depth, trail := trail }
    (w.s.putTrail r t).finishRay id r (procResults q t f l path depth)
  | .pause w depth trail =>
    { w.s with
      rays := Tab.put w.s.rays id { r with mode := .inner { w.t with kind := 1, depth := depth, trail := trail } w.offer } }
  | .fault w c va at_ depth trail =>
    if c.serviced then
      let t := { w.t with kind := 1, depth := depth, trail := trail }
      (w.s.putTrail r t).stopRay id { r with mode := .record w.offer } c va at_
    else (w.s.putTrail r { w.t with kind := 4, depth := depth, trail := trail }).abortRay id r c va at_

/-- The unit goes on with a ray. It reads all the records that are left, or a free number of them before others
act; a paused walk goes on along its trail (R315). -/
def State.runRay (s : State) (id : Nat) (r : Ray) : State :=
  let q := (rayRec r.regs).1
  let (j, s1) := (s.settleCore [r.org.group] r.org.core r.seq).choose 256
  let go := fun (t : Trail) (offer : Option Word) (follow : Option (Nat × Nat)) =>
    State.endWalk id r q (walkRay r.root q follow
      { s := s1, t := t, offer := offer, left := if j = 0 then none else some j })
  let bad := s1.anyError r.record 64
  let t := trailOf (ofBytes (s1.readHome r.record 64))
  let abort := fun (c : Cause) (va : Nat) =>
    (s1.putTrail r { t with kind := 4, check := q.check }).abortRay id r c va t.depth
  match r.mode with
  | .fresh => go (freshTrail q) none none
  | .inner t offer => go t offer (some (t.depth, t.trail))
  | .tres x =>
    if bad then abort .ecc q.addr.toNat
    else if t.kind != 2 || t.check != q.check then s1.finishRay id r (stREFUSED :: List.replicate 15 0)
    else go t (some x) (some (t.depth, t.trail))
  | .record offer =>
    if bad then abort .ecc q.addr.toNat
    else if t.kind != 1 || t.check != q.check then abort .node q.root
    else go t offer (some (t.depth, t.trail))

/-- What `gframe` writes for a leaf. -/
def frameWords (va : Nat) (p : Place) (depth : Nat) : List Word :=
  let sh := fun i => nth p.sh i 0
  let exact := p.org.all fun v => v % 2 ^ 176 == 0
  [if exact then stOK else stINEXACT] ++ p.org.map (fun v => toWord (v / 2 ^ 176))
    ++ [toWord (sh 0 + sh 1 * 2 ^ 8 + sh 2 * 2 ^ 16), toWord va, toWord (va / 2 ^ 32 % 2 ^ 20), toWord depth]

/-- A lane's `gframe`. -/
def State.runFrame (s : State) (id : Nat) (r : Ray) : State :=
  match walkHandle r.root r.regs (s.settleCore [r.org.group] r.org.core r.seq) with
  | .leaf _ _ va p s1 => s1.finishRay id r (frameWords va p (wbits (nth r.regs 2 0) 12 8))
  | .fault c va d s1 => if c.serviced then s1.stopRay id r c va d else s1.abortRay id r c va d

/-- TRACE_COMPLETE (R317): the traversal unit goes on with a lane's operation. -/
def execTraceComplete (ray : Nat) (s : State) : Host.Outcome State Fault Refusal :=
  match Tab.get s.rays ray with
  | none => .next s
  | some r =>
    if r.phase != .queued || s.isSaved r.org.group then .next s
    else
      match r.op with
      | .ray => .next (s.runRay ray r)
      | .gframe => .next (s.runFrame ray r)
      | .gupd => .next (s.settleRay (ray, r))

/-- BASE_DIE_BOX_TEST (R319): the base dies test boxes for the core; it changes no result and no state. -/
def execBaseDieBoxTest (_ray : Nat) (s : State) : Host.Outcome State Fault Refusal := .next s

/-! ### Issue -/

/-- An operation of a lane enters the unit; its destinations are pending. -/
def State.sendRay (s : State) (g : Nat) (r : Ray) : State :=
  let (id, s1) := s.fresh
  ({ s1 with rays := Tab.put s1.rays id r }).modGroup g fun y => y.setPend r.lane r.dest r.op.regs .traversal

/-- The operation of a lane as it is captured. -/
def newRay (s : State) (g : Nat) (x : Group) (lane : Nat) (op : RayOp) (dest : Nat) (regs : List Word) (mode : RayMode)
    (record unit : Nat) : Ray :=
  { org := s.origin g x, lane := lane, op := op, pc := s.issuePc x, word := s.word, dest := dest, regs := regs
    mode := mode, record := record, root := s.rootOf x, seq := s.ord.seq, tag := Tab.get s.ord.curTags x.core
    unit := unit, line := none, phase := .queued }

/-- The check of one lane's ray (R307): ILLEGAL, or the fault of its state record address. -/
def rayFault (s : State) (b : Block) (regs : List Word) (lane : Nat) : Option Trap :=
  let q := rayRec regs
  if !q.2 then some { cause := .illegal, lane := some lane, ops := [s.word] }
  else
    match b.checkAt .scr 64 64 q.1.addr with
    | .error c => some { cause := c, lane := some lane, ops := [s.word, q.1.addr] }
    | .ok _ => none

/-- The rays of a core that are in flight (16, Capacity). -/
def State.raysOf (s : State) (core : Nat) : Nat := (s.rays.filter fun r => r.2.op == .ray && r.2.org.core == core).length

/-- `trace` and `tres`. -/
def bodyTrace (res : Bool) : LaneBody := fun d a b =>
  aligned [d, a] <|
    checked { laneR := (List.range 12).map (a + ·) ++ (if res then [b] else []), laneW := (List.range 16).map (d + ·) }
    fun s g x =>
      match s.blockOf x with
      | none => .ok s
      | some blk =>
        let regs := fun l => x.regList l a 12
        match (lanesOf x.active).findSome? fun l => rayFault s blk (regs l) l with
        | some t => .trap t
        | none =>
          let go := (lanesOf x.active).filter fun l => !x.isHelper l
          if 256 < s.raysOf x.core + go.length then .hold s
          else
            let y := ((lanesOf x.active).filter x.isHelper).foldl
              (fun y l => y.setRegs l d (stHELPER :: List.replicate 15 0)) x
            let one := fun (t : State) (l : Nat) =>
              let key := match blk.keyAt .scr (rayRec (regs l)).1.addr with
                | some k => k
                | none => bankKey 0 .data 0
              t.sendRay g (newRay s g x l .ray d (regs l) (if res then .tres (x.reg l b) else .fresh) key 0)
            .ok (go.foldl one (s.setGroup g y)).bumpSeq

/-- `trace` (R317). -/
def execTrace (o : Regs2) (s : State) : Host.Outcome State Fault Refusal :=
  stepWord false o.park (bodyTrace false o.d.toNat o.a.toNat 0) s

/-- `tres` (R317). -/
def execTres (o : Regs3) (s : State) : Host.Outcome State Fault Refusal :=
  stepWord false o.park (bodyTrace true o.d.toNat o.a.toNat o.b.toNat) s

/-- The operands of a lane's `gframe` or `gupd`: the handle and what follows it, and the root pair. -/
def handleRegs (x : Group) (l a n b : Nat) : List Word := x.regList l a n ++ x.regList l b 2

/-- ILLEGAL at issue (R320). -/
def handleFault (regs : List Word) (upd : Bool) : Bool :=
  !handleOk (nth regs 0 0) (nth regs 1 0) (nth regs 2 0) || (upd && wbits (nth regs 3 0) 31 4 != 0)
    || wbits (nth regs (regs.length - 2) 0) 5 0 != 0

/-- One lane of `gframe` during run-ahead: it is executed as a load (R324). -/
def specFrame (g : Nat) (x : Group) (root d : Nat) (regs : Nat → List Word) (s : State) (l : Nat) : State :=
  match walkHandle root (regs l) s with
  | .leaf _ _ va p s1 =>
    (s1.modGroup g fun y => y.setPend l d 8 .traversal).addResult g x (some l) d (frameWords va p (wbits (nth (regs l) 2 0) 12 8))
  | .fault c va _ s1 =>
    s1.modGroup g fun y =>
      if c.serviced then
        { y.setRegs l d (List.replicate 8 poison) with
          runAhead := y.runAhead.map fun r => r.enter (batchPage va (c == .migrate) false false) }
      else y.stopRunAhead

/-- The key of the leaf that a `gupd` finds in a state: what it may write, and where it holds others back (log 18). -/
def State.leafOfUpd (s : State) (r : Ray) : Option Nat :=
  match findUpd r s with
  | .write key _ _ _ => some key
  | .status _ key _ => some key
  | .fault _ _ _ _ => none

/-- `gframe` and `gupd`. (DEDUCED, log 18.) -/
def bodyHandle (upd : Bool) : LaneBody := fun d a b =>
  let n := if upd then 7 else 3
  aligned (if upd then [] else [d]) <|
    checked { laneR := (List.range n).map (a + ·) ++ [b, b + 1], laneW := (List.range (if upd then 1 else 8)).map (d + ·) }
    fun s g x =>
      let regs := fun l => handleRegs x l a n b
      match (lanesOf x.active).find? fun l => handleFault (regs l) upd with
      | some l => .trap { cause := .illegal, lane := some l, ops := [s.word] }
      | none =>
        if x.runAhead.isSome then
          .ok ((lanesOf x.active).foldl (specFrame g x (s.rootOf x) d regs) (s.settleCore [g] x.core s.ord.seq))
        else
          let (unit, s1) := s.fresh
          let ray := fun (l : Nat) =>
            newRay s g x l (if upd then .gupd else .gframe) d (regs l) .fresh (bankKey 0 .data 0) unit
          let seen := s.settleCore [g] x.core s.ord.seq
          let rays := ((lanesOf x.active).filter fun l => !(upd && x.isHelper l)).map fun l =>
            { ray l with line := if upd then seen.leafOfUpd (ray l) else none }
          let helpers := (lanesOf x.active).filter fun l => upd && x.isHelper l
          let s2 := helpers.foldl (fun t l =>
            (t.modGroup g fun y => y.setPend l d 1 .traversal).addResult g x (some l) d [stHELPER]) s1
          .ok (rays.foldl (fun t r => t.sendRay g r) s2).bumpSeq

/-- `gframe` (R320, R321). -/
def execGframe (o : Regs3) (s : State) : Host.Outcome State Fault Refusal :=
  stepWord true o.park (bodyHandle false o.d.toNat o.a.toNat o.b.toNat) s

/-- `gupd` (R320, R322). -/
def execGupd (o : Regs3) (s : State) : Host.Outcome State Fault Refusal :=
  stepWord false o.park (bodyHandle true o.d.toNat o.a.toNat o.b.toNat) s

end Sys2Proof.Machine
end

