-- ==== Sys2Proof/Machine/Raster.lean ====
section
/-!
DEFINITION. The raster pipeline (18 R331-R347, R399): passes and batches, `emitv`, `emitp` and `export`, the
classifier and the fixed rasteriser, the software path, tiles and pixel launches, blending, and the DONE word.
-/
namespace Sys2Proof.Machine

/-! ### The pass record (R331) -/

/-- A pass record. Directions are integers on one power-of-two scale: the parameter of a ray is the parameter
found with them times 2^-k. -/
structure PassRec where
  eye : V3
  da : V3
  db : V3
  dc : V3
  k : Int
  tnear : Word
  tfar : Word
  w : Nat
  h : Nat
  ls : Nat
  cull : Nat
  overBlend : Bool
  rgba8 : Bool
  firstCore : Nat
  cores : Nat
  nbatch : Nat
  nv : Nat
  np : Nat
  swq : Nat
  swen : Bool
  tgt : Nat
  vis : Nat
  pix : Nat
  pid : Word
  siga : Nat
  deriving DecidableEq, Repr

/-- The record of 64 words, and whether it is valid. -/
def passRec (ws : List Word) : PassRec × Bool :=
  let w := fun i => nth ws i 0
  let org := fun i => sxNat ((w i).toNat + wbits (w (i + 1)) 15 0 * 2 ^ 32) 48
  let e := [sxNat (wbits (w 15) 7 0) 8, sxNat (wbits (w 15) 15 8) 8, sxNat (wbits (w 15) 23 16) 8]
  let e0 := e.foldl min (nth e 0 0)
  let sh := fun i => (nth e i 0 - e0).toNat
  let vec := fun i => ({ x := (w i).toInt * 2 ^ sh 0, y := (w (i + 1)).toInt * 2 ^ sh 1, z := (w (i + 2)).toInt * 2 ^ sh 2 } : V3)
  let r : PassRec :=
    { eye := { x := org 0, y := org 2, z := org 4 }, da := vec 6, db := vec 9, dc := vec 12, k := 16 + e0
      tnear := w 16, tfar := w 17, w := wbits (w 18) 15 0, h := wbits (w 18) 31 16, ls := wbits (w 19) 1 0
      cull := wbits (w 19) 3 2, overBlend := wbits (w 19) 5 4 == 1, rgba8 := wbit (w 19) 6
      firstCore := wbits (w 20) 7 0, cores := wbits (w 20) 15 8, nbatch := (w 21).toNat, nv := wbits (w 22) 7 0 + 1
      np := wbits (w 22) 15 8 + 1, swq := wbits (w 23) 8 0, swen := wbit (w 23) 31
      tgt := (w 24).toNat + wbits (w 25) 19 0 * 2 ^ 32, vis := (w 26).toNat + wbits (w 27) 19 0 * 2 ^ 32
      pix := (w 28).toNat + wbits (w 29) 23 0 * 2 ^ 32, pid := w 30, siga := (w 31).toNat + wbits (w 47) 19 0 * 2 ^ 32 }
  let side := fun n => n % 16 == 0 && decide (16 ≤ n) && decide (n ≤ 16384)
  (r, wbits (w 1) 31 16 == 0 && wbits (w 3) 31 16 == 0 && wbits (w 5) 31 16 == 0 && wbits (w 15) 31 24 == 0
    && !wbit (w 16) 31 && wordLe (w 16) (w 17) && side r.w && side r.h && r.cull != 3 && decide (wbits (w 19) 5 4 ≤ 1)
    && wbits (w 19) 31 7 == 0 && r.cores != 0 && decide (r.firstCore + r.cores ≤ 192) && wbits (w 20) 31 16 == 0
    && r.nbatch != 0 && decide (r.nbatch ≤ 2 ^ 24) && wbits (w 22) 31 16 == 0 && wbits (w 23) 30 9 == 0
    && r.tgt % 64 == 0 && r.vis % 64 == 0 && (((ws.drop 39).take 8).all (· == 0)) && wbits (w 47) 31 20 == 0
    && ((ws.drop 48).all (· == 0)) && r.da.dot (r.db.cross r.dc) != 0)

def PassRec.samples (r : PassRec) : Nat := 2 ^ r.ls
def PassRec.across (r : PassRec) : Nat := r.w / 16
def PassRec.tiles (r : PassRec) : Nat := r.across * (r.h / 16)

/-- The core that owns tile n (R340). -/
def PassRec.owner (r : PassRec) (n : Nat) : Nat := r.firstCore + (n % r.across + 5 * (n / r.across)) % r.cores

/-- Bytes of a target sample, and of a tile of samples of a size (R339, R346). -/
def PassRec.bpp (r : PassRec) : Nat := if r.rgba8 then 4 else 8
def PassRec.tileBytes (r : PassRec) (size : Nat) : Nat := 256 * r.samples * size

/-- The offset of a sample in its tile. -/
def PassRec.inTile (r : PassRec) (size x y s : Nat) : Nat := size * (r.samples * (16 * (y % 16) + x % 16) + s)

/-- D(X, Y). -/
def PassRec.dir (r : PassRec) (x y : Int) : V3 :=
  { x := r.da.x + x * r.db.x + y * r.dc.x, y := r.da.y + x * r.db.y + y * r.dc.y, z := r.da.z + x * r.db.z + y * r.dc.z }

/-- The sample offsets of R336. -/
def sampleOffsets : Nat → List (Nat × Nat)
  | 0 => [(8, 8)]
  | 1 => [(4, 4), (12, 12)]
  | 2 => [(6, 2), (14, 6), (2, 10), (10, 14)]
  | _ => [(9, 5), (7, 11), (13, 9), (5, 3), (3, 13), (1, 7), (11, 15), (15, 1)]

/-- The parameter of a ray of the pass. -/
def PassRec.param (r : PassRec) (t : Frac) : Frac :=
  if 0 ≤ r.k then { t with d := t.d * 2 ^ r.k.toNat } else { t with n := t.n * 2 ^ (-r.k).toNat }

/-! ### Vertices and coverage (R335-R338) -/

/-- The position of a vertex slot, packed as in a ray record (R306, R334). -/
def slotPoint (ws : List Word) : V3 :=
  let w := fun i => nth ws i 0
  let org := fun (lo : Word) (hi : Nat) => sxNat (lo.toNat + hi * 2 ^ 32) 48
  { x := org (w 0) (wbits (w 3) 15 0), y := org (w 1) (wbits (w 3) 31 16), z := org (w 2) (wbits (w 4) 15 0) }

def Prim.point (p : Prim) (i : Nat) : V3 := slotPoint (nth p.verts i [])

/-- The rounded parameter of a sample that covers a triangle (R337). -/
def PassRec.covers (r : PassRec) (p : Prim) (d : V3) : Option Word :=
  match triHit r.eye d false (p.point 0) (p.point 1) (p.point 2) with
  | none => none
  | some h =>
    let sign := (side r.eye d (p.point 1) (p.point 2)).1
    let t := (r.param h.t).word .rn
    let inside := (r.eye.list.zip d.list).all fun q =>
      let v := q.1 * (h.t.d : Int) + h.t.n * q.2
      decide (0 ≤ v) && decide (v ≤ 2 ^ 32 * (h.t.d : Int))
    if (r.cull != 1 || sign == 1) && (r.cull != 2 || sign == -1) && wordLe r.tnear t && wordLe t r.tfar && inside then
      some t
    else none

/-- Whether the area of a triangle on the screen is at or above a threshold (R338). -/
def PassRec.large (r : PassRec) (p : Prim) (thr : Word) : Bool :=
  let det := fun (a b c : V3) => a.dot (b.cross c)
  let delta := det r.da r.db r.dc
  let w := fun i => (p.point i).sub r.eye
  let row := fun i => ({ x := det (w i) r.db r.dc, y := det r.da (w i) r.dc, z := det r.da r.db (w i) } : V3)
  let front := (List.range 3).all fun i => decide (0 < (row i).x * signOf delta)
  let cross := (det (row 0) (row 1) (row 2)).natAbs
  let den := ((row 0).x * (row 1).x * (row 2).x).natAbs
  !front || decide (thr.toNat ≤ cross / (2 * den))

/-- What a triangle contributes to the visibility buffer: address, word and the owner of the tile (R339). -/
def PassRec.contributions (r : PassRec) (p : Prim) : List (Nat × DWord × Nat) :=
  (List.range r.h).flatMap fun (y : Nat) => (List.range r.w).flatMap fun (x : Nat) =>
    (sampleOffsets r.ls).zipIdx.filterMap fun o =>
      match r.covers p (r.dir ((16 * x + o.1.1 : Nat) : Int) ((16 * y + o.1.2 : Nat) : Int)) with
      | none => none
      | some t =>
        let tile := y / 16 * r.across + x / 16
        some ((r.vis + r.tileBytes 8 * tile + r.inTile 8 x y o.2) % 2 ^ 52,
              BitVec.ofNat 64 ((2 ^ 32 - 1 - t.toNat) * 2 ^ 32 + p.id.toNat), r.owner tile)

/-! ### Page service (R399) -/

/-- A raster unit stops at a page: MIGRATE waits until a walk no longer finds MIG (13 R288), XLATE for the host's answer. -/
def State.stopPass (s : State) (id : Nat) (p : Pass) (c : Cause) (va tile : Nat) : State :=
  let line := va - va % 128
  let stop : Option PassStop := if c = .migrate && !s.foundMig p.root va then none
    else some { va := va, tile := tile, migrating := c == .migrate }
  let s1 := { s with passes := Tab.put s.passes id { p with stop := stop } }
  if c = .migrate then s1
  else
    let f := asyncRec s .xlate 0 10 0 [toWord line, toWord (line / 2 ^ 32), toWord p.va, toWord (p.va / 2 ^ 32), toWord tile] 0
    { s1 with
      reports := s1.reports ++ [{ frontReport .pageService f (.pass id) [] with core := (passRec p.record).1.owner tile }] }

/-- A fault on the target or the visibility buffer: a page is serviced, and any other cause ends the pass. -/
def State.passFault (s : State) (id : Nat) (p : Pass) (c : Cause) (va tile : Nat) : State :=
  if c.serviced then s.stopPass id p c va tile else s.refusePass id 4 c.code

/-- The page of an address of a buffer: untyped, and outside a descriptor area. -/
def State.plainPage (s : State) (root va : Nat) (k : AccessKind) : Except Cause Page × State :=
  match s.translate root va k with
  | (.page p, s1) =>
    if p.fmt != 0 || (p.cmp != 0 && decide (p.size ≤ va % 2 ^ 52 - p.vbase + p.size / 256)) then (.error .format, s1)
    else (.ok p, s1)
  | (.xlate, s1) => (.error .xlate, s1)
  | (.migrate, s1) => (.error .migrate, s1)
  | (.protect, s1) => (.error .protect, s1)

/-- Contributions are sent to the slices of their words, as `atb64.max.u`; the first that meets a fault keeps the
rest waiting. -/
def sendContributions (id : Nat) : List (Nat × DWord × Nat) → State → State
  | [], s => { s with passes := Tab.modify s.passes id fun p => { p with todo := [] } }
  | (va, w, core) :: t, s =>
    match Tab.get s.passes id with
    | none => s
    | some p =>
      let r := (passRec p.record).1
      let tile := (va + 2 ^ 52 - r.vis) % 2 ^ 52 / r.tileBytes 8
      match s.plainPage p.root va .write with
      | (.error c, s1) => s1.passFault id { p with todo := (va, w, core) :: t } c va tile
      | (.ok q, s1) =>
        let op : SliceOp :=
          { org := { group := 0, num := tile, block := 0, core := core, resident := 0 }, op := .maxU, wide := true, dest := none
            lanes := [{ lane := 0, key := q.key, comp := q.comp, v := w, new := 0 }], pc := 0, word := 0, tag := none
            seq := s1.ord.seq, pass := some id }
        sendContributions id t ({ s1 with sliceOps := s1.sliceOps ++ [op] }.bumpSeq)

/-- A pass goes on with the contributions that wait. -/
def State.sendTodo (s : State) (id : Nat) : State :=
  match Tab.get s.passes id with
  | none => s
  | some p => if p.stop.isNone && p.status == 0 then sendContributions id p.todo s else s

/-! ### Opening a pass and emitting (R332-R334) -/

/-- The open pass of a record address in an address space. (DEDUCED, log 17.) -/
def State.passAt (s : State) (root va : Nat) : Option (Nat × Pass) :=
  s.passes.find? fun p => p.2.root == root && p.2.va == va

/-- Batch number β of a group. -/
def State.batchNumber (s : State) (x : Group) : Nat :=
  match s.blockOf x with
  | none => 0
  | some b =>
    match Tab.get s.launches b.launch with
    | none => 0
    | some l => b.num * l.record.blockGroups + x.num

/-- The launch of a group. -/
def State.launchOf (s : State) (x : Group) : Nat :=
  match s.blockOf x with
  | none => 0
  | some b => b.launch

/-- One lane of an emit. -/
def emitLane (vertex : Bool) (x : Group) (d a beta : Nat) (r : PassRec) (p : Pass) (l : Nat) : Pass :=
  let i := (x.reg l a).toNat
  let count := fun k => { p with counts := setNth p.counts k ((nth p.counts k 0 + 1) % 2 ^ 32) }
  let change := fun (f : Batch → Batch) => { p with batches := Tab.modify p.batches beta f }
  if vertex then
    if i < r.nv then change fun b => { b with vtx := Tab.put b.vtx i (x.regList l d 8) } else count 0
  else if i = 2 ^ 32 - 1 then p
  else if i < r.np then change fun b => { b with prim := Tab.put b.prim i (wbits (x.reg l d) 23 0) }
  else count 1

/-- An emit into an open pass. -/
def emitInto (vertex : Bool) (d a : Nat) (s : State) (g : Nat) (x : Group) (id : Nat) (p : Pass) : Done :=
  let r := (passRec p.record).1
  let beta := s.batchNumber x
  let other := match x.rasterPass with
    | some q => q != id
    | none => false
  if p.launch != s.launchOf x || other || decide (r.nbatch ≤ beta) then illegal s
  else
    let p1 := if (Tab.get p.batches beta).isSome then p
      else { p with batches := Tab.put p.batches beta { core := x.core, vtx := [], prim := [] } }
    let p2 := (x.participants false).foldl (emitLane vertex x d a beta r) p1
    .ok ({ s with passes := Tab.put s.passes id p2 }.modGroup g fun y =>
      { y with rasterPass := some id, rasterBatch := beta })

/-- A pass that opens. -/
def newPass (va root launch : Nat) (ws : List Word) : Pass where
  va := va
  root := root
  launch := launch
  record := ws
  batches := []
  closed := 0
  counts := List.replicate 5 0
  prims := []
  todo := []
  nextBatch := 0
  held := []
  flush := []
  soft := []
  softUsed := false
  flushed := false
  tiles := []
  pix := none
  status := 0
  reason := 0
  sub := 0
  stop := none

/-- The first emit of a pass reads the record, as a load does (R332). -/
def openPass (vertex : Bool) (d a va : Nat) (s : State) (g : Nat) (x : Group) : Done :=
  let root := s.rootOf x
  if va % 256 != 0 then illegal s
  else if 64 ≤ s.passes.length then .hold s
  else
    match s.plainPage root va .read with
    | (.error c, s1) =>
      if c.serviced then
        let f := faultRec s x { cause := c, ops := [toWord va, toWord (va / 2 ^ 32)] }
        okGroup (s1.checkpoint x) g (x.withPages f [.fault c 0 va va] false)
      else .trapAt s1 { cause := c, ops := [s.word, toWord va, toWord (va / 2 ^ 32)] }
    | (.ok q, s1) =>
      let s2 := s1.settleOwn g ((List.range 256).map (q.key + ·))
      let v := s2.loadBytes x.core (some g) q.comp q.key 256
      let ws := wordsOfBytes v.1
      if v.2.2 || !(passRec ws).2 || nth ws 32 0 != 0 || nth ws 33 0 != 0 then
        .trapAt s1 { cause := .illegal, ops := [s.word] }
      else
        let y := x.addTags v.2.1
        let (id, s3) := s2.fresh
        emitInto vertex d a (s3.setGroup g y) g y id (newPass va root (s.launchOf x) ws)

/-- `emitv` and `emitp`. -/
def bodyEmit (vertex : Bool) : LaneBody := fun d a b =>
  checked { laneR := a :: (List.range (if vertex then 8 else 1)).map (d + ·), uniR := [b, b + 1] } fun s g x =>
    let bad := fun l => if vertex then wbits (x.reg l (d + 4)) 31 16 != 0 else wbits (x.reg l d) 31 24 != 0
    match (x.participants false).find? bad with
    | some l => .trap { cause := .illegal, lane := some l, ops := [s.word] }
    | none =>
      let hi := x.uni (b + 1)
      let va := (x.uni b).toNat + wbits hi 19 0 * 2 ^ 32
      if wbits hi 31 20 != 0 then illegal s
      else
        match s.passAt (s.rootOf x) va with
        | some (id, p) => emitInto vertex d a s g x id p
        | none => openPass vertex d a va s g x

/-- `emitv` (R334). -/
def execEmitv (o : Regs3) (s : State) : Host.Outcome State Fault Refusal :=
  stepWord false o.park (bodyEmit true o.d.toNat o.a.toNat o.b.toNat) s

/-- `emitp` (R334). -/
def execEmitp (o : Regs3) (s : State) : Host.Outcome State Fault Refusal :=
  stepWord false o.park (bodyEmit false o.d.toNat o.a.toNat o.b.toNat) s

/-- `export` (R345): each fibre's last colour and mask are kept until the fibre ends. -/
def execExportPixel (o : Regs2) (s : State) : Host.Outcome State Fault Refusal :=
  let d := o.d.toNat
  let a := o.a.toNat
  stepWord false o.park (checked { laneR := a :: (List.range 4).map (d + ·) } fun s g x =>
    let mine := fun l => x.pixels.any fun q => q.index == x.width * x.num + l
    match (lanesOf x.active).find? fun l => !mine l with
    | some l => .trap { cause := .illegal, lane := some l, ops := [s.word] }
    | none =>
      okGroup s g { x with pixels := x.pixels.map fun q =>
        let l := q.index - x.width * x.num
        if x.active.getLsbD l && !q.helper then
          { q with shown := some (x.reg l a &&& 0xFF &&& q.mask, x.regList l d 4) } else q }) s

/-! ### The close of a batch (R335, R338, R341) -/

/-- The record of a triangle for the software path. -/
def softRecord (p : Prim) : List Byte :=
  let fieldOf := fun (i : Int) => bytesOf 6 (i % 2 ^ 48).toNat
  (List.range 3).flatMap (fun i => (p.point i).list.flatMap fieldOf) ++ [0, 0] ++ bytesOf 4 p.id.toNat ++ [0, 0, 0, 0]

/-- Whether queue SWQ can take the records of the software path: SWEN is 1, and the queue is configured for the address
space of the pass and bound (11 R255, R257). -/
def State.softQueue (s : State) (p : Pass) : Bool :=
  let r := (passRec p.record).1
  r.swen && match Tab.get s.queues r.swq with
    | some q => q.binding != 0 && q.root == p.root
    | none => false

/-- The contributions of the batches that have closed are sent in ascending sequence number: those of a batch wait until
every lower batch has closed (R340). -/
def Pass.advance : Nat → Pass → Pass
  | 0, p => p
  | n + 1, p =>
    match Tab.get p.held p.nextBatch with
    | none => p
    | some l =>
      { p with todo := p.todo ++ l, held := Tab.del p.held p.nextBatch, nextBatch := p.nextBatch + 1 }.advance n

/-- BATCH_CLOSE (R335): the batch's triangles are assembled; each goes to the fixed rasteriser or to the software
path. -/
def State.closeBatch (s : State) (id beta : Nat) : State :=
  match Tab.get s.passes id with
  | none => s
  | some p =>
    match Tab.get p.batches beta with
    | none => s
    | some b =>
      let r := (passRec p.record).1
      let thr := (s.core b.core).rasthr
      let slot := fun i => Tab.getD b.vtx i (List.replicate 8 0)
      let used := b.prim.filter fun e => e.2 != 0
      let idx := fun (v : Nat) => [v % 256, field v 15 8, field v 23 16]
      let good := used.filter fun e => (idx e.2).all fun i => decide (i < r.nv)
      let prims := good.map fun e => ({ id := r.pid + toWord (256 * beta + e.1), verts := (idx e.2).map slot } : Prim)
      let fixed := prims.filter fun q => r.large q thr
      let soft := prims.filter fun q => !r.large q thr
      let add := fun (l : List Nat) k n => setNth l k ((nth l k 0 + n) % 2 ^ 32)
      let counts := add (add (add p.counts 2 (used.length - good.length)) 3 fixed.length) 4 soft.length
      let p1 :=
        { p with
          batches := Tab.del p.batches beta, closed := p.closed + 1, counts := counts, prims := p.prims ++ prims
          held := if p.status = 0 then Tab.put p.held beta (fixed.flatMap r.contributions) else []
          flush := p.flush ++ [(b.core, s.ord.seq)]
          soft := if p.status = 0 then p.soft ++ soft.map softRecord else []
          softUsed := p.softUsed || !soft.isEmpty }
      let s1 := { s with passes := Tab.put s.passes id (p1.advance p1.held.length) }
      if thr != 0 && !s.softQueue p then s1.refusePass id 2 0 else s1.sendTodo id

/-- SW_PATH_ENQUEUE (R341): the oldest record of the software path enters queue SWQ, if it has room; after the
last batch the queue is flushed. -/
def execSwPathEnqueue (pass : Nat) (s : State) : Host.Outcome State Fault Refusal :=
  match Tab.get s.passes pass with
  | none => .next s
  | some p =>
    let r := (passRec p.record).1
    match p.soft, Tab.get s.queues r.swq with
    | [], some _ =>
      if !p.flushed && p.closed == r.nbatch && s.softQueue p then
        .next { s.claims r.swq true with passes := Tab.put s.passes pass { p with flushed := true } }
      else .next s
    | _ :: _, none => .next (s.refusePass pass 2 0)
    | bytes :: t, some q =>
      if !s.softQueue p then .next (s.refusePass pass 2 0)
      else if q.full then .next s
      else
        match s.recordKey q q.tail with
        | (none, s1) => .next (s1.refusePass pass 2 0)
        | (some (comp, key), s1) =>
          let s2 := (s1.engineWrite none comp key bytes).setQueue r.swq { q with tail := q.tail + 1 }
          let s3 := { s2 with passes := Tab.put s2.passes pass { p with soft := t } }
          .next ((s3.claims r.swq false).armedArrival r.swq)
    | [], none => .next s

/-! ### Resolving a tile (R342-R344) -/

/-- Everything that the pass puts into its visibility buffer is there. -/
def State.passReady (s : State) (id : Nat) (p : Pass) : Bool :=
  let r := (passRec p.record).1
  p.status == 0 && p.stop.isNone && p.closed == r.nbatch && p.todo.isEmpty
    && !(s.sliceOps.any fun o => o.pass == some id)
    && (!(p.softUsed || s.softQueue p) || (p.soft.isEmpty && p.flushed && match Tab.get s.queues r.swq with
      | some q => q.free == q.tail
      | none => false))

/-- A range of addresses, cut at pages of 64 KiB. -/
def pieces (va n : Nat) : List (Nat × Nat) :=
  let first := min n (65536 - va % 65536)
  (va, first) :: if n ≤ first then [] else [(va + first, n - first)]

/-- The pages of pieces, or the cause and the address of the first fault. -/
def findPieces (root : Nat) (k : AccessKind) : List (Nat × Nat) → State → Except (Cause × Nat) (List (Page × Nat)) × State
  | [], s => (.ok [], s)
  | (va, n) :: t, s =>
    match s.plainPage root (va % 2 ^ 52) k with
    | (.error c, s1) => (.error (c, va % 2 ^ 52), s1)
    | (.ok p, s1) =>
      match findPieces root k t s1 with
      | (.ok l, s2) => (.ok ((p, n) :: l), s2)
      | e => e

/-- The bytes of pieces, or none with an uncorrectable error. -/
def State.readPieces (s : State) (ps : List (Page × Nat)) : Option (List Byte) :=
  let rs := ps.map fun p => s.engineRead p.1.comp p.1.key p.2
  if rs.any Prod.snd then none else some (rs.flatMap Prod.fst)

/-- Writes bytes over pieces. -/
def writePieces : List (Page × Nat) → List Byte → State → State
  | [], _, s => s
  | (p, n) :: t, bs, s => writePieces t (bs.drop n) (s.engineWrite none p.comp p.key (bs.take n))

/-- The fibres of a tile (R343): for each primitive id and quad in order, four. `words` are the nonzero visibility
words with their sample numbers. -/
def tileFibres (r : PassRec) (tile : Nat) (words : List (Nat × Nat)) : List (Nat × Nat × Nat × Nat) :=
  let ns := r.samples
  let idOf := fun (w : Nat) => w % 2 ^ 32
  let quad := fun (px : Nat) => px / 32 * 8 + px % 16 / 2
  let pairs := words.foldl (fun l p => insertNat l (idOf p.1 * 64 + quad (p.2 / ns))) []
  let mask := fun id px => words.foldl (fun m p => if p.2 / ns == px && idOf p.1 == id then m + 2 ^ (p.2 % ns) else m) 0
  pairs.flatMap fun e =>
    let id := e / 64
    let q := e % 64
    (List.range 4).map fun j =>
      let x := 2 * (q % 8) + j % 2
      let y := 2 * (q / 8) + j / 2
      (16 * (tile % r.across) + x, 16 * (tile / r.across) + y, id, mask id (16 * y + x))

/-- The registers a pixel fibre starts with (R344). -/
def pixelRegs (r : PassRec) (prims : List Prim) (x y id mask : Nat) : List Word :=
  let head := [toWord (x + y * 2 ^ 16), toWord mask, toWord id]
  let nan : Word := 0x7FC00000
  match prims.find? fun p => p.id.toNat == id with
  | none => head ++ [nan, nan, nan] ++ List.replicate 9 0
  | some p =>
    let d := r.dir (16 * x + 8) (16 * y + 8)
    let p0 := p.point 0
    let m := ((p.point 1).sub p0).cross ((p.point 2).sub p0)
    let den := d.dot m
    let x0 := (side r.eye d (p.point 1) (p.point 2)).2
    let x1 := (side r.eye d (p.point 2) p0).2
    let x2 := (side r.eye d p0 (p.point 1)).2
    let uvt := if den = 0 then [nan, nan, nan]
      else [(frac x1 (x0 + x1 + x2)).word .rn, (frac x2 (x0 + x1 + x2)).word .rn,
            (r.param (frac ((p0.sub r.eye).dot m) den)).word .rn]
    head ++ uvt ++ (List.range 3).flatMap fun j => (List.range 3).map fun k => nth (nth p.verts k []) (5 + j) 0

/-- A list cut into runs of n. -/
def runsOf {α : Type} (n : Nat) : Nat → List α → List (List α)
  | 0, _ => []
  | _ + 1, [] => []
  | fuel + 1, l => l.take n :: runsOf n fuel (l.drop n)

/-- The pixel launch of a tile: one block for each run of fibres, on the owning core (R343). (DEDUCED, log 17.) -/
def State.launchPixels (s : State) (id : Nat) (p : Pass) (tile : Nat) (rec_ : LaunchRec)
    (fibres : List (Nat × Nat × Nat × Nat)) : State :=
  let r := (passRec p.record).1
  let runs := runsOf rec_.blockFibres fibres.length fibres
  let c : Checked := { record := rec_, map := [], reason := 0, place := 0, lost := none }
  let l := { newLaunch s c r.pix 1024 0 0 with pass := some (id, tile), gang := false }
  let first := s.nextId + 1
  let s1 := s.addLaunch l (runs.zipIdx.map fun q => (q.2, toWord (r.owner tile)))
  runs.zipIdx.foldl (fun s q => s.modBlock (first + q.2) fun b =>
    { b with pixels := q.1.zipIdx.map fun f =>
        { index := f.2, x := f.1.1, y := f.1.2.1, mask := toWord f.1.2.2.2, helper := f.1.2.2.2 == 0
          seq := (toWord f.1.2.2.1 - r.pid).toNat
          regs := pixelRegs r p.prims f.1.1 f.1.2.1 f.1.2.2.1 f.1.2.2.2, shown := none } }) s1

/-- The check of the pixel launch record (R343); it is made before any tile is written. -/
def State.checkPixel (s : State) (id : Nat) (p : Pass) : Option LaunchRec × State :=
  match p.pix with
  | some r => (some r, s)
  | none =>
    let (c, s1) := s.checkLaunch (passRec p.record).1.pix 0 true
    if c.reason != 0 then (none, s1.refusePass id 1 c.reason)
    else if c.record.ra = 0 then (none, s1.refusePass id 1 8)
    else (some c.record, s1)

/-- TILE_RESOLVE (R342, R343): a tile of a pass whose batches are all in is read, its visibility words are zeroed,
and its pixel blocks are launched. -/
def execTileResolve (pass tile : Nat) (s : State) : Host.Outcome State Fault Refusal :=
  match Tab.get s.passes pass with
  | none => .next s
  | some p =>
    let r := (passRec p.record).1
    if !s.passReady pass p || decide (r.tiles ≤ tile) || (Tab.get p.tiles tile).isSome then .next s
    else
      match s.checkPixel pass p with
      | (none, s1) => .next s1
      | (some pr, s1) =>
        let p1 := { p with pix := some pr }
        let s2 := { s1 with passes := Tab.put s1.passes pass p1 }
        match findPieces p.root .write (pieces (r.vis + r.tileBytes 8 * tile) (r.tileBytes 8)) s2 with
        | (.error (c, va), s3) => .next (s3.passFault pass p1 c va tile)
        | (.ok vis, s3) =>
          match findPieces p.root .read (pieces (r.tgt + r.tileBytes r.bpp * tile) (r.tileBytes r.bpp)) s3 with
          | (.error (c, va), s4) => .next (s4.passFault pass p1 c va tile)
          | (.ok tgt, s4) =>
            match s4.readPieces vis, s4.readPieces tgt with
            | some vb, some tb =>
              let words := (List.range (256 * r.samples)).filterMap fun j =>
                let w := ofBytes ((vb.drop (8 * j)).take 8)
                if w = 0 then none else some (w, j)
              let fibres := tileFibres r tile words
              let s5 := writePieces vis (List.replicate (r.tileBytes 8) 0) s4
              let t : PassTile :=
                { bytes := tb, launch := if fibres.isEmpty then none else some s5.nextId, finished := false }
              let s6 := { s5 with passes := Tab.put s5.passes pass { p1 with tiles := Tab.put p1.tiles tile t } }
              .next (if fibres.isEmpty then s6 else s6.launchPixels pass p1 tile pr fibres)
            | _, _ => .next (s4.refusePass pass 4 0x61)

/-! ### Blending (R345) -/

/-- An exact value that may be an infinity or NaN. -/
inductive Exact where
  | nan
  | inf (neg : Bool)
  | zero (neg : Bool)
  | fin (q : Frac)
  deriving DecidableEq, Repr

/-- A sum or product that is exactly zero without an operand's sign is +0 (04 R90). -/
def Exact.of (q : Frac) : Exact := if q.n = 0 then .zero false else .fin q

def FNum.exact : FNum → Exact
  | .nan _ => .nan
  | .inf n => .inf n
  | .fin n m e => if m = 0 then .zero n else .fin (finFrac n m e)

def Exact.neg : Exact → Exact
  | .nan => .nan
  | .inf n => .inf (!n)
  | .zero n => .zero (!n)
  | .fin q => .fin { q with n := -q.n }

/-- The sign of a value that is not NaN. -/
def Exact.sign : Exact → Bool
  | .nan => false
  | .inf n | .zero n => n
  | .fin q => decide (q.n < 0)

def Exact.add : Exact → Exact → Exact
  | .nan, _ => .nan
  | _, .nan => .nan
  | .inf a, .inf b => if a = b then .inf a else .nan
  | .inf a, _ => .inf a
  | _, .inf b => .inf b
  | .zero a, .zero b => .zero (a && b)
  | .zero _, q => q
  | p, .zero _ => p
  | .fin p, .fin q => .of { n := p.n * q.d + q.n * p.d, d := p.d * q.d }

def Exact.mul : Exact → Exact → Exact
  | .nan, _ => .nan
  | _, .nan => .nan
  | .inf _, .zero _ => .nan
  | .zero _, .inf _ => .nan
  | .inf a, y => .inf (a != y.sign)
  | x, .inf b => .inf (x.sign != b)
  | .zero a, y => .zero (a != y.sign)
  | x, .zero b => .zero (x.sign != b)
  | .fin p, .fin q => .fin { n := p.n * q.n, d := p.d * q.d }

/-- An exact value rounded to binary32. -/
def Exact.word : Exact → Word
  | .nan => 0x7FC00000
  | .inf n => toWord (f32.signed n f32.infCode)
  | .zero n => toWord (f32.signed n 0)
  | .fin q => q.word .rn

/-- round_ne(clamp(x, 0, 1) · (2^n − 1)), with NaN giving 0 (R345). -/
def unormOf (n : Nat) : FNum → Nat
  | .nan _ => 0
  | .inf neg => if neg then 0 else 2 ^ n - 1
  | .fin neg m e =>
    let s := scaled m 1 e 0
    if neg then 0 else if s.2 ≤ s.1 then 2 ^ n - 1 else (toInteger .rn false (m * (2 ^ n - 1)) e).1.toNat

/-- The bytes of a colour channel in a target. -/
def channelBytes (rgba8 : Bool) (w : Word) : List Byte :=
  if rgba8 then bytesOf 1 (unormOf 8 (fval w)) else bytesOf 2 (f16.deliver .rn 0 (fval w)).1

/-- A channel of a target, decoded exactly. -/
def channelExact (rgba8 : Bool) (bs : List Byte) : Exact :=
  if rgba8 then .of { n := ofBytes bs, d := 255 } else (f16.decode (ofBytes bs)).exact

/-- A sample of a tile with a colour applied. -/
def blendSample (r : PassRec) (cols : List Word) (old : List Byte) : List Byte :=
  let n := r.bpp / 4
  let om := (Exact.fin { n := 1, d := 1 }).add (fval (nth cols 3 0)).exact.neg
  (List.range 4).flatMap fun c =>
    let src := nth cols c 0
    let w := if r.overBlend then
        ((fval src).exact.add ((channelExact r.rgba8 ((old.drop (n * c)).take n)).mul om)).word
      else src
    channelBytes r.rgba8 w

/-- EXPORT_APPLY (R345): the last export of a fibre that ends is applied to the samples of its mask. -/
def State.applyExport (s : State) (id tile : Nat) (f : PixelFibre) : State :=
  match f.shown with
  | none => s
  | some (mask, cols) =>
    { s with passes := Tab.modify s.passes id fun p =>
        let r := (passRec p.record).1
        { p with tiles := Tab.modify p.tiles tile fun t =>
            { t with bytes := ((List.range r.samples).filter mask.getLsbD).foldl (fun bs k =>
                let o := r.inTile r.bpp f.x f.y k
                bs.take o ++ blendSample r cols ((bs.drop o).take r.bpp) ++ bs.drop (o + r.bpp)) t.bytes } } }

/-! ### Finishing (R346, R347) -/

/-- Whether the pixel blocks of a tile have ended. -/
def State.tileEnded (s : State) (t : PassTile) : Bool :=
  match t.launch with
  | none => true
  | some l => match Tab.get s.launches l with
    | none => true
    | some l => l.left == 0

/-- The signature of a tile in an array at `siga`: the page and value of its entry, or a fault; none where there is
no array or the tile's first page takes no signatures. -/
def State.signatureAt (s : State) (root siga tile : Nat) (first : Option Page) :
    Except (Cause × Nat) (Option (Page × Nat)) × State :=
  let use := siga != 0 && match first with
    | some q => q.sig
    | none => false
  if use then
    match findPieces root .write [(siga + 8 * tile, 8)] s with
    | (.error e, s1) => (.error e, s1)
    | (.ok ps, s1) =>
      match ps.head?, s1.readPieces ps with
      | some q, some bs => (.ok (some (q.1, ofBytes bs)), s1)
      | _, _ => (.error (.ecc, siga + 8 * tile), s1)
  else (.ok none, s)

/-- The signature of a tile of a pass. -/
def State.signature (s : State) (p : Pass) (tile : Nat) (first : Option Page) :
    Except (Cause × Nat) (Option (Page × Nat)) × State :=
  s.signatureAt p.root (passRec p.record).1.siga tile first

/-- TILE_FINISH (R346): a tile whose pixel blocks have ended is written, unless its signature says that it holds
these bytes already. A pass that has been refused writes none. -/
def execTileFinish (pass tile : Nat) (s : State) : Host.Outcome State Fault Refusal :=
  match Tab.get s.passes pass with
  | none => .next s
  | some p =>
    match Tab.get p.tiles tile with
    | none => .next s
    | some t =>
      let r := (passRec p.record).1
      let finish := fun (s : State) =>
        { s with passes := Tab.modify s.passes pass fun q => { q with tiles := Tab.put q.tiles tile { t with finished := true, bytes := [] } } }
      if t.finished || !s.tileEnded t || p.stop.isSome then .next s
      else if p.status != 0 then .next (finish s)
      else
        match findPieces p.root .write (pieces (r.tgt + r.tileBytes r.bpp * tile) (r.tileBytes r.bpp)) s with
        | (.error (c, va), s1) => .next (s1.passFault pass p c va tile)
        | (.ok tgt, s1) =>
          match s1.signature p tile (tgt.head?.map Prod.fst) with
          | (.error (c, va), s2) => .next (s2.passFault pass p c va tile)
          | (.ok none, s2) => .next (finish (writePieces tgt t.bytes s2))
          | (.ok (some (q, entry)), s2) =>
            let sig := crc64 t.bytes
            if entry != 0 && entry == sig.toNat then .next (finish s2)
            else .next (finish ((writePieces tgt t.bytes s2).engineWrite none q.comp q.key (bytesOf 8 sig.toNat)))

/-- The DONE word (R347). -/
def Pass.done (p : Pass) : Nat := p.status + p.reason * 2 ^ 8 + p.sub * 2 ^ 16 + 2 ^ 31

/-- Whether a pass may end: every tile is finished, or the pass is refused and nothing of it is left to end. Its pixel
launches have ended, with what their blocks wrote visible at the system point (11 R252). -/
def State.passEnds (s : State) (id : Nat) (p : Pass) : Bool :=
  let r := (passRec p.record).1
  let finished := p.tiles.all fun t => t.2.finished
  p.stop.isNone && p.closed == r.nbatch && finished && (p.status != 0 || p.tiles.length == r.tiles)
    && !(s.sliceOps.any fun o => o.pass == some id) && !(s.launches.any fun l => l.2.pass.map Prod.fst == some id)

/-- PASS_DONE (R347): the counters are written, and then DONE, as a release at sys scope of what the emitting groups wrote
too. -/
def execPassDone (pass : Nat) (s : State) : Host.Outcome State Fault Refusal :=
  match Tab.get s.passes pass with
  | none => .next s
  | some p =>
    if s.passEnds pass p then
      match s.plainPage p.root p.va .write with
      | (.ok q, s1) =>
        let s0 := p.flush.foldl (fun s f => s.releaseUpTo [] f.1 f.2 .sys) s1
        if p.flush.any fun f => s0.storeKept f.1 f.2 then .next s0
        else
          let s2 := s0.engineWrite none q.comp (q.key + 136) (bytesOfWords (p.counts.map toWord))
          .next { s2.engineWrite none q.comp (q.key + 128) (bytesOf 8 p.done) with passes := Tab.del s2.passes pass }
      | (.error c, s1) =>
        if c.serviced then .next (s1.stopPass pass p c p.va 0)
        else .next { s1 with passes := Tab.del s1.passes pass }
    else .next s

end Sys2Proof.Machine
end

