-- ==== Sys2Proof/Machine/Message.lean ====
section
/-!
DEFINITION. Messages (20 R359-R365): `send`, `recv` and `mstat`, the arrival of a message at its cluster's unit,
and the landing of deliveries (08 R190).
-/
namespace Sys2Proof.Machine

def State.modFabric (s : State) (f : Fabric → Fabric) : State := { s with fabric := f s.fabric }

def fourRegs (a : Nat) : List Nat := (List.range 4).map (a + ·)

/-- A precise fault of an engine word at a bank address. -/
def bankTrap (s : State) (c : Cause) (addr : Word) : Trap := { cause := c, ops := [s.word, addr] }

def illegalTrap (s : State) : Trap := { cause := .illegal, ops := [s.word] }

/-- The Q bit of a status word (R361). -/
def statusQ : Word := 0x100

/-! ### Slots and statuses -/

/-- The message commands of a core that hold slots (R359). -/
def State.messageSlots (s : State) (core : Nat) : Nat :=
  (s.fabric.messages.filter fun p => p.2.org.core == core).length

/-- The message unit of a core takes no more commands (R359). -/
def State.messageFull (s : State) (core : Nat) : Bool := decide (16 ≤ s.messageSlots core)

/-- The common course of `send`, `recv`, `coll` and `comp` (R359, R361, R369): the operands are read through the
uniform view and checked; a subset of helpers sends nothing; where the slots are full the status is FULL; the status of the
rest is on its way. One that releases is held while a `gupd` keeps its release from completing (DEDUCED, log 18). -/
def commandBody {α : Type} (groups reads : List Nat) (c : Nat) (p : Producer) (releases : Bool) (full : State → Nat → Bool)
    (check : State → Group → Block → Except Trap α) (k : State → Nat → Group → Block → α → State) : Body :=
  aligned groups <| checked { uniR := reads, uniW := [c] } fun s g x =>
    match s.blockOf x with
    | none => .ok s
    | some b =>
      match check s x b with
      | .error t => .trap t
      | .ok v =>
        if x.allHelpers then okGroup s g (x.bcast c stHELPER)
        else
          let s1 := s.modGroup g fun y => y.setPendAll c 1 p
          if full s x.core then .ok (s1.addResult g x none c [stFULL])
          else if releases && s.releaseWaits g x.core s.ord.seq then .hold (s.settleBefore x.core s.ord.seq)
          else .ok (k s1 g x b v)

/-- A message command takes a slot. -/
def State.addMessage (s : State) (m : Message) : Nat × State :=
  let (id, s1) := s.fresh
  (id, s1.modFabric fun f => { f with messages := Tab.put f.messages id m })

/-- The status of a command is on its way; it frees the command's slot. -/
def State.sendStatus (s : State) (id : Nat) (o : Origin) (c : Nat) (status : Word) : State :=
  { s with results := s.results ++
      [{ group := o.group, lane := none, reg := c, vals := [status], spec := false, command := some id }] }

/-- A message command ends with a status. -/
def State.messageEnds (s : State) (id : Nat) (m : Message) (status : Word) : State :=
  (s.modFabric fun f => { f with messages := Tab.put f.messages id { m with flying := false } }).sendStatus id m.org m.c
    status

/-- A fault aborts a command (R377): its status, REFUSED, is written when the fault enters the queue. -/
def State.commandFault (s : State) (id : Nat) (o : Origin) (c src : Nat) (pc : CodeAddr) (cause : Cause)
    (ops : List Word) : State :=
  s.holdFault o (asyncRec s cause 0 src pc ops 0)
    (some { group := o.group, lane := none, reg := c, vals := [stREFUSED], spec := false, command := some id }) none

/-! ### send (R360-R362) -/

/-- LEN of a send, and CAP of a receive. -/
def lengthOk (w : Word) : Bool :=
  let n := wbits w 12 0
  wbits w 31 13 == 0 && decide (16 ≤ n) && decide (n ≤ 4096) && n % 16 == 0

/-- The checks of a send: the key of its payload. -/
def sendCheck (a : Nat) (s : State) (x : Group) (b : Block) : Except Trap Nat :=
  let w := fun i => x.uni (a + i)
  if wbits (w 0) 31 4 != 0 || !lengthOk (w 3) then .error (illegalTrap s)
  else
    match b.checkAt .scr 16 (wbits (w 3) 12 0) (w 2) with
    | .error c => .error (bankTrap s c (w 2))
    | .ok key => .ok key

/-- `send` (R362): a release at dev scope; the payload is read after the group's earlier accesses.
(DEDUCED, log 19.) -/
def execSend (o : EngOp2) (s : State) : Host.Outcome State Fault Refusal :=
  let a := o.a.toNat
  let c := o.c.toNat
  stepWord false o.park (commandBody [a] (fourRegs a) c .message true State.messageFull (sendCheck a) fun s g x b key =>
    let w := fun i => x.uni (a + i)
    let n := wbits (w 3) 12 0
    let s1 := s.release g x .dev
    let m : Message :=
      { org := s.origin g x, pc := s.issuePc x, c := c, words := (List.range 4).map w, dest := wbits (w 0) 3 0
        tag := w 1, data := s1.readHome key n, root := s.rootOfBlock b, flying := !s1.anyError key n }
    let (id, s2) := s1.addMessage m
    if m.flying then s2 else s2.commandFault id m.org c 6 m.pc .ecc m.words) s

/-! ### Matching (R362) -/

def Receive.takes (r : Receive) (s : State) (m : Message) : Bool :=
  let root := match s.block? r.block with
    | some b => some (s.rootOfBlock b)
    | none => none
  r.cluster == m.dest && root == some m.root && (r.any || r.scl == clusterOf m.org.core) && r.tag == m.tag
    && decide (m.data.length ≤ r.cap)

/-- The lowest-numbered live group of the block of a ROOT that has the lowest resident number on a cluster, and on
its lowest core among equals. -/
def State.overflowGroup (s : State) (cluster root : Nat) : Option (Nat × Group) :=
  let seats := s.blocks.flatMap fun p =>
    if s.rootOfBlock p.2 == root then
      (p.2.seats.filter fun e => clusterOf e.core == cluster).map fun e => (e.resident * 192 + e.core, p.1)
    else []
  let first := seats.foldl (fun best e => match best with
    | none => some e
    | some q => if e.1 < q.1 then some e else best) none
  match first with
  | none => none
  | some (_, b) =>
    (s.groups.filter fun p => p.2.block == b && !p.2.fibres.isEmpty).foldl (fun best p => match best with
      | none => some p
      | some q => if p.2.num < q.2.num then some p else best) none

/-- MSGOVF of a message that finds the queue full. (DEDUCED, log 19.) -/
def State.messageOverflow (s : State) (m : Message) : State :=
  let f := asyncRec s .msgovf 0 6 m.pc [toWord m.org.core, m.tag, toWord m.data.length] 0
  match s.overflowGroup m.dest m.root with
  | some (g, x) => s.holdFault (s.origin g x) f none none
  | none =>
    { s with
      reports := s.reports ++ [{ kind := .endedGroup, f := f, core := m.org.core, resident := m.org.resident,
                                 group := m.org.num, block := m.org.block, of := .none, words := [], index := none }] }

/-- The message meets the receives and the overflow queue of its cluster. -/
def State.settleMessage (s : State) (id : Nat) (m : Message) : State :=
  match s.fabric.receives.find? fun r => r.takes s m with
  | some r =>
    let s1 := s.modFabric fun f =>
      { f with receives := f.receives.erase r, messages := Tab.put f.messages id { m with flying := false } }
    { s1 with
      deliveries := s1.deliveries ++
        [{ of := .message id, block := r.block, space := .scr, slot := r.slot, bank := r.bank, gen := r.gen, off := r.off
           data := m.data, side := [], ready := true, bar := some r.bar, count := m.data.length }] }
  | none =>
    if (s.fabric.overflow.filter fun q => q.cluster == m.dest).length < 64 then
      (s.modFabric fun f =>
        { f with overflow := f.overflow ++
            [{ cluster := m.dest, root := m.root, source := clusterOf m.org.core, tag := m.tag, data := m.data }] }).messageEnds
        id m (stOK ||| statusQ)
    else (s.messageOverflow m).messageEnds id m stREFUSED

/-- MESSAGE_ARRIVAL (R362, R364): the message of a command reaches its cluster's unit, after the earlier ones of
its core to that cluster. -/
def execMessageArrival (i : Nat) (s : State) : Host.Outcome State Fault Refusal :=
  match Tab.get s.fabric.messages i with
  | none => .next s
  | some m =>
    let earlier := s.fabric.messages.any fun p =>
      decide (p.1 < i) && p.2.flying && p.2.org.core == m.org.core && p.2.dest == m.dest
    if !m.flying || earlier then .next s else .next (s.settleMessage i m)

/-! ### recv and mstat (R363, R365) -/

/-- The checks of a receive: the bank of its landing place and of its object, unless it cancels. -/
def recvCheck (a b : Nat) (s : State) (x : Group) (blk : Block) : Except Trap (Option (Nat × Nat)) :=
  let w := fun i => x.uni (a + i)
  let cancel := wbit (w 0) 5
  if wbits (w 0) 31 6 != 0 || (wbit (w 0) 4 && wbits (w 0) 3 0 != 0) || wbits (w 3) 31 13 != 0
      || (!cancel && !lengthOk (w 3)) then .error (illegalTrap s)
  else if cancel then .ok none
  else
    match blk.checkAt .scr 16 (wbits (w 3) 12 0) (w 2) with
    | .error c => .error (bankTrap s c (w 2))
    | .ok key =>
      match blk.checkAt .scr 16 16 (x.uni b) with
      | .error c => .error (bankTrap s c (x.uni b))
      | .ok bar => .ok (some (keyBank key, keyBank bar))

/-- The oldest overflow entry that a receive takes. -/
def State.overflowFor (s : State) (cluster root : Nat) (any : Bool) (scl : Nat) (tag : Word) (cap : Nat) : Option Overflow :=
  s.fabric.overflow.find? fun q => q.cluster == cluster && q.root == root && (any || q.source == scl) && q.tag == tag
    && decide (q.data.length ≤ cap)

/-- A message lands. The writes that its send released are at the device point (R362); the copies of the receiving cluster go
with the count, so that a group whose `bwait` sees the phase synchronises with the sender (R364; DEDUCED, log 19). -/
def State.landMessage (s : State) (d : Delivery) : State × Bool :=
  let l := s.landBytes d
  (l.1.modOrd fun o => o.discard (192 + d.bank / 96), l.2)

/-- Before a `recv` lands anything or is posted, what its group has sent to the two banks before it performs (12 R275). -/
def State.settleReceive (s : State) (g core bank barBank : Nat) : State :=
  (s.bringBank g core bank 0 (2 ^ 19)).bringBank g core barBank 0 (2 ^ 19)

/-- `recv` past its checks, with the slot it holds. -/
def State.receive (s : State) (id : Nat) (m : Message) (x : Group) (b : Block) (bar : Word)
    (banks : Option (Nat × Nat)) : State :=
  let w := fun i => nth m.words i 0
  let any := wbit (w 0) 4
  let scl := wbits (w 0) 3 0
  let cap := wbits (w 3) 12 0
  match banks with
  | none =>
    match s.fabric.receives.find? fun r => r.block == x.block && r.any == any && r.scl == scl && r.tag == w 1 with
    | some r => (s.modFabric fun f => { f with receives := f.receives.erase r }).messageEnds id m stOK
    | none => s.messageEnds id m stEMPTY
  | some (bank, barBank) =>
    let r : Receive :=
      { block := x.block, cluster := b.cluster, any := any, scl := scl, tag := w 1, cap := cap, slot := addrSlot (w 2)
        bank := bank, gen := s.gen bank, off := addrOff (w 2), bar := (barBank, addrOff bar, s.gen barBank) }
    match s.overflowFor b.cluster m.root any scl (w 1) cap with
    | some q =>
      let s1 := s.modFabric fun f => { f with overflow := f.overflow.erase q }
      let d : Delivery :=
        { of := .message id, block := x.block, space := .scr, slot := r.slot, bank := bank, gen := r.gen, off := r.off
          data := q.data, side := [], ready := true, bar := some r.bar, count := q.data.length }
      let l := s1.landMessage d
      if l.2 then l.1.messageEnds id m (stOK ||| statusQ) else l.1.commandFault id m.org m.c 6 m.pc .overrun m.words
    | none =>
      if 64 ≤ (s.fabric.receives.filter fun q => q.cluster == b.cluster).length then s.messageEnds id m stFULL
      else (s.modFabric fun f => { f with receives := f.receives ++ [r] }).messageEnds id m stOK

/-- `recv` (R363). -/
def execRecv (o : EngOp3) (s : State) : Host.Outcome State Fault Refusal :=
  let a := o.a.toNat
  let c := o.c.toNat
  stepWord false o.park (commandBody [a] (fourRegs a ++ [o.b.toNat]) c .message false State.messageFull (recvCheck a o.b.toNat)
    fun s g x b banks =>
      let m : Message :=
        { org := s.origin g x, pc := s.issuePc x, c := c, words := (fourRegs a).map x.uni, dest := 0, tag := 0
          data := [], root := s.rootOfBlock b, flying := false }
      let (id, s1) := s.addMessage m
      let s2 := match banks with
        | some (p, q) => s1.settleReceive g x.core p q
        | none => s1
      s2.receive id m x b (x.uni o.b.toNat) banks) s

/-- The four words of `mstat`. -/
def State.messageState (s : State) (x : Group) (b : Block) : List Word :=
  let mine := s.fabric.receives.filter fun r => r.block == x.block
  let spilled := s.fabric.overflow.filter fun q => q.cluster == b.cluster && q.root == s.rootOfBlock b
  let first := match spilled with
    | [] => [0, 0]
    | q :: _ => [toWord (q.source + q.data.length * 2 ^ 16), q.tag]
  [toWord mine.length, toWord spilled.length] ++ first

/-- `mstat` (R365). -/
def execMstat (o : EngOp2) (s : State) : Host.Outcome State Fault Refusal :=
  let a := o.a.toNat
  let c := o.c.toNat
  stepWord false o.park (aligned [a] (checked { uniW := fourRegs a ++ [c] } fun s g x =>
    match s.blockOf x with
    | none => .ok s
    | some b =>
      if x.allHelpers then okGroup s g ((x.bcasts a [0, 0, 0, 0]).bcast c stHELPER)
      else
        let s1 := s.modGroup g fun y => (y.setPendAll a 4 .message).setPendAll c 1 .message
        .ok ((s1.addResult g x none a (s.messageState x b)).addResult g x none c [stOK]))) s

/-! ### Landing (08 R190) -/

/-- A message's delivery has landed or was dropped. -/
def State.messageSettled (s : State) (id : Nat) (landed counted : Bool) : State :=
  match Tab.get s.fabric.messages id with
  | none => s
  | some m =>
    if !counted then s.commandFault id m.org m.c 6 m.pc .overrun m.words
    else s.messageEnds id m (if landed then stOK else stSTALE)

/-- A collective's result has landed or was dropped (20 R371). -/
def State.collectiveSettled (s : State) (id : Nat) (landed counted : Bool) : State :=
  match Tab.get s.fabric.commands id with
  | none => s
  | some m =>
    if !counted then s.commandFault id m.org m.c 7 m.pc .overrun m.words
    else s.sendStatus id m.org m.c (if landed then stOK else stSTALE)

/-- The bytes of a delivery land, and are counted. -/
def State.landDelivery (s : State) (d : Delivery) : State × Bool :=
  match d.of with
  | .message _ => s.landMessage d
  | _ => s.landBytes d

def State.deliverySettled (s : State) (d : Delivery) (landed counted : Bool) : State :=
  match d.of with
  | .mcast command k => s.mcastSettled command k landed counted
  | .message id => s.messageSettled id landed counted
  | .collective id => s.collectiveSettled id landed counted

/-- DELIVERY_LANDING (R190): delivery `i` reaches its bank, and lands or is dropped. -/
def execDeliveryLanding (i : Nat) (s : State) : Host.Outcome State Fault Refusal :=
  match s.deliveries[i]? with
  | none => .next s
  | some d =>
    if !d.ready then .next s
    else
      let s1 := { s with deliveries := s.deliveries.eraseIdx i }
      match s.landing d with
      | .held => .next s
      | .drop => .next (s1.deliverySettled d false true)
      | .land =>
        if s.deliveryWaits d then .next s else let l := s1.landDelivery d; .next (l.1.deliverySettled d true l.2)

end Sys2Proof.Machine
end

