-- ==== Sys2Proof/Machine/Fabric.lean ====
section
/-!
DEFINITION. The Avmal fabric (20 R366-R377, 21 R378, R379): the group table, collectives, compositing, closed
tiles and their delivery, and the links.
-/
namespace Sys2Proof.Machine

/-! ### The group table (R367) -/

def GroupEntry.init : GroupEntry := { valid := false, myrank := 0, gid := 0, nrank := 0, late := 0, seq := 0 }

def State.groupEntry (s : State) (k : Nat) : GroupEntry := Tab.getD s.fabric.table k GroupEntry.init

def State.setGroupEntry (s : State) (k : Nat) (e : GroupEntry) : State :=
  s.modFabric fun f => { f with table := Tab.store GroupEntry.init f.table k e }

/-- The entry that a command names. -/
def FabricWork.entry? : FabricWork → Option Nat
  | .coll e _ _ _ => some e
  | .comp e _ => some e
  | .refused e => e

/-- A write to word 0 or 1 of a group table entry that no command names; SEQ and LATECNT become 0 (R367). After a thermal trip
the entry holds nothing (22 R389). (DEDUCED, log 36.) -/
def State.groupTableWrite (s : State) (offset : Nat) (value : Word) : State :=
  let k := (offset - 0xA10) / 16
  let o := (offset - 0xA10) % 16
  if s.power.trip || offset < 0xA10 || 128 ≤ k || s.fabric.commands.any (fun p => p.2.work.entry? == some k) then s
  else
    let e := { s.groupEntry k with late := 0, seq := 0 }
    if o = 0 then
      s.setGroupEntry k { e with valid := wbit value 31, myrank := (value >>> 16).setWidth 10, gid := value.setWidth 16 }
    else if o = 4 then s.setGroupEntry k { e with nrank := value.setWidth 10 }
    else s

/-- GROUP_TABLE_WRITE (R367). -/
def execGroupTableWrite (offset : Nat) (value : Word) (s : State) : Host.Outcome State Fault Refusal :=
  .next (s.groupTableWrite offset value)

/-- The ranks of an entry's group, where the switches hold it (DESIGN CHOICE, log 27). -/
def switchRanks (e : GroupEntry) : Option Nat :=
  match Config.switchGroup e.gid.toNat with
  | some n => if n = e.nrank.toNat then some n else none
  | none => none

/-! ### Commands (R369) -/

def State.fabricSlots (s : State) (core : Nat) : Nat :=
  (s.fabric.commands.filter fun p => p.2.org.core == core).length

/-- The fabric unit of a core takes no more commands (R369). -/
def State.fabricFull (s : State) (core : Nat) : Bool := decide (8 ≤ s.fabricSlots core)

/-- A fabric command takes a slot. -/
def State.addFabric (s : State) (m : FabricCmd) : Nat × State :=
  let (id, s1) := s.fresh
  (id, s1.modFabric fun f => { f with commands := Tab.put f.commands id m })

/-- A fabric command ends with a status; a delivery it was to make is gone. -/
def State.fabricEnds (s : State) (id : Nat) (m : FabricCmd) (status : Word) : State :=
  let s1 := s.modFabric fun f => { f with commands := Tab.put f.commands id { m with flying := false } }
  { s1 with deliveries := s1.deliveries.filter fun d => d.of != DeliveryOf.collective id }.sendStatus id m.org m.c status

/-- REFUSED with a reason (R373). -/
def refusedFor (reason : Nat) : Word := stREFUSED ||| toWord (reason * 2 ^ 8)

def State.portReady (s : State) (p : Nat) : Bool := s.status.ports.getLsbD p

/-! ### Collectives (R370, R371) -/

/-- The result bytes of a collective. -/
def collBytes (op len nrank : Nat) : Nat := if op = 8 then nrank * len else len

/-- The checks of `coll`: the keys of SRC and DST, and the object's bank where it counts. (DEDUCED, log 21.) -/
def collCheck (a : Nat) (s : State) (x : Group) (b : Block) : Except Trap (Nat × Nat × Option Nat) :=
  let w := fun i => x.uni (a + i)
  let op := wbits (w 2) 31 28
  let len := wbits (w 2) 19 0
  let e := s.groupEntry (wbits (w 3) 30 24)
  let bar := toWord (wbits (w 3) 23 0)
  if 8 < op || wbits (w 2) 27 20 != 0 || len == 0 || len % 16 != 0 || !e.valid then .error (illegalTrap s)
  else
    let act := fun (addr : Word) (n : Nat) =>
      if addrArea addr != 0 then Except.error Cause.bankbound else b.checkAt .act 16 n addr
    match act (w 0) len with
    | .error c => .error (bankTrap s c (w 0))
    | .ok src =>
      match act (w 1) (collBytes op len e.nrank.toNat) with
      | .error c => .error (bankTrap s c (w 1))
      | .ok dst =>
        if wbit (w 3) 31 then .ok (src, dst, none)
        else
          match b.checkAt .scr 16 16 bar with
          | .error c => .error (bankTrap s c bar)
          | .ok k => .ok (src, dst, some (keyBank k))

/-- `coll` past its checks, with its slot: SEQ advances, the contribution is read, the generations are recorded. -/
def State.collIssue (s : State) (g : Nat) (x : Group) (c : Nat) (ws : List Word) (src dst : Nat) (barBank : Option Nat) :
    State :=
  let w := fun i => nth ws i 0
  let k := wbits (w 3) 30 24
  let e := s.groupEntry k
  let op := wbits (w 2) 31 28
  let len := wbits (w 2) 19 0
  let s1 := (s.setGroupEntry k { e with seq := e.seq + 1 }).release g x .dom
  let (plane, s2) := s1.choose 18
  let m : FabricCmd :=
    { org := s.origin g x, pc := s.issuePc x, c := c, words := ws, plane := plane
      work := .coll k e.seq op (s2.readHome src len), flying := true }
  let (id, s3) := s2.addFabric m
  if s2.anyError src len then
    (s3.modFabric fun f => { f with commands := Tab.put f.commands id { m with flying := false } }).commandFault id m.org c 7
      m.pc .ecc ws
  else if !s3.portReady plane then s3.fabricEnds id m (refusedFor 5)
  else
    { s3 with
      deliveries := s3.deliveries ++
        [{ of := .collective id, block := x.block, space := .act, slot := addrSlot (w 1), bank := keyBank dst
           gen := s.gen (keyBank dst), off := addrOff (w 1), data := [], side := [], ready := false
           bar := barBank.map fun q => (q, wbits (w 3) 17 0, s.gen q), count := collBytes op len e.nrank.toNat }] }

/-- `coll` (R369-R371): a release at dom scope. -/
def execColl (o : EngOp2) (s : State) : Host.Outcome State Fault Refusal :=
  let a := o.a.toNat
  let c := o.c.toNat
  stepWord false o.park (commandBody [a] (fourRegs a) c .fabric true State.fabricFull (collCheck a) fun s g x _ v =>
    s.collIssue g x c ((fourRegs a).map x.uni) v.1 v.2.1 v.2.2) s

/-- The split point of a tree over n ranks: the largest power of two below n (R368). -/
def treeSplit (n : Nat) : Nat := (List.range 10).foldl (fun m j => if 2 ^ j < n then 2 ^ j else m) 1

/-- tree(lo, hi) over a list of contributions (R368); ten levels hold 576 ranks. -/
def treeOf {α : Type} (combine : α → α → α) (d : α) : Nat → List α → α
  | 0, l => nth l 0 d
  | n + 1, l =>
    if l.length ≤ 1 then nth l 0 d
    else
      let m := treeSplit l.length
      combine (treeOf combine d n (l.take m)) (treeOf combine d n (l.drop m))

/-- combine(x, y) of an OP (R371). -/
def collCombine (op : Nat) (x y : Word) : Word :=
  match op with
  | 0 => (fAdd x y).1
  | 1 => x + y
  | 2 => (fMax x y).1
  | 3 => (fMin x y).1
  | 4 => if x.slt y then y else x
  | 5 => if x.slt y then x else y
  | 6 => if x.ult y then y else x
  | _ => if x.ult y then x else y

/-- The bytes that land, from the contributions in rank order. -/
def collResult (op len : Nat) (parts : List (List Byte)) : List Byte :=
  if op = 8 then parts.flatten
  else
    let ws := parts.map wordsOfBytes
    bytesOfWords ((List.range (len / 4)).map fun j => treeOf (collCombine op) 0 10 (ws.map fun l => nth l j 0))

/-- The contributions in rank order; none while a member is missing. -/
def collParts (n myrank : Nat) (mine : CollPart) (others : List CollPart) : Option (List CollPart) :=
  (List.range n).mapM fun r => if r = myrank then some mine else others.find? fun q => q.rank == r

/-- COLLECTIVE_COMPLETE (R371): the oldest collective of an entry that this device has joined completes with one
outcome for every member; `others` are the other members' parts. -/
def execCollectiveComplete (entry : Nat) (others : List CollPart) (s : State) : Host.Outcome State Fault Refusal :=
  let e := s.groupEntry entry
  match s.fabric.commands.find? fun p => p.2.flying && (match p.2.work with
    | .coll k _ _ _ => k == entry
    | _ => false) with
  | none => .next s
  | some (id, m) =>
    match m.work, switchRanks e with
    | .coll _ _ _ _, none => .next (s.fabricEnds id m (refusedFor 2))
    | .coll _ _ op data, some n =>
      let mine : CollPart := { rank := e.myrank.toNat, op := BitVec.ofNat 4 op, len := data.length, data := data, down := false }
      if others.any CollPart.down then .next (s.fabricEnds id m (refusedFor 7))
      else
        match collParts n mine.rank mine others with
        | none => .next s
        | some parts =>
          if parts.any fun q => q.op != mine.op || q.len != mine.len then .next (s.fabricEnds id m (refusedFor 3))
          else if parts.any fun q => q.data.length != q.len then .next s
          else
            let r := collResult op data.length (parts.map CollPart.data)
            let s1 := s.modFabric fun f => { f with commands := Tab.put f.commands id { m with flying := false } }
            .next { s1 with deliveries := s1.deliveries.map fun d =>
              if d.of = .collective id then { d with data := r, ready := true } else d }
    | _, _ => .next s

/-! ### Compositing packets (R372, R373) -/

/-- The header of a packet. -/
structure TileHeader where
  key : TileKey
  deadline : Nat
  rank : Nat
  mode : Nat
  dkind : Nat
  ddev : Nat
  dhead : Nat
  dpa : Nat
  reserved : Bool
  deriving DecidableEq, Repr

def tileHeader (packet : List Byte) : TileHeader :=
  let v := ofBytes (packet.take 32)
  { key := { group := field v 159 144, frame := field v 95 64, tx := field v 111 96, ty := field v 127 112 }
    deadline := field v 63 0, rank := field v 137 128, mode := field v 139 138, dkind := field v 140 140
    ddev := field v 169 160, dhead := field v 171 170, dpa := field v 231 176
    reserved := field v 255 232 != 0 || field v 175 172 != 0 || field v 143 141 != 0 }

/-- The plane of a tile. -/
def TileKey.plane (k : TileKey) : Nat := (k.tx + k.ty) % 18

/-- The valid entry that holds a GID. -/
def State.entryOf (s : State) (gid : Nat) : Option Nat :=
  (s.fabric.table.find? fun p => p.2.valid && p.2.gid.toNat == gid).map Prod.fst

/-- The reason that the device refuses a header for; zero when it passes. -/
def State.headerReason (s : State) (h : TileHeader) : Nat :=
  if h.reserved || decide (1 < h.mode) || decide (575 < h.ddev) || (h.dkind == 0 && h.dpa % 64 != 0) then 1
  else
    match s.entryOf h.key.group with
    | none => 2
    | some k =>
      let n := (s.groupEntry k).nrank.toNat
      if n ≤ h.rank || 64 < n then 2 else if s.portReady h.key.plane then 0 else 5

/-- The check of `comp`: the key of its packet. -/
def compCheck (a : Nat) (s : State) (x : Group) (b : Block) : Except Trap Nat :=
  let addr := x.uni a
  match (if addrArea addr != 0 then .error .bankbound else b.checkAt .act 64 3104 addr) with
  | .error c => .error (bankTrap s c addr)
  | .ok key => .ok key

/-- `comp` (R373): a release at dom scope; the packet is read after the group's earlier accesses, and its header
is checked. -/
def execComp (o : EngOp2) (s : State) : Host.Outcome State Fault Refusal :=
  let a := o.a.toNat
  let c := o.c.toNat
  stepWord false o.park (commandBody [] [a] c .fabric true State.fabricFull (compCheck a) fun s g x _ key =>
    let s1 := s.release g x .dom
    let packet := s1.readHome key 3104
    let h := tileHeader packet
    let reason := s1.headerReason h
    let work := match reason, s1.entryOf h.key.group with
      | 0, some k => FabricWork.comp k packet
      | _, e => .refused e
    let m : FabricCmd :=
      { org := s.origin g x, pc := s.issuePc x, c := c, words := [x.uni a], plane := h.key.plane, work := work
        flying := true }
    if s1.anyError key 3104 then
      let (id, s2) := s1.addFabric { m with work := .refused (s1.entryOf h.key.group), flying := false }
      s2.commandFault id m.org c 7 m.pc .ecc m.words
    else
      let (id, s2) := s1.addFabric m
      if reason = 0 then s2 else s2.fabricEnds id m (refusedFor reason)) s

/-! ### The compositing engine (R374, R375) -/

/-- The last time of a plane's switch that something there has met. -/
def State.clockOf (s : State) (plane : Nat) : Nat := Tab.getD s.fabric.clocks plane 0

/-- A moment at the switch of a plane: its counter never goes back, and is within 2 ticks of the device's while the port of
plane 0 is ready (R374, 22 R386). (DEDUCED, log 35.) -/
def State.switchTime (s : State) (plane : Nat) (now : DWord) : Bool :=
  decide (s.clockOf plane ≤ now.toNat)
    && (!s.portReady 0 || (decide (now.toNat ≤ s.tsc.toNat + 2) && decide (s.tsc.toNat ≤ now.toNat + 2)))

/-- Something happens at the switch of a plane at a moment. -/
def State.tick (s : State) (plane : Nat) (now : DWord) : State :=
  s.modFabric fun f => { f with clocks := Tab.store 0 f.clocks plane now.toNat }

def OpenTile.agrees (t : OpenTile) (h : TileHeader) : Bool :=
  t.deadline == h.deadline && t.mode == h.mode && t.dkind == h.dkind && t.ddev == h.ddev
    && (if h.dkind = 0 then t.dpa == h.dpa else t.dhead == h.dhead)

/-- Depth and colour of a pixel of a contribution; an absent one is the identity (R374). -/
def pixelDepth (data : Option (List Byte)) (p : Nat) : Nat :=
  match data with
  | none => 0xFFFFFFFF
  | some d => ofBytes ((d.drop (4 * p)).take 4)

def pixelColour (data : Option (List Byte)) (p : Nat) : Nat :=
  match data with
  | none => 0
  | some d => ofBytes ((d.drop (1024 + 8 * p)).take 8)

/-- Channel c of a colour. -/
def channel (v c : Nat) : Nat := field v (16 * c + 15) (16 * c)

/-- The identity: the pixel of an absent rank (R374). -/
def identityPixel : Nat × Nat := (0xFFFFFFFF, 0)

/-- combine(F, B) of an ordered blend; the identity leaves its neighbour unchanged (R375). -/
def blendOver (f b : Nat × Nat) : Nat × Nat :=
  if f = identityPixel then b
  else if b = identityPixel then f
  else
  let om := (Exact.fin { n := 1, d := 1 }).add (f16.decode (channel f.2 3)).exact.neg
  let one := fun c =>
    ofBytes (channelBytes false (((f16.decode (channel f.2 c)).exact.add ((f16.decode (channel b.2 c)).exact.mul om)).word))
  (min f.1 b.1, one 0 + one 1 * 2 ^ 16 + one 2 * 2 ^ 32 + one 3 * 2 ^ 48)

/-- The nearer of two pixels; the lower rank, which comes first, wins a tie. -/
def nearer (f b : Nat × Nat) : Nat × Nat := if b.1 < f.1 then b else f

/-- The merged bytes of a tile over n ranks: 256 depths, then 256 colours (R375). -/
def OpenTile.merged (t : OpenTile) (n : Nat) : List Byte :=
  let parts := (List.range n).map fun r => Tab.get t.parts r
  let px := (List.range 256).map fun p =>
    let l := parts.map fun d => (pixelDepth d p, pixelColour d p)
    if t.mode = 0 then l.foldl nearer (nth l 0 identityPixel) else treeOf blendOver identityPixel 10 l
  (px.flatMap fun q => bytesOf 4 q.1) ++ px.flatMap fun q => bytesOf 8 q.2

/-- MISSING: a bit for each absent rank. -/
def OpenTile.missing (t : OpenTile) (n : Nat) : Nat :=
  (List.range n).foldl (fun m r => if (Tab.get t.parts r).isSome then m else m + 2 ^ r) 0

/-- A tile over n ranks closes at a moment, and is merged. -/
def State.closeTile (s : State) (n : Nat) (t : OpenTile) (at_ : DWord) : State :=
  s.modFabric fun f =>
    { f with
      open_ := f.open_.filter fun u => u.key != t.key
      closed := f.closed ++ [t.key]
      shut := f.shut ++ [{ key := t.key, dkind := t.dkind, ddev := t.ddev, dhead := t.dhead, dpa := t.dpa
                           missing := t.missing n, closedAt := at_, data := t.merged n, pixels := none, sig := none }] }

/-- A tile as a contribution leaves it: closed when it holds n of them, else open. -/
def State.holdTile (s : State) (n : Nat) (t : OpenTile) (now : DWord) : State :=
  if n ≤ t.parts.length then s.closeTile n t now
  else s.modFabric fun f => { f with open_ := (f.open_.filter fun u => u.key != t.key) ++ [t] }

/-- The tiles of a plane that are open at time `now`: one whose DEADLINE has come is closed from that moment on. -/
def State.openTiles (s : State) (plane : Nat) (now : DWord) : List OpenTile :=
  s.fabric.open_.filter fun t => t.key.plane == plane && decide (now.toNat < t.deadline)

/-- A contribution reaches the engine of its plane: the status word it is answered with. (DEDUCED, log 22.) -/
def State.contributeTile (s : State) (packet : List Byte) (now : DWord) : Word × State :=
  let h := tileHeader packet
  let tiles := s.openTiles h.key.plane now
  match Config.switchGroup h.key.group with
  | none => (refusedFor 2, s)
  | some n =>
    if n ≤ h.rank then (refusedFor 2, s)
    else if h.deadline ≤ now.toNat then (stLATE, s)
    else
      match tiles.find? fun t => t.key == h.key with
      | some t =>
        if !t.agrees h then (refusedFor 3, s)
        else if (Tab.get t.parts h.rank).isSome then (refusedFor 4, s)
        else (stOK, s.holdTile n { t with parts := Tab.put t.parts h.rank (packet.drop 32) } now)
      | none =>
        if s.fabric.closed.contains h.key || s.fabric.open_.any fun t => t.key == h.key then (refusedFor 4, s)
        else if 16384 ≤ tiles.length then (stFULL ||| toWord (6 * 2 ^ 8), s)
        else
          (stOK, s.holdTile n
            { key := h.key, deadline := h.deadline, mode := h.mode, dkind := h.dkind, ddev := h.ddev, dhead := h.dhead
              dpa := h.dpa, parts := [(h.rank, packet.drop 32)] } now)

/-- LATECNT of an entry counts a LATE (R367, R374). -/
def State.countLate (s : State) (k : Nat) (status : Word) : State :=
  if status = stLATE then s.setGroupEntry k { s.groupEntry k with late := (s.groupEntry k).late + 1 } else s

/-- COMP_ARRIVAL (R374): a packet of this device, or of another, reaches the engine of its plane at time `now`. -/
def execCompArrival (source : CompFrom) (now : DWord) (s : State) : Host.Outcome State Fault Refusal :=
  match source with
  | .own id =>
    match Tab.get s.fabric.commands id with
    | none => .next s
    | some m =>
      let plane := m.plane
      match m.flying && s.switchTime plane now, m.work with
      | true, .comp k packet =>
        if (switchRanks (s.groupEntry k)).isNone then .next ((s.tick plane now).fabricEnds id m (refusedFor 2))
        else
          let r := (s.tick plane now).contributeTile packet now
          .next ((r.2.countLate k r.1).fabricEnds id m r.1)
      | _, _ => .next s
  | .other plane packet =>
    if packet.length = 3104 ∧ (tileHeader packet).key.plane = plane ∧ s.switchTime plane now then
      .next ((s.tick plane now).contributeTile packet now).2
    else .next s

/-- TILE_CLOSE (R374): open tile `i`, whose deadline has come, closes with what it holds. -/
def execTileClose (i : Nat) (now : DWord) (s : State) : Host.Outcome State Fault Refusal :=
  match s.fabric.open_[i]? with
  | none => .next s
  | some t =>
    let n := match Config.switchGroup t.key.group with
      | some n => n
      | none => 0
    if s.switchTime t.key.plane now && decide (t.deadline ≤ now.toNat) then
      .next ((s.tick t.key.plane now).closeTile n t (BitVec.ofNat 64 t.deadline))
    else .next s

/-! ### Delivery (R376, 21 R378, R379) -/

def Head.init : Head where
  base := 0
  baseH := 0
  root := 0
  rootH := 0
  size := 0
  en := false
  fmt := false
  bpc10 := false
  lanes := 0
  rate := 0
  period := 0
  linkUp := false
  under := false
  drop := false
  deadline := 0
  frames := 0
  siga := 0
  sigaH := 0
  missing := 0
  lframe := 0
  image := none
  lines := []
  line := none
  sent := none

def State.head (s : State) (h : Nat) : Head := Tab.getD s.heads h Head.init

def State.setHead (s : State) (h : Nat) (x : Head) : State := { s with heads := Tab.store Head.init s.heads h x }

/-- A tile's 3,072 bytes and its header land in memory; the header is written last, as one atomic write. -/
def State.deliverMemory (s : State) (t : ClosedTile) : State :=
  if deviceEnd < t.dpa + 3104 then s
  else
    let write := fun (s : State) (pa : Nat) (bs : List Byte) =>
      s.engineWrite none (s.compAt (physKey false pa)) (physKey false pa) bs
    let s1 := (runsOf 64 49 (List.replicate 32 0 ++ t.data)).zipIdx.foldl (fun s p =>
      if p.2 = 0 then write s (t.dpa + 32) (p.1.drop 32) else write s (t.dpa + 64 * p.2) p.1) s
    write s1 t.dpa (bytesOf 4 t.key.frame ++ bytesOf 2 t.key.tx ++ bytesOf 2 t.key.ty ++ bytesOf 8 t.missing
      ++ bytesOf 8 t.closedAt.toNat ++ bytesOf 8 0)

/-- The bytes of a tile in a scan-out image. -/
def imageBytes (rgba8 : Bool) (data : List Byte) : List Byte :=
  if rgba8 then
    (List.range 256).flatMap fun p => (List.range 4).flatMap fun c =>
      bytesOf 1 (unormOf 8 (f16.decode (ofBytes ((data.drop (1024 + 8 * p + 2 * c)).take 2))))
  else data.drop 1024

/-- The tile was delivered to a head. -/
def State.tileShown (s : State) (h : Nat) (t : ClosedTile) : State :=
  s.setHead h { s.head h with missing := BitVec.ofNat 64 t.missing, lframe := toWord t.key.frame }

/-- Closed tile `i` is delivered or dropped. -/
def State.leaveTile (s : State) (i : Nat) : State := s.modFabric fun f => { f with shut := f.shut.eraseIdx i }

/-- The writes of a tile's bytes from an address on, pixel by pixel. -/
def pixelWrites (root va bpp : Nat) (bs : List Byte) : List PixelWrite :=
  (runsOf bpp 256 bs).zipIdx.map fun p => { root := root, va := (va + bpp * p.2) % 2 ^ 52, data := p.1 }

/-- A delivery to a head begins with the image that the head latched. A tile beyond it sets DROP; one that cannot be
written is dropped; one whose signature says that the image holds its bytes is shown at once.
(DEDUCED, log 22.) -/
def State.beginHead (s : State) (i : Nat) (t : ClosedTile) : State :=
  let x := s.head t.dhead
  let img := match x.image with
    | some i => i
    | none => (0, 0, 0, 0, false)
  let (va, root, w, h, rgba8) := img
  if w ≤ 16 * t.key.tx || h ≤ 16 * t.key.ty then (s.leaveTile i).setHead t.dhead { x with drop := true }
  else
    let bpp := if rgba8 then 4 else 8
    let tile := t.key.ty * (w / 16) + t.key.tx
    let bs := imageBytes rgba8 t.data
    let at_ := va + 256 * bpp * tile
    let siga := x.siga.toNat + x.sigaH.toNat * 2 ^ 32
    let begin_ := fun (s : State) (sig : Option PixelWrite) =>
      s.modFabric fun f => { f with shut := setNth f.shut i { t with pixels := some (pixelWrites root at_ bpp bs), sig := sig } }
    match findPieces root .write (pieces at_ (256 * bpp)) s with
    | (.error _, s1) => s1.leaveTile i
    | (.ok ps, s1) =>
      match s1.signatureAt root siga tile (ps.head?.map Prod.fst) with
      | (.error _, s2) => s2.leaveTile i
      | (.ok none, s2) => begin_ s2 none
      | (.ok (some (_, entry)), s2) =>
        let sig := (crc64 bs).toNat
        if entry != 0 && entry == sig then (s2.leaveTile i).tileShown t.dhead t
        else begin_ s2 (some { root := root, va := (siga + 8 * tile) % 2 ^ 52, data := bytesOf 8 sig })

/-- One write of a delivery: none where its page cannot be written now. -/
def State.writePixel (s : State) (w : PixelWrite) : Option State × State :=
  match s.plainPage w.root w.va .write with
  | (.error _, s1) => (none, s1)
  | (.ok q, s1) => (some (s1.engineWrite none q.comp q.key w.data), s1)

/-- The end of a delivery to a head: the signature, and the tile's MISSING and FRAME (21 R379). -/
def State.showTile (s : State) (i : Nat) (t : ClosedTile) : State :=
  match t.sig with
  | none => (s.leaveTile i).tileShown t.dhead t
  | some w =>
    match s.writePixel w with
    | (none, s1) => s1.leaveTile i
    | (some s1, _) => (s1.leaveTile i).tileShown t.dhead t

/-- A delivery to a head goes on: one of the pixels still to be written is, in no order that the spec fixes, at the place that
its page has now; the last one ends the delivery (21 R379). A tile whose page can be written no more is dropped.
(DEDUCED, log 22.) -/
def State.deliverPixel (s : State) (i : Nat) (t : ClosedTile) (l : List PixelWrite) : State :=
  let (j, s1) := s.choose l.length
  match l[j]? with
  | none => s1.leaveTile i
  | some w =>
    match s1.writePixel w with
    | (none, s2) => s2.leaveTile i
    | (some s2, _) =>
      if l.length ≤ 1 then s2.showTile i t
      else s2.modFabric fun f => { f with shut := setNth f.shut i { t with pixels := some (l.eraseIdx j) } }

/-- A tile's destination is this device, and is reached through the port of its plane. -/
def State.reaches (s : State) (t : ClosedTile) : Bool :=
  match s.fabric.fabid with
  | some n => n.toNat == t.ddev && s.portReady t.key.plane
  | none => false

/-- TILE_DELIVERY (R376): closed tile `i` reaches its destination: memory at once, a head pixel by pixel (21 R379). A tile
for another device leaves this one's sight; a destination that cannot be reached drops it. -/
def execTileDelivery (i : Nat) (s : State) : Host.Outcome State Fault Refusal :=
  match s.fabric.shut[i]? with
  | none => .next s
  | some t =>
    match t.pixels with
    | some l => .next (s.deliverPixel i t l)
    | none =>
      if !s.reaches t then .next (s.leaveTile i)
      else if t.dkind != 0 then .next (s.beginHead i t)
      else if decide (t.dpa + 3104 ≤ deviceEnd) && !s.stacksReady t.dpa 3104 then .next s
      else .next ((s.leaveTile i).deliverMemory t)

/-! ### Links (R366, R367, 22 R384) -/

def State.setPort (s : State) (p : Nat) (ready : Bool) : State :=
  let bit := BitVec.twoPow 18 p
  { s with status := { s.status with ports := if ready then s.status.ports ||| bit else s.status.ports &&& ~~~bit } }

/-- The status of a command in flight on a port that goes down: REFUSED, with reason 7 for a collective (R371); the
spec gives `comp` no reason there (DESIGN CHOICE, log 28). -/
def FabricWork.lost (w : FabricWork) (free : Nat) : Word :=
  match w with
  | .coll _ _ _ _ => refusedFor 7
  | _ => refusedFor (Config.freeByte free).toNat

/-- AVMAL_LINK_DOWN (R384): the port's bit clears, and its commands in flight complete with REFUSED. -/
def execAvmalLinkDown (port : Nat) (s : State) : Host.Outcome State Fault Refusal :=
  if 18 ≤ port then .next s
  else
    let lost := s.fabric.commands.filter fun p => p.2.flying && p.2.plane == port
    .next (lost.foldl (fun s p => { s.fabricEnds p.1 p.2 (p.2.work.lost s.free) with free := s.free + 1 })
      (s.setPort port false))

/-- AVMAL_LINK_UP (R367, R384): a port's switch reports the device's number there; a port whose number differs from
plane 0's stays not ready. After a thermal trip no bit sets. -/
def execAvmalLinkUp (port fabricNumber : Nat) (s : State) : Host.Outcome State Fault Refusal :=
  if 18 ≤ port || 576 ≤ fabricNumber || s.power.trip then .next s
  else
    let n := BitVec.ofNat 10 fabricNumber
    if port = 0 then .next ((s.setPort 0 true).modFabric fun f => { f with fabid := some n })
    else if s.fabric.fabid = some n then .next (s.setPort port true)
    else .next s

/-- GOLDEN_SOURCE_ADVANCE (R357): the golden source of a die's meshes moves on; dies 0 and 1 compute, 2 I/O. -/
def execGoldenSourceAdvance (die : Nat) (s : State) : Host.Outcome State Fault Refusal :=
  if die ≤ 2 then .next { s with golden := Tab.store 0 s.golden die ((Tab.getD s.golden die 0 + 1) % 52) } else .next s

end Sys2Proof.Machine
end

