-- ==== Sys2Proof/Machine/End.lean ====
section
/-!
DEFINITION. The end of fibres, groups and blocks (06 R139, 02 R23, 08 R194, 13 R290).
-/
namespace Sys2Proof.Machine

/-! ### Fibres (R139) -/

/-- The exports of the pixel fibres among some lanes of a group are applied (18 R345). -/
def State.applyExports (s : State) (x : Group) (m : Mask) : State :=
  match (s.blockOf x).bind fun b => (Tab.get s.launches b.launch).bind Launch.pass with
  | none => s
  | some (id, tile) =>
    (x.pixels.filter fun q => q.index / x.width == x.num && m.getLsbD (q.index % x.width)).foldl
      (fun s q => s.applyExport id tile q) s

/-- The group without the fibres of some lanes. Their subsets shrink; a subset without fibres is gone. -/
def Group.dropFibres (x : Group) (m : Mask) : Group :=
  let cut := fun (u : Subset) => { u with mask := u.mask &&& ~~~m }
  { x with
    fibres := x.fibres.filter fun p => !m.getLsbD p.1
    current := match x.current with
      | some u => if u.mask &&& ~~~m == 0 then none else some (cut u)
      | none => none
    waiting := (x.waiting.map cut).filter fun u => u.mask != 0
    pixels := x.pixels.filter fun q => !m.getLsbD (q.index % x.width) || q.index / x.width != x.num }

/-- A group has ended: its batch closes (18 R333), and its queued faults go to the front end (13 R289). -/
def State.groupEnded (s : State) (g : Nat) (x : Group) : State :=
  let s1 := match x.rasterPass with
    | some id => s.closeBatch id x.rasterBatch
    | none => s
  let o := s1.origin g x
  { s1.setGroup g { x with faults := [], runAhead := none, hold := none } with
    reports := s1.reports ++ x.faults.map fun f =>
      { kind := .endedGroup, f := f, core := o.core, resident := o.resident, group := o.num, block := o.block
        of := .none, words := [], index := none } }

/-- The fibres of some lanes of a group end. -/
def State.endFibres (s : State) (g : Nat) (m : Mask) : State :=
  match s.group? g with
  | none => s
  | some x =>
    let x1 := x.dropFibres m
    let s1 := (s.applyExports x m).setGroup g x1
    if x1.fibres.isEmpty then s1.groupEnded g x1 else s1.deliverParked g

/-! ### Blocks (R23, 08 R194) -/

/-- Overflow entries of a ROOT go when no block of it is resident on the cluster any more (20 R362). -/
def State.freeOverflow (s : State) (cluster root : Nat) : State :=
  let there := s.blocks.any fun p => s.rootOfBlock p.2 == root && p.2.seats.any fun e => clusterOf e.core == cluster
  if there then s
  else s.modFabric fun f => { f with overflow := f.overflow.filter fun q => q.cluster != cluster || q.root != root }

/-- A Closed set that has not started meets the release of its slots (10 R237). (DEDUCED, log 33.) -/
def State.abortSets (s : State) (b : Block) : State :=
  b.cvs.foldl (fun s p => match p.2.closed, p.2.first with
    | some _, some (o, pc, _) =>
      s.holdFault o (matFault s .detached pc p.2.params p.2.word (p.1 % 8) p.2.scope p.2.count) none none
    | _, _ => s) s

/-- The launch of a block that has ended counts it; `refused` says that the front end ended it (13 R290). -/
def Launch.blockEnded (l : Launch) (num : Nat) (refused : Bool) (flush : List (Nat × Nat)) : Launch :=
  let l1 := { l with left := l.left - 1, flush := l.flush ++ flush }
  if refused && l.status == 0 then { l1 with status := 4, reason := 7, place := num } else l1

/-- A block has ended: ring fills and traversals of it stop, its slots are released, its receives cancelled, and
its cores, area, registers and sets are free. Its `gupd` perform yet, as its other writes do (11 R252). A MOVE that named it
completes. -/
def State.blockEnded (s : State) (id : Nat) (b : Block) (refused : Bool) : State :=
  let core := match b.cores with
    | c :: _ => c
    | [] => 0
  let org : Origin := { group := 0, num := 0, block := id, core := core, resident := b.residentOn core }
  let flush := b.cores.map fun c => (c, s.ord.seq)
  let root := s.rootOfBlock b
  let s1 := s.abortSets b
  let s1 : State :=
    { s1 with
      copies := s1.copies.filter fun c => c.2.org.block != id || (c.2.fill.isNone && c.2.phase != CopyPhase.withdrawn)
      rays := s1.rays.filter fun r => r.2.org.block != id || r.2.updates }
  let s2 := b.slots.foldl (fun (s : State) q => s.releaseSlot org id q 0 0 0) s1
  let s3 := b.newBanks.foldl (fun s k => s.setBankSt k .free) s2
  let s4 := s3.modFabric fun f => { f with receives := f.receives.filter fun r => r.block != id }
  let s5 :=
    { s4 with
      groups := s4.groups.filter fun p => p.2.block != id
      blocks := Tab.del s4.blocks id
      launches := Tab.modify s4.launches b.launch fun l => l.blockEnded b.num refused flush }
  let s6 := match (Tab.get s.launches b.launch).bind Launch.queue with
    | some (n, first, count) => s5.releaseClaim n first count
    | none => s5
  let rings := (b.moveTo.map Prod.snd).toList ++ b.moveRing.toList
  let s7 := rings.foldl State.commandDone s6
  (b.seats.foldl (fun s e => s.retryCore e.core) s7).freeOverflow b.cluster root

/-- The block ends when none of its groups has a fibre. -/
def State.settleBlock (s : State) (id : Nat) (refused : Bool) : State :=
  match s.block? id with
  | none => s
  | some b =>
    if s.groups.any fun p => p.2.block == id && !p.2.fibres.isEmpty then s else s.blockEnded id b refused

/-- The groups of a saved block stand among the groups again, to be ended. -/
def State.unsave (s : State) (id : Nat) : State :=
  match s.block? id with
  | none => s
  | some b =>
    { s.modBlock id fun b => { b with saved := [] } with
      groups := b.saved.foldl (fun t p => Tab.put t p.1 p.2) s.groups }

/-- The front end ends a block (R290): every fibre of it ends as by `fend`. (DEDUCED, log 33.) -/
def State.endBlock (s : State) (id : Nat) : State :=
  let s := s.unsave id
  let gs := s.groups.filter fun p => p.2.block == id
  (gs.foldl (fun s p => s.endFibres p.1 (BitVec.allOnes 64)) s).settleBlock id true

/-- `fend` (R139). -/
def execFend (_o : ParkOnly) (s : State) : Host.Outcome State Fault Refusal :=
  runWord false (fun s g m =>
    match s.group? g with
    | none => s
    | some x => ((s.modGroup g fun y => y.countIssues 1).endFibres g m).settleBlock x.block false)
    (fun s _ _ => .ok s) s

end Sys2Proof.Machine
end

