-- ==== Sys2Proof/Machine/Service.lean ====
section
/-!
DEFINITION. The front end's part in faults (13 R288-R290): fault log entries, the host's answers, and work that a
migration had stopped.
-/
namespace Sys2Proof.Machine

/-! ### The fault log (R289) -/

def ReportKind.code : ReportKind → Nat
  | .blockEnded => 0
  | .pageService => 1
  | .endedGroup => 2
  | .completion => 3

/-- The key of entry n of the fault log. -/
def FaultLog.entryKey (l : FaultLog) (n : Nat) : Nat :=
  physKey l.host (l.base.toNat + l.baseH.toNat * 2 ^ 32 + 64 * (n % 2 ^ l.log2n.toNat))

/-- The 64 bytes of an entry; MORE says whether further faults of the group wait. -/
def Report.bytes (r : Report) (more : Bool) : List Byte :=
  bytesOfWords ([r.f.causeWord more, codeLo r.f.pc, codeHi r.f.pc, r.f.xops, r.f.time.setWidth 32,
    (r.f.time >>> 32).setWidth 32] ++ pad8 r.f.ops
    ++ [toWord (r.core % 256 + r.resident % 512 * 2 ^ 8 + r.group % 1024 * 2 ^ 17), toWord (r.kind.code * 2 ^ 28)])

/-- A front-end write of plain bytes at a physical address (11 R252, R258; 13 R289). -/
def State.frontWrite (s : State) (host : Bool) (pa : Nat) (bs : List Byte) : State :=
  s.engineWrite none (s.compAt (physKey host pa)) (physKey host pa) bs

/-- Whether further faults of the group that a report is of wait. -/
def State.reportMore (s : State) (r : Report) : Bool :=
  match r.of with
  | .group g => (match s.group? g with
    | some x => x.moreFaults
    | none => false)
  | _ => false

/-- What follows once an entry is written: a block that faulted ends (R290); a page service waits for its answer. -/
def State.reportWritten (s : State) (i : Nat) (r : Report) : State :=
  match r.kind with
  | .blockEnded => { s with reports := s.reports.eraseIdx i }.endBlock r.block
  | .pageService => { s with reports := s.reports.set i { r with index := some (s.log.wptr.toNat) } }
  | _ => { s with reports := s.reports.eraseIdx i }

/-- FAULT_LOG_WRITE (R289): the front end writes report `i` while the log is in use and has room. -/
def execFaultLogWrite (i : Nat) (s : State) : Host.Outcome State Fault Refusal :=
  match s.reports[i]? with
  | none => .next s
  | some r =>
    let room := decide ((s.log.wptr - s.log.rptr).toNat < 2 ^ s.log.log2n.toNat)
    if r.index.isSome || !s.log.en || !room then .next s
    else
      let key := s.log.entryKey s.log.wptr.toNat
      let s1 := (s.engineWrite none (s.compAt key) key (r.bytes (s.reportMore r))).reportWritten i r
      .next { s1 with log := { s1.log with wptr := s1.log.wptr + 1 } }

/-! ### Groups, saved ones among them -/

/-- Changes a group where it is, resident or saved. -/
def State.modAnyGroup (s : State) (g : Nat) (f : Group → Group) : State :=
  { s.modGroup g f with
    blocks := s.blocks.map fun b => (b.1, { b.2 with saved := Tab.modify b.2.saved g f }) }

/-- A refused page service of a resident group: the XLATE is taken as R286 says. -/
def State.takeFault (s : State) (g : Nat) (f : FaultRec) : State :=
  match s.group? g with
  | none => s
  | some x =>
    match s.blockOf x with
    | none => s
    | some b =>
      if x.maskTrap x.active || !b.trapEnabled then s.reportGroup g x .blockEnded f
      else if x.anyTrap then s.setGroup g (x.stopCurrent (.handler f))
      else s.trapCurrent g f false

/-! ### The host's answer (R288) -/

/-- A command that was stopped at a page aborts with the XLATE that it had met (09 R216). -/
def State.refuseCopy (s : State) (id : Nat) (c : CopyCmd) (f : FaultRec) : State :=
  s.failCopy id c f

/-- A refused ray waits for the trap return; its fault goes to its group (16 R328). -/
def State.refuseRay (s : State) (id : Nat) (r : Ray) (f : FaultRec) : State :=
  { s with rays := Tab.put s.rays id { r with phase := .refused f } }.holdFault r.org f none none

/-- The work that a report has stopped goes on. -/
def State.resumeWork (s : State) (w : ServiceOf) : State :=
  match w with
  | .group g => s.modAnyGroup g fun x => { x with hold := none }
  | .command c => { s with copies := Tab.modify s.copies c fun q =>
      if q.phase = .stopped then { q with phase := .queued, service := none, migrating := none }
      else if q.phase = .withdrawn then { q with service := none, migrating := none } else q }
  | .ray r => { s with rays := Tab.modify s.rays r fun q => { q with phase := .queued } }
  | .completion l => { s with launches := Tab.modify s.launches l fun q => { q with word := .due } }
  | .pass p => { s with passes := Tab.modify s.passes p fun q => { q with stop := none } }.sendTodo p
  | .none => s

/-- The host refuses a page. -/
def State.refuseWork (s : State) (w : ServiceOf) (f : FaultRec) : State :=
  match w with
  | .group g =>
    if s.isSaved g then s.modAnyGroup g fun x => { x with hold := some (.answered f) }
    else (s.modGroup g fun x => { x with hold := none }).takeFault g f
  | .command c => match Tab.get s.copies c with
    | some q => s.refuseCopy c q f
    | none => s
  | .ray r => match Tab.get s.rays r with
    | some q => s.refuseRay r q f
    | none => s
  | .completion l => match Tab.get s.launches l with
    | some q => s.wordFailed l q .xlate
    | none => s
  | .pass p => s.refusePass p 3 0
  | .none => s

/-- The host has answered page-service entry n of the log: ACK 01 resumes, ACK 10 refuses. (DEDUCED, log 34.) -/
def State.answered (s : State) (entry : Nat) : State :=
  match s.reports.find? fun r => r.kind == .pageService && r.index == some entry with
  | none => s
  | some r =>
    let w := ofBytes (s.engineRead none (s.log.entryKey entry + 60) 4).1
    let s1 := { s with reports := s.reports.erase r }
    match field w 31 30 with
    | 1 => s1.resumeWork r.of
    | 2 => s1.refuseWork r.of r.f
    | _ => s

/-- FLACK (R288). -/
def execFlack (entry : Word) (s : State) : Host.Outcome State Fault Refusal := .next (s.answered entry.toNat)

/-! ### The end of a migration (R288) -/

/-- Whether work stopped at an address goes on after an invalidation of a range of an address space. -/
def State.migrated (s : State) (root first len r va : Nat) : Bool :=
  let v := va % 2 ^ 52
  r == root && decide (v / 2 ^ 16 * 2 ^ 16 < first + len) && decide (first < (v / 2 ^ 16 + 1) * 2 ^ 16) && !s.foundMig root v

/-- A group that a migration stopped goes on. -/
def resumeGroup (p : Nat → Bool) (x : Group) : Group :=
  match x.hold with
  | some (.migrating va) => if p va then { x with hold := none } else x
  | _ => x

/-- After an invalidation the front end walks again for the work that MIGRATE has stopped (R288). -/
def State.resumeMigrating (s : State) (root first len : Nat) : State :=
  let ok := s.migrated root first len
  let rootOf := fun (b : Nat) => match s.block? b with
    | some b => s.rootOfBlock b
    | none => 0
  let s1 :=
    { s with
      groups := s.groups.map fun p => (p.1, resumeGroup (ok (rootOf p.2.block)) p.2)
      blocks := s.blocks.map fun b =>
        (b.1, { b.2 with saved := b.2.saved.map fun p => (p.1, resumeGroup (ok (s.rootOfBlock b.2)) p.2) })
      copies := s.copies.map fun p => match p.2.migrating with
        | some va => if ok p.2.root va then (p.1, { p.2 with phase := if p.2.phase = .withdrawn then .withdrawn else .queued, service := none, migrating := none })
          else p
        | none => p
      rays := s.rays.map fun p => match p.2.phase with
        | .migrating va => if ok p.2.root va then (p.1, { p.2 with phase := .queued }) else p
        | _ => p
      launches := s.launches.map fun p => match p.2.word with
        | .migrating va => if ok p.2.record.root va then (p.1, { p.2 with word := .due }) else p
        | _ => p }
  let go := s.passes.filter fun p => match p.2.stop with
    | some t => t.migrating && ok p.2.root t.va
    | none => false
  go.foldl (fun s p => s.resumeWork (.pass p.1)) s1

end Sys2Proof.Machine
end

