-- ==== Sys2Proof/Machine/FrontEnd.lean ====
section
/-!
DEFINITION. The command rings (11 R258, R259): serving a command, and each command; the migration of pages (07
R166).
-/
namespace Sys2Proof.Machine

/-! ### Serving a command (R258) -/

/-- Quadword i of a command. -/
def cmdWord (v i : Nat) : Nat := field v (64 * i + 63) (64 * i)

/-- The bits that a command's table row names: OP, WAIT, and the ranges of its operands. -/
def commandMask (op : Nat) : Nat :=
  let bits := fun (i hi lo : Nat) => (2 ^ (hi + 1) - 2 ^ lo) * 2 ^ (64 * i)
  511 + match op with
    | 1 => bits 1 55 0 + bits 2 51 0 + bits 3 15 0
    | 2 => bits 1 63 0 + bits 2 63 0 + bits 3 63 0 + bits 4 63 0 + bits 5 4 0 + bits 5 27 16
    | 3 => bits 1 63 0
    | 4 => bits 1 63 0 + bits 2 63 0 + bits 3 63 0
    | 5 => bits 1 63 0 + bits 2 63 0 + bits 3 55 16 + bits 3 63 63
    | 6 => bits 1 55 0 + bits 1 63 63 + bits 2 63 0
    | 7 => 0
    | _ => bits 1 63 0 + bits 2 31 0 + bits 3 31 0

/-- Whether a command is bad by its bits and its own alignments. -/
def commandBad (v : Nat) : Bool :=
  let op := field v 7 0
  let a := cmdWord v 1
  let b := cmdWord v 2
  op == 0 || decide (8 < op) || v &&& commandMask op != v || (op == 1 && (a % 32 != 0 || b % 8 != 0))

/-- Whether a ring is served: FE is set, nothing has tripped, and it holds a command. -/
def State.ringServed (s : State) (r : Ring) : Bool :=
  s.status.fe && !s.power.trip && r.en && !r.err && r.rptr != r.wptr

/-- A command with WAIT starts after the earlier commands of its ring have completed, and a LAUNCH after the last blocks of
their launches have ended (R252). -/
def State.ringWaits (s : State) (ring : Nat) (r : Ring) (v : Nat) : Bool :=
  v.testBit 8 && (r.late != 0 || (field v 7 0 == 1 && s.launches.any fun l => l.2.ring == some ring && decide (0 < l.2.left)))

/-- How a command is dealt with. -/
inductive Served where
  /-- It completes at once. -/
  | done (s : State)
  /-- It has been fetched and completes later. -/
  | late (s : State)
  /-- It is refused: the ring stops at it. -/
  | refused
  /-- It does not start yet. -/
  | wait
  deriving DecidableEq, Repr

/-- Serves the command at the RPTR of a ring when its OP is the given one. A bad command stops the ring there;
one of an unknown OP is met by whichever command event finds it. -/
def State.serve (s : State) (ring op : Nat) (k : State → Nat → Served) : State :=
  let r := s.ringAt ring
  if 64 ≤ ring || !s.ringServed r then s
  else
    match s.commandBytes r with
    | none => s
    | some bs =>
      let v := ofBytes bs
      let o := field v 7 0
      if s.ringWaits ring r v || (o != op && o != 0 && decide (o ≤ 8)) then s
      else
        let stop := s.setRing ring { r with err := true }
        if commandBad v then stop
        else
          match k s v with
          | .done t => t.setRing ring { t.ringAt ring with rptr := r.rptr + 1, done := (t.ringAt ring).done + 1 }
          | .late t => t.setRing ring { t.ringAt ring with rptr := r.rptr + 1, late := (t.ringAt ring).late + 1 }
          | .refused => stop
          | .wait => s

/-- A ROOT operand: the physical address of the level-0 table (R243). (DEDUCED, log 31.) -/
def rootOperand (v : Nat) : Nat := v % 2 ^ 40 * 2 ^ 16

/-- The doorbell: the host writes WPTR. After a thermal trip it changes nothing (22 R389). -/
def State.doorbell (s : State) (ring : Nat) (wptr : Word) : State :=
  if 64 ≤ ring || s.power.trip then s else s.setRing ring { s.ringAt ring with wptr := wptr }

/-- RING_DOORBELL (R258). -/
def execRingDoorbell (ring : Nat) (wptr : Word) (s : State) : Host.Outcome State Fault Refusal :=
  .next (s.doorbell ring wptr)

/-- Clearing ERR skips the command at which the ring stopped. (DEDUCED, log 36.) -/
def Ring.clearErr (r : Ring) : Ring := if r.err then { r with err := false, rptr := r.rptr + 1 } else r

/-- RING_ERR_CLEAR (R258). After a thermal trip it changes nothing (22 R389). -/
def execRingErrClear (ring : Nat) (s : State) : Host.Outcome State Fault Refusal :=
  if 64 ≤ ring || s.power.trip then .next s else .next (s.setRing ring (s.ringAt ring).clearErr)

/-! ### The commands -/

/-- LAUNCH (R249, R250): the checks, and then every block waits; a rejected launch completes with its word. -/
def execLaunch (ring : Nat) (s : State) : Host.Outcome State Fault Refusal :=
  .next (s.serve ring 1 fun s v =>
    let pa := cmdWord v 1
    let rank := field (cmdWord v 3) 15 0
    let (c, s1) := s.checkLaunch pa rank false
    let l := { newLaunch s1 c pa ring (cmdWord v 2) rank with ring := some ring, slow := c.reason != 0 }
    let s2 := s1.addLaunch l (if c.reason = 0 then c.map.zipIdx.map fun p => (p.2, p.1) else [])
    if c.reason = 0 then .done s2 else .late s2)

/-- Whether a configuration is legal (R253, R257). (DEDUCED, log 31.) -/
def State.queueOk (s : State) (q : Queue) : Bool :=
  decide (4 ≤ q.log2cap) && decide (q.log2cap ≤ 20) && q.base % 64 == 0 && decide (1 ≤ q.batch)
    && decide (q.batch ≤ 2 ^ q.log2cap)
    && (q.binding == 0 || (q.binding % 32 == 0 && match s.readPhys false q.binding 96 with
      | some bs => !(launchRec bs).gang
      | none => false))

/-- QCFG (R253, R258): refused unless TAIL = FREE. -/
def execQcfg (ring : Nat) (s : State) : Host.Outcome State Fault Refusal :=
  .next (s.serve ring 2 fun s v =>
    let n := cmdWord v 1
    let q : Queue :=
      { base := cmdWord v 2 % 2 ^ 52, root := rootOperand (cmdWord v 3), binding := cmdWord v 4 % 2 ^ 56, log2cap := field (cmdWord v 5) 4 0
        batch := field (cmdWord v 5) 27 16, tail := 0, head := 0, free := 0, armed := none, launched := 0, claims := [] }
    let busy := match Tab.get s.queues n with
      | some o => o.tail != o.free
      | none => false
    if 512 ≤ n || busy || !s.queueOk q then .refused else .done (s.setQueue n q))

/-- QFLUSH (R257). -/
def execQflush (ring : Nat) (s : State) : Host.Outcome State Fault Refusal :=
  .next (s.serve ring 3 fun s v => .done (s.claims (cmdWord v 1) true))

/-- INVAL (07 R157): cached translations of a range are gone, and work that a migration stopped there is walked
again (13 R288). -/
def execInval (ring : Nat) (s : State) : Host.Outcome State Fault Refusal :=
  .next (s.serve ring 4 fun s v =>
    let root := rootOperand (cmdWord v 1)
    let first := cmdWord v 2 % 2 ^ 52
    let len := cmdWord v 3
    .done ((s.invalidate root first len).resumeMigrating root first len))

/-- SIGNAL (R258): a value is written at its home. -/
def execSignal (ring : Nat) (s : State) : Host.Outcome State Fault Refusal :=
  .next (s.serve ring 6 fun s v =>
    let a := cmdWord v 1
    let host := a.testBit 63
    let pa := field a 55 0
    .done (if !host && decide (deviceEnd < pa + 8) then s else s.frontWrite host pa (bytesOf 8 (cmdWord v 2))))

/-- NOP (R258). -/
def execNopCommand (ring : Nat) (s : State) : Host.Outcome State Fault Refusal :=
  .next (s.serve ring 7 fun s _ => .done s)

/-! ### MIGRATE (07 R166) -/

/-- The address and level of the leaf that a walk ends at, among at most n levels. -/
def leafAt (s : State) (va : Nat) : Nat → Nat → Nat → Option (Nat × Nat)
  | 0, _, _ => none
  | n + 1, level, pa =>
    let a := pa + 8 * levelIndex va level
    let e := ofBytes (s.readPa a 8)
    if deviceEnd ≤ a || s.anyError a 8 || !e.testBit 0 then none
    else if e.testBit 63 then (if tableOk level e then leafAt s va n (level + 1) (entryPa e) else none)
    else if leafOk level e then some (level, a) else none

/-- Every write on its way to a range of locations performs. -/
def State.settleRange (s : State) (key n : Nat) : State :=
  let inside := fun (k : Nat) => decide (key ≤ k) && decide (k < key + n)
  let upds := s.rays.filter fun r => r.2.updates && r.2.line.any inside
  let s1 := (upds.foldl State.settleRay s).settleSlices fun o => o.lanes.any fun l => inside l.key
  let s2 := drainBuffer (fun e => inside e.key) s1.ord.wb.length s1
  let s3 := drainPoint (fun w => decide (w.point < 192) && inside w.entry.key) s2.ord.writes.length s2
  drainPoint (fun w => inside w.entry.key) s3.ord.writes.length s3

/-- Copies a page's bytes, with their errors and the tags that their writes carry. -/
def State.copyPage (s : State) (src dst n : Nat) : State :=
  let s1 := s.settleRange src n
  let inside := fun (k a : Nat) => decide (a ≤ k) && decide (k < a + n)
  let bytes := s1.mem.filter fun p => inside p.1 src
  let bad := s1.errors.filter fun e => inside (8 * e) src
  let tags := s1.ord.homeTags.filter fun p => inside (p.1 / 2) src
  let mem := bytes.foldl (fun m p => Memory.write m (p.1 - src + dst) p.2) (s1.mem.filter fun p => !inside p.1 dst)
  { s1 with
    mem := mem
    errors := (s1.errors.filter fun e => !inside (8 * e) dst) ++ bad.map fun e => e - src / 8 + dst / 8
    ord := { s1.ord with
      homeTags := tags.foldl (fun t p => Tab.put t (p.1 - 2 * src + 2 * dst) p.2)
        (s1.ord.homeTags.filter fun p => !inside (p.1 / 2) dst)
      copies := s1.ord.copies.filter fun p => !inside (p.loc / 2) src && !inside (p.loc / 2) dst } }

/-- The front end's page rewrite (07 R162): a compressed page comes to stand at another place with every line as is. -/
def State.expandPage (s : State) (c : Comp) (dst : Nat) : State :=
  let t := s.copyPage c.base dst c.size
  let lines := (List.range ((c.size - c.descBytes) / 128)).filter fun i => lineDesc t.mem c (c.base + 128 * i) != 0
  let u := lines.foldl (fun (u : State) i =>
    let r := t.engineRead (some c) (c.base + 128 * i) 128
    let v := u.writeHome (dst + 128 * i) r.1
    if r.2 then { v with errors := v.errors ++ (List.range 16).map ((dst + 128 * i) / 8 + ·) } else v) t
  u.writeHome (dst + c.size - c.descBytes) (List.replicate c.descBytes 0)

/-- Steps 1 and 2: MIG is set in the leaf, and the page's translations are invalidated. -/
def State.beginMigration (s : State) (m : Migration) : State :=
  match leafAt s m.va 4 0 m.root with
  | none => s
  | some (level, a) =>
    let e := ofBytes (s.readPa a 8)
    let n := levelSize level
    ({ s.frontWrite false a (bytesOf 8 (e ||| 2 ^ 17)) with migrations := s.migrations ++ [m] }).invalidate m.root
      (m.va - m.va % n) n

/-- Steps 3 and 4: the page is copied, and the new leaf is written with MIG clear. A compressed page that goes to host
memory, where a leaf may name no compression, is rewritten (07 R162; DEDUCED, log 32). Work that had stopped there goes on
(13 R288). To a destination beyond device memory nothing is copied, and the new leaf is written all the same (DESIGN CHOICE,
log 46). -/
def State.endMigration (s : State) (m : Migration) : State :=
  match leafAt s m.va 4 0 m.root with
  | none => s
  | some (level, a) =>
    let e := ofBytes (s.readPa a 8)
    let n := levelSize level
    let src := physKey (e.testBit 16) (entryPa e)
    let dst := physKey m.host m.pa
    let old := leafPage level (BitVec.ofNat 64 e) m.va
    let keep := e - e % 2 ^ 60 + e % 2 ^ 20 - (if e.testBit 16 then 2 ^ 16 else 0) - (if e.testBit 17 then 2 ^ 17 else 0)
      - (if m.host then old.cmp * 2 ^ 12 else 0)
    let new := keep + m.pa / 2 ^ 16 * 2 ^ 20 + (if m.host then 2 ^ 16 else 0)
    let s1 := if !m.host && deviceEnd < m.pa + n then s
      else match m.host, old.comp with
        | true, some c => s.expandPage c dst
        | _, _ => s.copyPage src dst n
    let s2 := (s1.frontWrite false a (bytesOf 8 new)).invalidate m.root (m.va - m.va % n) n
    let left := s2.compPages.filter fun c => c.base != src
    { s2 with compPages := noteComp left (leafPage level (BitVec.ofNat 64 new) m.va) }.resumeMigrating m.root (m.va - m.va % n) n

/-- The front end's page rewrite (07 R162): a compressed page comes to stand with every line as is, and CMP becomes 0 in its
leaf. No command asks for it, so when it happens is free: at some time while the front end runs, in an address space that has
been walked. (DEDUCED, log 20.) -/
def State.rewritePage (s : State) (root va : Nat) : State :=
  match leafAt s va 4 0 root with
  | none => s
  | some (level, a) =>
    let e := ofBytes (s.readPa a 8)
    let n := levelSize level
    let old := leafPage level (BitVec.ofNat 64 e) va
    match old.comp with
    | none => s
    | some c =>
      if e.testBit 17 || e.testBit 16 || !s.status.fe || s.power.trip || !s.cached.any (·.root == root) then s
      else
        let s1 := ((s.expandPage c c.base).frontWrite false a (bytesOf 8 (e - old.cmp * 2 ^ 12))).invalidate root (va - va % n) n
        { s1 with compPages := s1.compPages.filter fun q => q.base != c.base }

/-- MIGRATE (R166, R258): the first event starts the four steps, and the next one ends them. A page that has no
leaf has nothing to migrate. (DEDUCED, log 32.) -/
def execMigrate (ring : Nat) (s : State) : Host.Outcome State Fault Refusal :=
  match s.migrations.find? fun m => m.ring == ring with
  | some m => .next (({ s with migrations := s.migrations.erase m }.endMigration m).commandDone ring)
  | none =>
    .next (s.serve ring 5 fun s v =>
      let m : Migration :=
        { ring := ring, root := rootOperand (cmdWord v 1), va := cmdWord v 2 % 2 ^ 52
          pa := field (cmdWord v 3) 55 16 * 2 ^ 16, host := (cmdWord v 3).testBit 63 }
      match leafAt s m.va 4 0 m.root with
      | none => .done s
      | some _ => .late (s.beginMigration m))

/-! ### MOVE (R259) -/

/-- Row 3 for a new entry of block b: its own part, and the entries of the other blocks of its units.
(DEDUCED, log 32.) -/
def moveEntryOk (r : LaunchRec) (map : List Word) (b : Nat) (e : Word) : Bool :=
  entryOk r e && (r.above.filter fun k => lvlDom (r.lvl k) == 3 || lvlDom (r.lvl k) == 4).all fun k =>
    let q := r.unitBlocks k
    (List.range map.length).all fun i => i == b || i / q != b / q || entriesAgree (lvlDom (r.lvl k)) (nth map i 0) e

/-- MOVE (R259): steps 1 and the start of 2: the block stands on the wait lists of its new cores. A block that is
still on its way to other cores is moved afterwards. The launch is one that a LAUNCH command has brought, the first of those
whose blocks have not all ended. -/
def execMove (ring : Nat) (s : State) : Host.Outcome State Fault Refusal :=
  .next (s.serve ring 8 fun s v =>
    let num := field (cmdWord v 2) 31 0
    let e := toWord (cmdWord v 3)
    match s.launches.find? fun l => l.2.ring.isSome && l.2.recPa == cmdWord v 1 && decide (0 < l.2.left) with
    | none => .refused
    | some (id, l) =>
      match s.blocks.find? fun b => b.2.launch == id && b.2.num == num with
      | none => .refused
      | some (k, b) =>
        if !moveEntryOk l.record l.map num e || !fitsEmpty l.record e then .refused
        else if b.moveTo.isSome || b.moveRing.isSome then .wait
        else .late (s.modBlock k fun b => { b with moveTo := some (e, ring) }))

end Sys2Proof.Machine
end

