-- ==== Sys2Proof/Machine/Heads.lean ====
section
/-!
DEFINITION. The display heads (18 R352): frame starts, the link, and the lines that scan-out sends.
-/
namespace Sys2Proof.Machine

def State.headReady (s : State) (h : Nat) : Bool := decide (h < 4) && s.status.heads.getLsbD h

/-- Whether lines of the frame that ends were not delivered in time (R352; DEDUCED, log 29). -/
def Head.missedLines (x : Head) : Bool :=
  x.linkUp && match x.image with
    | some (_, _, w, h, _) => decide (0 < w) && (decide (x.lines.length < h) || x.line.isSome)
    | none => false

/-- FRAME_START (R352): at DEADLINE the image registers are latched, and DEADLINE advances by PERIOD. A line of the last frame
that was not sent sets UNDER. -/
def execFrameStart (head : Nat) (s : State) : Host.Outcome State Fault Refusal :=
  let x := s.head head
  if s.headReady head && x.en && decide (x.deadline.toNat ≤ s.tsc.toNat) then
    .next (s.setHead head
      { x with
        deadline := x.deadline + x.period.setWidth 64, frames := x.frames + 1
        image := some (x.base.toNat + x.baseH.toNat * 2 ^ 32, (x.root.toNat + x.rootH.toNat * 2 ^ 32) * 2 ^ 16,
          wbits x.size 15 0, wbits x.size 31 16, x.fmt)
        under := x.under || x.missedLines, lines := [], line := none })
  else .next s

/-- HEAD_LINK_UP (R352): firmware has trained the link at the LANES and RATE that the register holds. -/
def execHeadLinkUp (head : Nat) (s : State) : Host.Outcome State Fault Refusal :=
  let x := s.head head
  if s.headReady head && x.en && x.lanes != 3 && x.rate != 7 then .next (s.setHead head { x with linkUp := true })
  else .next s

/-- HEAD_LINK_LOST (R352). -/
def execHeadLinkLost (head : Nat) (s : State) : Host.Outcome State Fault Refusal :=
  .next (s.setHead head { s.head head with linkUp := false })

/-- A channel as it is sent, with n = 8 or 10 bits. -/
def sentChannel (rgba8 : Bool) (n : Nat) (v : Nat) : Nat :=
  if rgba8 then (2 * v * (2 ^ n - 1) + 255) / 510 else unormOf n (f16.decode v)

/-- The colours of a pixel of an image as they are sent, or none when it cannot be read. -/
def State.scanPixel (s : State) (root va w : Nat) (rgba8 bpc10 : Bool) (x y : Nat) : Option (Nat × Nat × Nat) × State :=
  let bpp := if rgba8 then 4 else 8
  let a := va + bpp * (256 * (y / 16 * (w / 16) + x / 16) + 16 * (y % 16) + x % 16)
  match s.plainPage root (a % 2 ^ 52) .read with
  | (.error _, s1) => (none, s1)
  | (.ok p, s1) =>
    let r := s1.engineRead p.comp p.key bpp
    if r.2 then (none, s1)
    else
      let c := fun i => sentChannel rgba8 (if bpc10 then 10 else 8) (ofBytes ((r.1.drop (bpp / 4 * i)).take (bpp / 4)))
      (some (c 0, c 1, c 2), s1)

/-- A line is sent: a pixel that was not read is black and sets UNDER. -/
def Head.sendLine (x : Head) (y : Nat) (px : List (Option (Nat × Nat × Nat))) : Head :=
  let black := fun (c : Option (Nat × Nat × Nat)) => match c with
    | some c => c
    | none => (0, 0, 0)
  { x with under := x.under || px.any Option.isNone, line := none, sent := some (y, px.map black) }

/-- The pixels read of line y, when its scan may go on: a frame scans each line once, one line at a time (21 R379). -/
def Head.scanned (x : Head) (y : Nat) : Option (List (Option (Nat × Nat × Nat))) :=
  match x.line with
  | some (z, l) => if z = y then some l else none
  | none => if x.lines.contains y then none else some []

/-- SCAN_OUT_LINE (R352, 21 R379): the scan of line y goes on by one pixel. When it is `late`, the delivery time of the line
has come, and the pixels that are not read are sent as black. -/
def execScanOutLine (head y : Nat) (late : Bool) (s : State) : Host.Outcome State Fault Refusal :=
  let x := s.head head
  match x.image, x.scanned y with
  | some (va, root, w, h, rgba8), some l =>
    if !s.headReady head || !x.en || !x.linkUp || h ≤ y then .next s
    else
      let r :=
        if late || decide (w ≤ l.length) then (List.replicate (w - l.length) none, s)
        else let p := s.scanPixel root va w rgba8 x.bpc10 l.length y; ([p.1], p.2)
      let px := l ++ r.1
      let x1 := { x with lines := insertNat x.lines y, line := some (y, px) }
      .next (r.2.setHead head (if w ≤ px.length then x1.sendLine y px else x1))
  | _, _ => .next s

end Sys2Proof.Machine
end

