-- ==== Sys2Proof/Machine/Uniform.lean ====
section
/-!
DEFINITION. Uniform arithmetic (06 R133, R134), the block-shared registers (02 R45), the system registers
(06 R141-R143) and `time` (R144).
-/
namespace Sys2Proof.Machine

/-! ### Uniform arithmetic (R133, R134) -/

/-- `uadd` (R133). -/
def execUadd (o : Regs3) (s : State) : Host.Outcome State Fault Refusal := uni3 (fun a b => a + b) o s

/-- `usub` (R133). -/
def execUsub (o : Regs3) (s : State) : Host.Outcome State Fault Refusal := uni3 (fun a b => a - b) o s

/-- `umul` (R133). -/
def execUmul (o : Regs3) (s : State) : Host.Outcome State Fault Refusal := uni3 (fun a b => a * b) o s

/-- `uand` (R133). -/
def execUand (o : Regs3) (s : State) : Host.Outcome State Fault Refusal := uni3 (fun a b => a &&& b) o s

/-- `uor` (R133). -/
def execUor (o : Regs3) (s : State) : Host.Outcome State Fault Refusal := uni3 (fun a b => a ||| b) o s

/-- `uxor` (R133). -/
def execUxor (o : Regs3) (s : State) : Host.Outcome State Fault Refusal := uni3 (fun a b => a ^^^ b) o s

/-- `ushl` (R133). -/
def execUshl (o : Regs3) (s : State) : Host.Outcome State Fault Refusal := uni3 (fun a b => shiftLeft a b) o s

/-- `ushr` (R133). -/
def execUshr (o : Regs3) (s : State) : Host.Outcome State Fault Refusal := uni3 (fun a b => shiftRight a b) o s

/-- `usar` (R133). -/
def execUsar (o : Regs3) (s : State) : Host.Outcome State Fault Refusal := uni3 (fun a b => shiftArith a b) o s

/-- `ucmp.eq` (R133). -/
def execUcmpEq (o : Regs3) (s : State) : Host.Outcome State Fault Refusal := uni3 (fun a b => truth (a == b)) o s

/-- `ucmp.ne` (R133). -/
def execUcmpNe (o : Regs3) (s : State) : Host.Outcome State Fault Refusal := uni3 (fun a b => truth (a != b)) o s

/-- `ucmp.lt.s` (R133). -/
def execUcmpLtS (o : Regs3) (s : State) : Host.Outcome State Fault Refusal := uni3 (fun a b => truth (a.slt b)) o s

/-- `ucmp.ge.s` (R133). -/
def execUcmpGeS (o : Regs3) (s : State) : Host.Outcome State Fault Refusal := uni3 (fun a b => truth (!a.slt b)) o s

/-- `ucmp.lt.u` (R133). -/
def execUcmpLtU (o : Regs3) (s : State) : Host.Outcome State Fault Refusal := uni3 (fun a b => truth (a.ult b)) o s

/-- `ucmp.ge.u` (R133). -/
def execUcmpGeU (o : Regs3) (s : State) : Host.Outcome State Fault Refusal := uni3 (fun a b => truth (!a.ult b)) o s

/-- A uniform word that rewrites its own register d from its old value. -/
def uniImm (f : Word → Word) (park : Bool) (d : Nat) (s : State) : Host.Outcome State Fault Refusal :=
  stepWord true park (checked { uniR := [d], uniW := [d] } fun s g x => okGroup s g (x.bcast d (f (x.uni d)))) s

/-- `uaddi` (R134). -/
def execUaddi (o : UImm) (s : State) : Host.Outcome State Fault Refusal :=
  uniImm (fun v => v + o.imm.signExtend 32) o.park o.d.toNat s

/-- `umovi` (R134). -/
def execUmovi (o : UImm17) (s : State) : Host.Outcome State Fault Refusal :=
  stepWord true o.park (checked { uniW := [o.d.toNat] } fun s g x =>
    okGroup s g (x.bcast o.d.toNat (o.imm.signExtend 32))) s

/-- `ului` (R134). -/
def execUlui (o : UImm17) (s : State) : Host.Outcome State Fault Refusal :=
  uniImm (fun v => (v <<< 17) ||| o.imm.setWidth 32) o.park o.d.toNat s

/-! ### Block-shared registers (02 R42-R45) -/

/-- The block-shared registers of the issuing group's block; none when the block spans several cores, which
makes the word illegal (R42, R45). -/
def State.shared (s : State) (x : Group) : Option (List Word) :=
  match s.blockOf x with
  | none => none
  | some b => if b.seats.length = 1 then some b.bs else none

def Block.setShared (b : Block) (n : Nat) (v : Word) : Block := { b with bs := setNth b.bs n v }

/-- The common form of the three words: `f` answers the new value of the register from its old value, and
the old value is broadcast to d where there is one. -/
def sharedWord (park : Bool) (n : Nat) (d a : Option Nat) (f : Word → Word → Word) (s : State) :
    Host.Outcome State Fault Refusal :=
  stepWord false park (checked { uniR := a.toList, uniW := d.toList } fun s g x =>
    match s.shared x with
    | none => illegal s
    | some bs =>
      let old := nth bs n 0
      let v := match a with
        | some a => x.uni a
        | none => 0
      let x1 := match d with
        | some d => x.bcast d old
        | none => x
      .ok ((s.modBlock x.block fun b => b.setShared n (f old v)).setGroup g x1)) s

/-- `bsr` (02 R45). -/
def execBsr (o : BsD) (s : State) : Host.Outcome State Fault Refusal :=
  sharedWord o.park o.n.toNat (some o.d.toNat) none (fun old _ => old) s

/-- `bsw` (02 R45). -/
def execBsw (o : BsA) (s : State) : Host.Outcome State Fault Refusal :=
  sharedWord o.park o.n.toNat none (some o.a.toNat) (fun _ v => v) s

/-- `bsadd` (02 R45). -/
def execBsadd (o : BsDA) (s : State) : Host.Outcome State Fault Refusal :=
  sharedWord o.park o.n.toNat (some o.d.toNat) (some o.a.toNat) (fun old v => old + v) s

/-! ### System registers (R141-R143) -/

/-- Registers of a fibre; every other belongs to its group, block or core (R142). -/
def perFibre : SysReg → Bool
  | .pred | .repc | .lnk | .lnkHi | .place | .lvl _ => true
  | _ => false

/-- sr.place of a lane (R143). -/
def Group.placeWord (x : Group) (l : Nat) : Word :=
  toWord (x.core * 2 ^ 12 + x.part * 2 ^ 8 + x.row * 2 ^ 6 + (x.first + l))

/-- sr.grp (R143). -/
def Group.grpWord (x : Group) : Word :=
  toWord (x.first * 2 ^ 24 + x.wsize * 2 ^ 16 + x.wbase * 2 ^ 8 + x.width)

/-- CAP holds the clock down: the clock is above CAP, or at a CAP below 600 with the conditions of a step up
(22 R388, R389; DEDUCED, log 24). -/
def Power.capHolds (p : Power) : Bool :=
  decide (p.cap.toNat < p.mhz.toNat) || (p.cap == p.mhz && decide (p.cap.toNat < 600) && p.low && p.cool)

/-- sr.clk and CLKSTAT (22 R388). -/
def Power.word (p : Power) : Word :=
  toWord (p.mhz.toNat + (if p.overPower then 2 ^ 16 else 0) + (if p.hot then 2 ^ 17 else 0)
    + (if p.capHolds then 2 ^ 18 else 0) + (if p.trip then 2 ^ 19 else 0))

/-- sr.wake (02 R48). -/
def Core.wakeWord (c : Core) : Word := toWord (c.wakeFrom.toNat * 2 ^ 20 + c.wakeBits.toNat)

/-- The key of a notify register. -/
def notifyKey (core n : Nat) : Nat := 16 * core + n

/-- A register of a fibre, as it reads. -/
def fibreReg (x : Group) (l : Nat) (f : Fibre) (r : SysReg) : Word :=
  match r with
  | .pred => x.predWord l
  | .repc => f.repc
  | .lnk => codeLo f.link
  | .lnkHi => codeHi f.link
  | .place => x.placeWord l
  | .lvl k => nth f.lvl k.val 0
  | _ => 0

/-- A register of a group, block or core, as it reads. -/
def State.sharedReg (s : State) (x : Group) (r : SysReg) : Word :=
  match r with
  | .grp => x.grpWord
  | .tvec => match s.blockOf x with
    | some b => b.tvec
    | none => 0
  | .tvecHi => match s.blockOf x with
    | some b => b.tvecHi
    | none => 0
  | .fcause => x.fcause
  | .fpc => x.fpc
  | .fpcHi => x.fpcHi
  | .ftime => x.ftime
  | .ftimeHi => x.ftimeHi
  | .fops i => nth x.fops i.val 0
  | .wake => (s.core x.core).wakeWord
  | .ny i => Tab.getD s.notify (notifyKey x.core i.val) 0
  | .rasthr => (s.core x.core).rasthr
  | .clk => s.power.word
  | _ => 0

/-- What reading a register clears (R5), and the acquire of a notify register that was not 0 (02 R49). -/
def State.afterRead (s : State) (g : Nat) (x : Group) (r : SysReg) : State :=
  match r with
  | .wake => s.setCore x.core { s.core x.core with wakeFrom := 0, wakeBits := 0 }
  | .ny i =>
    let v := s.sharedReg x r
    let s1 := { s with notify := Tab.del s.notify (notifyKey x.core i.val) }
    if v = 0 then s1 else s1.acquire g .dev
  | _ => s

/-- `srd` (R141). -/
def execSrd (o : SysOp) (s : State) : Host.Outcome State Fault Refusal :=
  stepWord (!o.reg.readClears) o.park (checked { uniW := [o.d.toNat] } fun s g x =>
    if perFibre o.reg then
      okGroup s g (x.lanes.foldl (fun y l => y.setReg l o.d.toNat (match x.fibre? l with
        | some f => fibreReg x l f o.reg
        | none => 0)) x)
    else .ok ((s.setGroup g (x.bcast o.d.toNat (s.sharedReg x o.reg))).afterRead g x o.reg)) s

/-- The reserved bits of a register (R6): a nonzero value there is illegal. -/
def reservedBits : SysReg → Word
  | .pred => 0xFFFFE0F0
  | .lnk => 0x3
  | .lnkHi => 0xFFFF0000
  | .place => 0xFFF00000
  | .grp => 0xC0000000
  | .tvec => 0x2
  | .tvecHi => 0xFFFF0000
  | .fcause => 0x3C00FF00
  | .fpc => 0x3
  | .fpcHi => 0xFFFF0000
  | .clk => 0xFFF0FC00
  | _ => 0

/-- Writes a register of a fibre; fields marked RO keep their values. -/
def Fibre.write (f : Fibre) (r : SysReg) (v : Word) : Fibre :=
  match r with
  | .pred => { f with flags := (f.flags &&& ~~~stickyMask) ||| (v &&& stickyMask) }
  | .repc => { f with repc := v }
  | .lnk => { f with link := codeAddr v (codeHi f.link) }
  | .lnkHi => { f with link := codeAddr (codeLo f.link) v }
  | _ => f

/-- Writes a register of the fault record (13 R281). -/
def Group.writeFault (x : Group) (r : SysReg) (v : Word) : Group :=
  match r with
  | .fcause => { x with fcause := (v &&& 0xBFFFFFFF) ||| (x.fcause &&& 0x40000000) }
  | .fpc => { x with fpc := v }
  | .fpcHi => { x with fpcHi := v }
  | .ftime => { x with ftime := v }
  | .ftimeHi => { x with ftimeHi := v }
  | .fops i => { x with fops := setNth x.fops i.val v }
  | _ => x

/-- Writes a register of a group, block or core. -/
def State.writeShared (s : State) (g : Nat) (x : Group) (r : SysReg) (v : Word) : State :=
  match r with
  | .tvec => s.modBlock x.block fun b => { b with tvec := v }
  | .tvecHi => s.modBlock x.block fun b => { b with tvecHi := v }
  | .rasthr => s.setCore x.core { s.core x.core with rasthr := v }
  | r => (s.setGroup g (x.writeFault r v)).mirrorFault g

/-- `swr` (R141). -/
def execSwr (o : SysOp) (s : State) : Host.Outcome State Fault Refusal :=
  stepWord (perFibre o.reg) o.park (fun s g x =>
    if o.reg.readClears then illegal s
    else checked { uniR := [o.d.toNat] } (fun s g x =>
      let v := x.uni o.d.toNat
      if v &&& reservedBits o.reg != 0 then illegal s
      else if perFibre o.reg then okGroup s g (x.mapFibres x.active fun f => f.write o.reg v)
      else .ok (s.writeShared g x o.reg v)) s g x) s

/-- `time` (R144): the register pair d, d + 1 in every lane. -/
def execTime (o : RegD) (s : State) : Host.Outcome State Fault Refusal :=
  stepWord true o.park (checked { uniW := [o.d.toNat, o.d.toNat + 1] } fun s g x =>
    okGroup s g (x.bcasts o.d.toNat [s.tsc.setWidth 32, (s.tsc >>> 32).setWidth 32])) s

end Sys2Proof.Machine
end

