-- ==== Sys2Proof/Machine/HostIo.lean ====
section
/-!
DEFINITION. What the host does to the device: register writes (00 R5; 11 R258, 13 R289, 18 R352, 20 R367, R376, 22
R381), memory accesses (07 R166, 12 R263) and the notify aperture (22 R382).
-/
namespace Sys2Proof.Machine

/-! ### The clock cap (R381) -/

/-- CAP takes a multiple of 50 from 200 to 600, and is unchanged by any other value. -/
def Power.setCap (p : Power) (v : Word) : Power :=
  let n := wbits v 9 0
  if n % 50 = 0 ∧ 200 ≤ n ∧ n ≤ 600 then { p with cap := BitVec.ofNat 10 n } else p

/-- CAP_WRITE (R381). After a thermal trip it changes nothing (R389). -/
def execCapWrite (value : Word) (s : State) : Host.Outcome State Fault Refusal :=
  if s.power.trip then .next s else .next { s with power := s.power.setCap value }

/-! ### The register blocks -/

/-- LOG2N takes 4 to 16, and is unchanged by any other value. -/
def log2nOf (old : BitVec 5) (v : Word) : BitVec 5 :=
  let n := wbits v 4 0
  if 4 ≤ n ∧ n ≤ 16 then BitVec.ofNat 5 n else old

/-- The fault log and save pool (13 R289). Other offsets below 0x100 hold no field that a write changes: a write of the status
block's RC counters leaves them too (DESIGN CHOICE, log 43). -/
def State.writeLog (s : State) (offset : Nat) (v : Word) : State :=
  let l := s.log
  match offset with
  | 0x40 => { s with log := { l with saveBase := v } }
  | 0x44 => { s with log := { l with saveBaseH := v.setWidth 24 } }
  | 0x48 => { s with log := { l with saveLen := v } }
  | 0x50 => { s with log := { l with base := v } }
  | 0x54 => { s with log := { l with host := wbit v 31, baseH := v.setWidth 24 } }
  | 0x58 => { s with log := { l with en := wbit v 31, log2n := log2nOf l.log2n v } }
  | 0x60 => { s with log := { l with rptr := v } }
  | 0x64 => s.answered v.toNat
  | _ => s

/-- The register block of ring i (11 R258). (DEDUCED, log 36.) -/
def State.writeRing (s : State) (i offset : Nat) (v : Word) : State :=
  let r := s.ringAt i
  match offset with
  | 0x00 => s.setRing i { r with base := v }
  | 0x04 => s.setRing i { r with host := wbit v 31, baseH := v.setWidth 24 }
  | 0x08 =>
    let r1 := if wbit v 30 then r.clearErr else r
    s.setRing i { r1 with en := wbit v 31, log2n := log2nOf r.log2n v }
  | 0x0C => s.doorbell i v
  | _ => s

/-- The register block of head h (18 R352, 20 R376). Writing register 0x14 writes LANES and RATE, so LINKUP clears;
DEADLINE starts from the present when EN is set (DEDUCED, log 29). -/
def State.writeHead (s : State) (h offset : Nat) (v : Word) : State :=
  let x := s.head h
  match offset with
  | 0x00 => s.setHead h { x with base := v }
  | 0x04 => s.setHead h { x with baseH := v.setWidth 20 }
  | 0x08 => s.setHead h { x with root := v }
  | 0x0C => s.setHead h { x with rootH := v.setWidth 8 }
  | 0x10 => s.setHead h { x with size := v }
  | 0x14 =>
    s.setHead h
      { x with
        en := wbit v 31, fmt := wbit v 30, bpc10 := wbit v 29, lanes := (v >>> 4).setWidth 2, rate := v.setWidth 3
        linkUp := false, deadline := if wbit v 31 && !x.en then s.tsc else x.deadline }
  | 0x18 => s.setHead h { x with period := v }
  | 0x1C => s.setHead h { x with under := x.under && !wbit v 0, drop := x.drop && !wbit v 1 }
  | 0x2C => s.setHead h { x with siga := v }
  | 0x30 => s.setHead h { x with sigaH := v.setWidth 20 }
  | _ => s

/-- A notify write of the host: a release at sys scope that covers its earlier writes, which are already performed
(R382). After a thermal trip it sets nothing (R389). -/
def State.hostNotify (s : State) (offset : Nat) (v : Word) : State :=
  let k := (offset - 0x4000) / 64
  if s.power.trip || offset < 0x4000 || 192 ≤ k || offset % 4 != 0 then s else s.notifyOr k (offset % 64 / 4) v

/-- HOST_NOTIFY_WRITE (R382). -/
def execHostNotifyWrite (offset : Nat) (value : Word) (s : State) : Host.Outcome State Fault Refusal :=
  .next (s.hostNotify offset value)

/-- A write of a CXL.io register by its offset. Fields that are read-only or reserved stay as they are; after a
thermal trip registers hold nothing until device reset (22 R389). A write at an offset that is no multiple of 4 is ignored,
as R382 says of the aperture (DESIGN CHOICE, log 43). -/
def State.writeRegister (s : State) (offset : Nat) (v : Word) : State :=
  if offset % 4 != 0 || s.power.trip then s
  else if offset = 0x14 then { s with power := s.power.setCap v }
  else if offset < 0x100 then s.writeLog offset v
  else if offset < 0x900 then s.writeRing ((offset - 0x100) / 32) ((offset - 0x100) % 32) v
  else if offset < 0xA00 then s.writeHead ((offset - 0x900) / 64) ((offset - 0x900) % 64) v
  else if offset < 0x4000 then s.groupTableWrite offset v
  else s.hostNotify offset v

/-- REGISTER_WRITE (R5). -/
def execRegisterWrite (offset : Nat) (value : Word) (s : State) : Host.Outcome State Fault Refusal :=
  .next (s.writeRegister offset value)

/-! ### Reads that clear or latch -/

/-- A corrected error is counted, saturating (R381). -/
def satCount (w : Word) : Word := if w = BitVec.allOnes 32 then w else w + 1

def Status.counter (t : Status) : CeCounter → Word
  | .bank => t.ceBank
  | .slice => t.ceSlice
  | .hbm => t.ceHbm

def Status.setCounter (t : Status) (c : CeCounter) (v : Word) : Status :=
  match c with
  | .bank => { t with ceBank := v }
  | .slice => { t with ceSlice := v }
  | .hbm => { t with ceHbm := v }

/-- CORRECTED_ERROR_COUNT_READ (R381): the read returns the count and clears it. -/
def execCorrectedErrorCountRead (counter : CeCounter) (s : State) : Host.Outcome State Fault Refusal :=
  .next { s with
    hostSaw := bytesOf 4 (s.status.counter counter).toNat
    status := s.status.setCounter counter 0 }

/-- TSL_READ (R385): the read returns the counter's lower half and latches the upper half into TSH. -/
def execTslRead (s : State) : Host.Outcome State Fault Refusal :=
  .next { s with
    hostSaw := bytesOf 4 (s.tsc.toNat % 2 ^ 32)
    status := { s.status with tsh := (s.tsc >>> 32).setWidth 32 } }

/-! ### Reads of registers (00 R5, R6; 22 R380) -/

/-- A word with values at their places. -/
def packed (fields : List (Nat × Nat)) : Word := toWord (fields.foldl (fun n p => n + p.1 * 2 ^ p.2) 0)

def bitOf (b : Bool) : Nat := if b then 1 else 0

/-- The status block (R381). -/
def State.readStatus (s : State) (offset : Nat) : Word :=
  let t := s.status
  match offset with
  | 0x00 => packed [(t.hbm.toNat, 0), (t.clusters.toNat, 8), (t.heads.toNat, 24), (bitOf t.cxl, 28), (bitOf t.fe, 29)]
  | 0x04 => packed [(t.ports.toNat, 0)]
  | 0x08 => s.tsc.setWidth 32
  | 0x0C => t.tsh
  | 0x10 => s.power.word
  | 0x14 => packed [(s.power.cap.toNat, 0)]
  | 0x18 => t.ceBank
  | 0x1C => t.ceSlice
  | 0x20 => t.ceHbm
  | 0x24 => packed [(t.boot.toNat, 0)]
  | _ => 0

/-- The fault log and save pool (13 R289); the doorbell FLACK reads as zero. -/
def FaultLog.read (l : FaultLog) (offset : Nat) : Word :=
  match offset with
  | 0x40 => l.saveBase
  | 0x44 => packed [(l.saveBaseH.toNat, 0)]
  | 0x48 => l.saveLen
  | 0x50 => l.base
  | 0x54 => packed [(l.baseH.toNat, 0), (bitOf l.host, 31)]
  | 0x58 => packed [(l.log2n.toNat, 0), (bitOf l.en, 31)]
  | 0x5C => l.wptr
  | 0x60 => l.rptr
  | _ => 0

/-- The register block of a ring (11 R258). -/
def Ring.read (r : Ring) (offset : Nat) : Word :=
  match offset with
  | 0x00 => r.base
  | 0x04 => packed [(r.baseH.toNat, 0), (bitOf r.host, 31)]
  | 0x08 => packed [(r.log2n.toNat, 0), (bitOf r.err, 30), (bitOf r.en, 31)]
  | 0x0C => r.wptr
  | 0x10 => r.rptr
  | 0x14 => r.done
  | _ => 0

/-- The register block of a head (18 R352; 20 R376; 21 R379). -/
def Head.read (x : Head) (offset : Nat) : Word :=
  match offset with
  | 0x00 => x.base
  | 0x04 => packed [(x.baseH.toNat, 0)]
  | 0x08 => x.root
  | 0x0C => packed [(x.rootH.toNat, 0)]
  | 0x10 => x.size
  | 0x14 => packed [(x.rate.toNat, 0), (x.lanes.toNat, 4), (bitOf x.bpc10, 29), (bitOf x.fmt, 30), (bitOf x.en, 31)]
  | 0x18 => x.period
  | 0x1C => packed [(bitOf x.under, 0), (bitOf x.drop, 1), (bitOf x.linkUp, 31)]
  | 0x20 => x.deadline.setWidth 32
  | 0x24 => (x.deadline >>> 32).setWidth 32
  | 0x28 => x.frames
  | 0x2C => x.siga
  | 0x30 => packed [(x.sigaH.toNat, 0)]
  | 0x34 => x.missing.setWidth 32
  | 0x38 => (x.missing >>> 32).setWidth 32
  | 0x3C => x.lframe
  | _ => 0

/-- An entry of the group table (20 R367). -/
def GroupEntry.read (e : GroupEntry) (offset : Nat) : Word :=
  match offset with
  | 0x0 => packed [(e.gid.toNat, 0), (e.myrank.toNat, 16), (bitOf e.valid, 31)]
  | 0x4 => packed [(e.nrank.toNat, 0)]
  | 0x8 => e.late
  | 0xC => e.seq
  | _ => 0

/-- The fabric number and the group table (20 R367). -/
def State.readFabric (s : State) (offset : Nat) : Word :=
  if offset = 0xA00 then
    match s.fabric.fabid with
    | some n => packed [(n.toNat, 0), (1, 31)]
    | none => 0
  else if offset < 0xA10 || 128 ≤ (offset - 0xA10) / 16 then 0
  else (s.groupEntry ((offset - 0xA10) / 16)).read ((offset - 0xA10) % 16)

/-- What a read of a register returns. Reserved fields, the notify aperture (R382) and offsets at which nothing stands
read as zero, and so does an offset that is no multiple of 4 (DESIGN CHOICE, log 43). -/
def State.readRegister (s : State) (offset : Nat) : Word :=
  if offset % 4 != 0 then 0
  else if offset < 0x40 then s.readStatus offset
  else if offset < 0x100 then s.log.read offset
  else if offset < 0x900 then (s.ringAt ((offset - 0x100) / 32)).read ((offset - 0x100) % 32)
  else if offset < 0xA00 then (s.head ((offset - 0x900) / 64)).read ((offset - 0x900) % 64)
  else if offset < 0x4000 then s.readFabric offset
  else 0

/-- What a read of a register changes: TSL latches the upper half (R385), and an RC counter clears (R381). -/
def State.afterRegisterRead (s : State) (offset : Nat) : State :=
  match offset with
  | 0x08 => { s with status := { s.status with tsh := (s.tsc >>> 32).setWidth 32 } }
  | 0x18 => { s with status := s.status.setCounter .bank 0 }
  | 0x1C => { s with status := s.status.setCounter .slice 0 }
  | 0x20 => { s with status := s.status.setCounter .hbm 0 }
  | _ => s

/-! ### Memory (07 R166, 12 R263, R268) -/

/-- An access of n bytes lies in one line. -/
def inLine (pa n : Nat) : Bool := n != 0 && pa / 128 == (pa + n - 1) / 128

/-- A host access over CXL.mem may perform: CXL is ready and so is the stack of its line (R383). -/
def State.hostReady (s : State) (pa n : Nat) : Bool :=
  s.status.cxl && decide (pa + n ≤ deviceEnd) && inLine pa n && s.status.hbm.getLsbD (stackOf pa)

/-- HOST_MEM_ACCESS (R166): an access to one line of device memory performs in the slice's write queue, at the device
point. A read of a register returns its word (00 R5). -/
def execHostMemAccess (access : HostAccess) (s : State) : Host.Outcome State Fault Refusal :=
  match access with
  | .read pa n =>
    if s.hostReady pa n then .next { s with hostSaw := (s.engineRead (s.compAt (physKey false pa)) (physKey false pa) n).1 }
    else .next s
  | .write pa bs => if s.hostReady pa bs.length then .next (s.frontWrite false pa bs) else .next s
  | .register offset =>
    .next { s.afterRegisterRead offset with hostSaw := bytesOf 4 (s.readRegister offset).toNat }

/-- HOST_WRITE_TO_HOST_LINE (R263): a host write to a line of host memory performs at the system point, where every
device-point copy is. -/
def execHostWriteToHostLine (addr : Nat) (data : List Byte) (s : State) : Host.Outcome State Fault Refusal :=
  if inLine addr data.length && decide (addr + data.length ≤ 2 ^ 56) then .next (s.frontWrite true addr data) else .next s

end Sys2Proof.Machine
end

