-- ==== Sys2Proof/Machine/LaneCross.lean ====
section
/-!
DEFINITION. Lane crossing: shuffles, votes and the differences of quads (05 R126-R128). All reads come
first: sources are read from the group as it was.
-/
namespace Sys2Proof.Machine

/-- Whether a fibre index is active. -/
def Group.isActive (x : Group) (i : Nat) : Bool := x.active.getLsbD i

/-- A shuffle: `j` answers the source index of index i for count k, or none where it is below 0. -/
def shuffle (j : Nat → Nat → Option Nat) : LaneBody := fun d a b =>
  checked { laneR := [a, b], laneW := [d] } fun s g x =>
    okGroup s g (x.eachLane fun y i =>
      let own := x.reg i a
      y.setReg i d (match j i (x.reg i b).toNat with
        | none => own
        | some j => if j < x.width && x.isActive j then x.reg j a else own))

/-- The active lanes whose V[a] is not 0. -/
def Group.votes (x : Group) (a : Nat) : List Nat := (lanesOf x.active).filter fun i => x.reg i a != 0

/-- `vote.any` and `vote.all`. -/
def vote (f : Group → List Nat → Bool) : LaneBody := fun d a _ =>
  checked { laneR := [a], laneW := [d] } fun s g x =>
    okGroup s g (x.eachLane fun y i => y.setReg i d (truth (f x (x.votes a))))

/-- The quad difference: `p` and `q` answer the minuend and subtrahend index of index i. -/
def quadDiff (p q : Nat → Nat) : LaneBody := fun d a _ =>
  checked { laneR := [a], laneW := [d] } fun s g x =>
    okGroup s g (x.eachLane fun y i =>
      if x.isActive (p i) && x.isActive (q i) then y.result i d (fSub (x.reg (p i) a) (x.reg (q i) a))
      else y.setReg i d 0x7FC00000)

def bodyShflIdx : LaneBody := shuffle fun _ k => some k
def bodyShflXor : LaneBody := shuffle fun i k => some (i ^^^ k)
def bodyShflUp : LaneBody := shuffle fun i k => if k ≤ i then some (i - k) else none
def bodyShflDn : LaneBody := shuffle fun i k => some (i + k)
def bodyVoteAny : LaneBody := vote fun _ l => !l.isEmpty
def bodyVoteAll : LaneBody := vote fun x l => l.length == (lanesOf x.active).length
def bodyQdxC : LaneBody := quadDiff (fun i => i / 4 * 4 + 1) (fun i => i / 4 * 4)
def bodyQdxF : LaneBody := quadDiff (fun i => i / 4 * 4 + i % 4 / 2 * 2 + 1) (fun i => i / 4 * 4 + i % 4 / 2 * 2)
def bodyQdyC : LaneBody := quadDiff (fun i => i / 4 * 4 + 2) (fun i => i / 4 * 4)
def bodyQdyF : LaneBody := quadDiff (fun i => i / 4 * 4 + i % 2 + 2) (fun i => i / 4 * 4 + i % 2)

/-- `vote.ballot`: the register pair d, d + 1 (R127). -/
def bodyVoteBallot : LaneBody := fun d a _ =>
  checked { laneR := [a], laneW := [d, d + 1] } fun s g x =>
    let m := maskOf (x.votes a)
    okGroup s g (x.eachLane fun y i => y.setRegs i d [m.setWidth 32, (m >>> 32).setWidth 32])

/-! ### Meanings -/

/-- `shfl.idx` (R126). -/
def execShflIdx (o : Regs3) (s : State) : Host.Outcome State Fault Refusal := crossWord3 bodyShflIdx o s

/-- `shfl.xor` (R126). -/
def execShflXor (o : Regs3) (s : State) : Host.Outcome State Fault Refusal := crossWord3 bodyShflXor o s

/-- `shfl.up` (R126). -/
def execShflUp (o : Regs3) (s : State) : Host.Outcome State Fault Refusal := crossWord3 bodyShflUp o s

/-- `shfl.dn` (R126). -/
def execShflDn (o : Regs3) (s : State) : Host.Outcome State Fault Refusal := crossWord3 bodyShflDn o s

/-- `vote.any` (R127). -/
def execVoteAny (o : Regs2) (s : State) : Host.Outcome State Fault Refusal := crossWord2 bodyVoteAny o s

/-- `vote.all` (R127). -/
def execVoteAll (o : Regs2) (s : State) : Host.Outcome State Fault Refusal := crossWord2 bodyVoteAll o s

/-- `vote.ballot` (R127). -/
def execVoteBallot (o : Regs2) (s : State) : Host.Outcome State Fault Refusal := crossWord2 bodyVoteBallot o s

/-- `qdx.c` (R128). -/
def execQdxC (o : Regs2) (s : State) : Host.Outcome State Fault Refusal := crossWord2 bodyQdxC o s

/-- `qdx.f` (R128). -/
def execQdxF (o : Regs2) (s : State) : Host.Outcome State Fault Refusal := crossWord2 bodyQdxF o s

/-- `qdy.c` (R128). -/
def execQdyC (o : Regs2) (s : State) : Host.Outcome State Fault Refusal := crossWord2 bodyQdyC o s

/-- `qdy.f` (R128). -/
def execQdyF (o : Regs2) (s : State) : Host.Outcome State Fault Refusal := crossWord2 bodyQdyF o s

end Sys2Proof.Machine
end

