-- ==== Sys2Proof/Machine/Image.lean ====
section
/-!
DEFINITION. Images and samplers (18 R348-R351): image and sampler records, texels, levels and taps, and the five
instructions that read or write images.
-/
namespace Sys2Proof.Machine

/-! ### Records -/

/-- An image record (R348). -/
structure ImgRec where
  base : Nat
  fmt : Nat
  lvl : Nat
  w : Nat
  h : Nat
  deriving DecidableEq, Repr

/-- The image record of four words, and whether it is valid. (DEDUCED, log 15.) -/
def imgRec (ws : List Word) : ImgRec × Bool :=
  let i := fun n => nth ws n 0
  let w := wbits (i 2) 15 0
  let h := wbits (i 2) 31 16
  let r : ImgRec :=
    { base := (i 0).toNat + wbits (i 1) 19 0 * 2 ^ 32, fmt := wbits (i 1) 31 28, lvl := wbits (i 1) 27 24, w := w, h := h }
  (r, decide (r.fmt ≤ 3) && wbits (i 1) 23 20 == 0 && i 3 == 0 && r.base % 64 == 0 && w != 0 && h != 0
    && decide (r.lvl ≤ Nat.log2 (max w h)))

def ImgRec.bpp (r : ImgRec) : Nat := if r.fmt = 0 then 8 else 4
def ImgRec.width (r : ImgRec) (l : Nat) : Nat := max 1 (r.w / 2 ^ l)
def ImgRec.height (r : ImgRec) (l : Nat) : Nat := max 1 (r.h / 2 ^ l)
def ImgRec.pitch (r : ImgRec) (l : Nat) : Nat := (r.width l * r.bpp + 63) / 64 * 64

/-- The virtual address of texel (i, j) of level l. -/
def ImgRec.texelVa (r : ImgRec) (l i j : Nat) : Nat :=
  (r.base + (List.range l).foldl (fun a k => a + r.height k * r.pitch k) 0 + j * r.pitch l + i * r.bpp) % 2 ^ 52

/-- A value of a channel, with NaN made canonical. -/
def canonical (x : FNum) : FNum := if x.isNan then .nan false else x

/-- The channels R, G, B and A of a texel, from its bytes as a number. -/
def ImgRec.channels (r : ImgRec) (v : Nat) : List FNum :=
  let zero := FNum.fin false 0 0
  let one := FNum.fin false 1 0
  let half := fun k => canonical (f16.decode (field v (16 * k + 15) (16 * k)))
  let unorm := fun k => f32.decode (f32.round .rn 0 false (field v (8 * k + 7) (8 * k)) 255 0).1
  match r.fmt with
  | 0 => [half 0, half 1, half 2, half 3]
  | 1 => [unorm 0, unorm 1, unorm 2, unorm 3]
  | 2 => [canonical (f32.decode (v % 2 ^ 32)), zero, zero, one]
  | _ => [half 0, half 1, zero, one]

/-- A sampler record (R349). -/
structure SmpRec where
  au : Nat
  av : Nat
  lin : Bool
  mip : Nat
  bias : Int
  minLod : Nat
  maxLod : Nat
  deriving DecidableEq, Repr

/-- The sampler record of four words, and whether it is valid. -/
def smpRec (ws : List Word) : SmpRec × Bool :=
  let i := fun n => nth ws n 0
  let r : SmpRec :=
    { au := wbits (i 0) 1 0, av := wbits (i 0) 3 2, lin := wbit (i 0) 4, mip := wbits (i 0) 6 5
      bias := sxNat (wbits (i 1) 15 0) 16, minLod := wbits (i 2) 15 0, maxLod := wbits (i 2) 31 16 }
  (r, r.au != 3 && r.av != 3 && r.mip != 3 && wbits (i 0) 31 7 == 0 && wbits (i 1) 31 16 == 0 && i 3 == 0
    && decide (r.minLod ≤ r.maxLod))

/-! ### Levels and taps (R350) -/

/-- The nearest integer, ties to even, of x · k + b; an infinity is a bound that every clamp meets. None for NaN. -/
def nearestOf (x : FNum) (k : Nat) (b : Int) : Option Int :=
  match x with
  | .nan _ => none
  | .inf n => some (if n then -(2 ^ 60) else 2 ^ 60)
  | .fin n m e =>
    let t := finAdd n (m * k) e (decide (b < 0)) b.natAbs 0
    some (toInteger .rn t.1 t.2.1 t.2.2).1

/-- round_ne(exact((a · w)² + (b · h)²)); none for NaN. -/
def sizeSquared (a b : Word) (w h : Nat) : Option Word :=
  match fval a, fval b with
  | .nan _, _ => none
  | _, .nan _ => none
  | .fin _ m1 e1, .fin _ m2 e2 =>
    let t := finAdd false ((m1 * w) ^ 2) (2 * e1) false ((m2 * h) ^ 2) (2 * e2)
    some (toWord (f32.round .rn 0 false t.2.1 1 t.2.2).1)
  | _, _ => some (toWord f32.infCode)

/-- Λ before its clamp, from derivatives; none where it is MINLOD. (DEDUCED, log 14.) -/
def lodOf (r : SmpRec) (w h : Nat) (ux vx uy vy : Word) : Option Int :=
  match sizeSquared ux vx w h, sizeSquared uy vy w h with
  | some px, some py => nearestOf (f32.decode (numLg2 (fval (if wordLess px py then py else px))).1) 128 r.bias
  | _, _ => none
where
  wordLess (a b : Word) : Bool := (fval a).lt (fval b)

/-- The levels of an access, with their weights, for a clamped Λ. -/
def levelsFor (mip lod : Nat) : List (Nat × Nat) :=
  match mip with
  | 0 => [(0, 256)]
  | 1 => [((lod + 128) / 256, 256)]
  | _ => if lod % 256 = 0 then [(lod / 256, 256)] else [(lod / 256, 256 - lod % 256), (lod / 256 + 1, lod % 256)]

/-- A coordinate under an address mode; none is the border. -/
def mapCoord (mode size : Nat) (i : Int) : Option Nat :=
  match mode with
  | 0 => some (i % (size : Int)).toNat
  | 1 => some (clamp i 0 ((size : Int) - 1)).toNat
  | _ => if 0 ≤ i ∧ i < size then some i.toNat else none

/-- A tap: the virtual address of its texel, none at the border, and ω · 2^24. -/
structure Tap where
  va : Option Nat
  omega : Nat
  deriving DecidableEq, Repr

/-- X or Y of a level. -/
def texelCoord (u : Word) (size : Nat) : Int :=
  match nearestOf (fval u) (size * 256) 0 with
  | some x => clamp x (-(2 ^ 31)) (2 ^ 31 - 1)
  | none => 0

/-- The taps of one level, in order. -/
def levelTaps (img : ImgRec) (r : SmpRec) (u v : Word) (l lw : Nat) : List Tap :=
  let w := img.width l
  let h := img.height l
  let x := texelCoord u w
  let y := texelCoord v h
  let tap := fun (i j : Int) (weight : Nat) =>
    let va := match mapCoord r.au w i, mapCoord r.av h j with
      | some i, some j => some (img.texelVa l i j)
      | _, _ => none
    ({ va := va, omega := weight * lw } : Tap)
  if r.lin then
    let x := x - 128
    let y := y - 128
    let i := x / 256
    let j := y / 256
    let f := (x % 256).toNat
    let g := (y % 256).toNat
    [tap i j ((256 - f) * (256 - g)), tap (i + 1) j (f * (256 - g)), tap i (j + 1) ((256 - f) * g), tap (i + 1) (j + 1) (f * g)]
  else [tap (x / 256) (y / 256) 65536]

/-- The taps that are read or lie on the border, those with ω = 0 left out. -/
def tapsOf (img : ImgRec) (r : SmpRec) (u v : Word) (lod : Nat) : List Tap :=
  ((levelsFor r.mip lod).flatMap fun p => levelTaps img r u v p.1 p.2).filter fun t => t.omega != 0

/-- s plus a texel channel times ω, rounded once; NaN is canonical. -/
def accumulate (s : Nat) (texel : FNum) (omega : Nat) : Nat :=
  (f32.fmaNum texel (.fin false omega (-24)) (f32.decode s)).1

/-! ### Finding texels (R154, R348) -/

/-- Step 6 of R154 for a texel: image bytes lie in untyped pages. -/
def findTexel (s : State) (ls : Lines) (root : Nat) (k : AccessKind) (e : Elem) : Found × Lines × State :=
  match s.translateLine ls root e.va k with
  | (.page p, t) =>
    if p.fmt != 0 || p.inDescriptors e.va then (.fault .format e.lane e.va e.va, t)
    else (.loc { e := e, page := p, typed := false, scale := none }, t)
  | (x, t) => (e.faultOf e.va x, t)

def findTexels (root : Nat) (k : AccessKind) : List Elem → Lines → State → List Found × State
  | [], _, s => ([], s)
  | e :: t, ls, s =>
    let f := findTexel s ls root k e
    let l := findTexels root k t f.2.1 f.2.2
    (f.1 :: l.1, l.2)

/-- The common course of an access to texels. -/
def texelAccess (k : AccessKind) (es : List Elem) (s : State) (x : Group)
    (go : State → List Found → Step6 → Done) : Done :=
  let f := findTexels (s.rootOf x) k (byLine es) [] s
  match step6 s x f.1 with
  | .trap t => .trapAt f.2 t
  | st => go f.2 f.1 st

/-! ### smp, smpd and smpl -/

/-- The three forms. -/
inductive SmpForm where
  | quad | deriv | level
  deriving DecidableEq, Repr

def SmpForm.count : SmpForm → Nat
  | .quad => 2
  | .deriv => 6
  | .level => 3

/-- A coarse difference of a quad (05 R128). -/
def coarse (x : Group) (l r far : Nat) : Word :=
  let p := l / 4 * 4
  if x.isActive (p + far) && x.isActive p then (fSub (x.reg (p + far) r) (x.reg p r)).1 else 0x7FC00000

/-- Λ of a lane. Where MINLOD exceeds the upper bound of the clamp it is free: the spec states no result. -/
def lodFor (s : State) (x : Group) (form : SmpForm) (img : ImgRec) (r : SmpRec) (a l : Nat) : Nat :=
  let v := fun j => x.reg l (a + j)
  let raw := match form with
    | .quad => lodOf r img.w img.h (coarse x l a 1) (coarse x l (a + 1) 1) (coarse x l a 2) (coarse x l (a + 1) 2)
    | .deriv => lodOf r img.w img.h (v 2) (v 3) (v 4) (v 5)
    | .level => nearestOf (fval (v 2)) 256 r.bias
  let top := min r.maxLod (256 * img.lvl)
  if top < r.minLod then wbits (Config.freeWord (s.free + l)) 15 0
  else
    match raw with
    | none => r.minLod
    | some i => (clamp i r.minLod top).toNat

/-- One lane of a sample: its taps are read and summed. -/
def sampleLane (g : Nat) (x : Group) (img : ImgRec) (fs : List Found) (taps : Nat → List Tap) (d : Nat) (s : State)
    (l : Nat) : State :=
  if laneFaults fs l then s.modGroup g fun y => y.setRegs l d (List.replicate 4 poison)
  else
    let s0 := s.modGroup g fun y => y.setPend l d 4 .load
    let ls := locsOf fs l
    let got := fun j => (ls.find? fun q => q.e.j == j).map fun q => s0.loadElem x.core (some g) (2 * img.bpp) q
    let ts := (taps l).zipIdx.map fun t => (t.1, got t.2)
    let texel := fun (o : Option Got) => match o with
      | some q => img.channels (ofBytes (bytesOfWords q.ws))
      | none => List.replicate 4 (FNum.fin false 0 0)
    let chan := fun c => ts.foldl (fun a t => accumulate a (nth (texel t.2) c (.fin false 0 0)) t.1.omega) 0
    let gots := ts.filterMap Prod.snd
    let s1 := s0.modGroup g fun y => y.addTags (gots.flatMap Got.tags)
    s1.loadResult g x l d ((List.range 4).map fun c => toWord (chan c)) (badOf gots).isSome 8
      (paWords (badOf gots))

/-- A sample instruction. -/
def bodySmp (form : SmpForm) : LaneBody := fun d a b =>
  aligned [b] <|
    checked { laneR := (List.range form.count).map (a + ·), laneW := (List.range 4).map (d + ·)
              uniR := (List.range 8).map (b + ·) } fun s g x =>
      let img := imgRec ((List.range 4).map fun j => x.uni (b + j))
      let smp := smpRec ((List.range 4).map fun j => x.uni (b + 4 + j))
      if !img.2 || !smp.2 then illegal s
      else
        let free := min smp.1.maxLod (256 * img.1.lvl) < smp.1.minLod
        let taps := fun l => tapsOf img.1 smp.1 (x.reg l a) (x.reg l (a + 1)) (lodFor s x form img.1 smp.1 a l)
        let es := (lanesOf x.active).flatMap fun l => (taps l).zipIdx.filterMap fun t =>
          t.1.va.map fun va => ({ lane := l, j := t.2, va := va, hi := false } : Elem)
        let s0 := if free then { s with free := s.free + 64 } else s
        texelAccess .read es s0 x fun s fs st =>
          let (y, s0) := s.loadPages x fs st
          let s1 := (s0.setGroup g y).settleOwn g ((allLocs fs).flatMap (Loc.keys (2 * img.1.bpp)))
          .ok ((lanesOf x.active).foldl (sampleLane g y img.1 fs taps d) s1)

/-- `smp` (R350). -/
def execSmp (o : Regs3) (s : State) : Host.Outcome State Fault Refusal :=
  stepWord true o.park (bodySmp .quad o.d.toNat o.a.toNat o.b.toNat) s

/-- `smpd` (R350). -/
def execSmpd (o : Regs3) (s : State) : Host.Outcome State Fault Refusal :=
  stepWord true o.park (bodySmp .deriv o.d.toNat o.a.toNat o.b.toNat) s

/-- `smpl` (R350). -/
def execSmpl (o : Regs3) (s : State) : Host.Outcome State Fault Refusal :=
  stepWord true o.park (bodySmp .level o.d.toNat o.a.toNat o.b.toNat) s

/-! ### ldimg and stimg (R351) -/

/-- The texel of a lane; none outside the image, where a level word with other bits set also lies. -/
def laneTexel (img : ImgRec) (x : Group) (a l : Nat) : Option Nat :=
  let i := wbits (x.reg l a) 15 0
  let j := wbits (x.reg l a) 31 16
  let lv := wbits (x.reg l (a + 1)) 3 0
  if wbits (x.reg l (a + 1)) 31 4 = 0 ∧ lv ≤ img.lvl ∧ i < img.width lv ∧ j < img.height lv then
    some (img.texelVa lv i j)
  else none

/-- The record and format checks of an image access, and its elements. (DEDUCED, log 15.) -/
def imageAccess (k : AccessKind) (n a b : Nat) (go : State → Nat → Group → List Found → Step6 → Done) : Body :=
  fun s g x =>
    let img := imgRec ((List.range 4).map fun j => x.uni (b + j))
    if !img.2 then illegal s
    else if 4 * n != img.1.bpp then .trap { cause := .format, ops := [s.word] }
    else
      let es := (x.participants (k == .read)).filterMap fun l =>
        (laneTexel img.1 x a l).map fun va => ({ lane := l, j := 0, va := va, hi := false } : Elem)
      texelAccess k es s x fun s fs st => go s g x fs st

/-- One lane of `ldimg`. -/
def ldimgLane (g : Nat) (x : Group) (fs : List Found) (d n : Nat) (s : State) (l : Nat) : State :=
  if laneFaults fs l then s.modGroup g fun y => y.setRegs l d (List.replicate n poison)
  else
    let s0 := s.modGroup g fun y => y.setPend l d n .load
    match locsOf fs l with
    | [] => s0.addResult g x (some l) d (List.replicate n 0)
    | q :: _ =>
      let v := s0.loadElem x.core (some g) (8 * n) q
      (s0.modGroup g fun y => y.addTags v.tags).loadResult g x l d v.ws v.bad.isSome 8 (paWords v.bad)

/-- `ldimg`. -/
def bodyLdimg (n : Nat) : LaneBody := fun d a b =>
    checked { laneR := [a, a + 1], laneW := (List.range n).map (d + ·), uniR := (List.range 4).map (b + ·) }
      (imageAccess .read n a b fun s g x fs st =>
        let (y, s0) := s.loadPages x fs st
        let s1 := (s0.setGroup g y).settleOwn g ((allLocs fs).flatMap (Loc.keys (8 * n)))
        .ok ((lanesOf x.active).foldl (ldimgLane g y fs d n) s1))

/-- `stimg`. A speculative store is discarded after its translation (R164). -/
def bodyStimg (n : Nat) : LaneBody := fun d a b =>
    checked { laneR := [a, a + 1] ++ (List.range n).map (d + ·), uniR := (List.range 4).map (b + ·) }
      (imageAccess .write n a b fun s g x fs st =>
        match st with
        | .absent f => okGroup (s.checkpoint x) g (x.withPages f fs true)
        | _ =>
          if x.runAhead.isSome then .ok s
          else
            let s1 := s.settleOwn g ((allLocs fs).flatMap Loc.scaleKeys)
            .ok ((allLocs fs).foldl (fun s q =>
              s.storeCode x.core g (8 * n) q (ofBytes (bytesOfWords (x.regList q.e.lane d n)))) s1))

/-- `ldimg` (R351). -/
def execLdimg (o : MemOp) (s : State) : Host.Outcome State Fault Refusal :=
  stepWord true o.park (bodyLdimg (sizeRegs o.size) o.d.toNat o.a.toNat o.b.toNat) s

/-- `stimg` (R351). -/
def execStimg (o : MemOp) (s : State) : Host.Outcome State Fault Refusal :=
  stepWord true o.park (bodyStimg (sizeRegs o.size) o.d.toNat o.a.toNat o.b.toNat) s

end Sys2Proof.Machine
end

