-- ==== Sys2Proof/Machine/Issue.lean ====
section
/-!
DEFINITION. Two events of issue: the fate of a word that decodes to nothing (03 R67), and the yield of a
subset at its bound (02 R32).
-/
namespace Sys2Proof.Machine

/-- UNASSIGNED_WORD (R67): the word raises ILLEGAL at its own address and does nothing else. -/
def execUnassignedWord (w : Word) (s : State) : Host.Outcome State Fault Refusal :=
  runWord false (fun s _ _ => s) (fun _ _ _ => .trap { cause := .illegal, ops := [w] }) s

/-- SUBSET_YIELD (R32): the current subset becomes a waiting subset, and the eligible subset that has waited
longest becomes current with a fresh count. -/
def execSubsetYield (g : Nat) (s : State) : Host.Outcome State Fault Refusal :=
  match s.group? g with
  | none => .next s
  | some x => if x.yieldDue then .next (s.yieldTo g) else .next s

end Sys2Proof.Machine
end

