-- ==== Sys2Proof/Machine/Power.lean ====
section
/-!
DEFINITION. Readiness, the time-stamp counter, power and clock steps, reset and the thermal trip (22 R383-R389).
-/
namespace Sys2Proof.Machine

/-! ### Readiness (R383, R384) -/

/-- CXL and every stack are ready. -/
def Status.baseReady (t : Status) : Bool := t.cxl && t.hbm == BitVec.allOnes 8

def setBit {n : Nat} (v : BitVec n) (i : Nat) : BitVec n := v ||| BitVec.twoPow n i

/-- FUNCTION_READY (R383): a function's bit sets. A cluster, a head and the front end come after CXL and every stack, and
the front end after its firmware was verified (R387). After a trip no bit sets. -/
def execFunctionReady (f : DevFunction) (s : State) : Host.Outcome State Fault Refusal :=
  let t := s.status
  if s.power.trip then .next s
  else
    match f with
    | .hbm i => .next { s with status := { t with hbm := setBit t.hbm i } }
    | .cxl => .next { s with status := { t with cxl := true } }
    | .cluster i => if t.baseReady then .next { s with status := { t with clusters := setBit t.clusters i } } else .next s
    | .head i => if t.baseReady then .next { s with status := { t with heads := setBit t.heads i } } else .next s
    | .frontEnd => if t.baseReady && t.boot == 1 then .next { s with status := { t with fe := true } } else .next s

/-! ### The counter (R386) -/

/-- TIME_STAMP_DISCIPLINE (R386): in one tick of 1,024 the counter advances by 0 when it is ahead of the switch, or by 2.
(DEDUCED, log 35.) -/
def execTimeStampDiscipline (ahead : Bool) (s : State) : Host.Outcome State Fault Refusal :=
  if s.status.ports.getLsbD 0 && decide (1023 ≤ s.status.sinceAdjust) then
    .next { s with
      tsc := if ahead then s.tsc else s.tsc + 2
      status := { s.status with sinceAdjust := 0 } }
  else .next s

/-! ### Power and clock steps (R388, R389) -/

/-- POWER_THERMAL_LIMIT (R389): what the sensors report. -/
def execPowerThermalLimit (r : PowerReading) (s : State) : Host.Outcome State Fault Refusal :=
  .next { s with power := { s.power with
    overPower := r.overPower, hot := r.overTemp, low := r.powerBelowStepUp && !r.overPower
    cool := r.tempBelowStepUp && !r.overTemp } }

/-- CLOCK_STEP_DOWN (R389). -/
def execClockStepDown (s : State) : Host.Outcome State Fault Refusal :=
  let p := s.power
  if (p.overPower || p.hot || decide (p.cap.toNat < p.mhz.toNat)) && decide (200 < p.mhz.toNat) && !p.trip then
    .next { s with power := { p with mhz := p.mhz - 50 } }
  else .next s

/-- CLOCK_STEP_UP (R389). -/
def execClockStepUp (s : State) : Host.Outcome State Fault Refusal :=
  let p := s.power
  if p.low && p.cool && decide (p.mhz.toNat < p.cap.toNat) && !p.trip then
    .next { s with power := { p with mhz := p.mhz + 50 } }
  else .next s

/-- What neither a trip nor a reset takes away: memory, and the model's own bookkeeping (log 3, 4). -/
def State.afterLoss (s : State) (keep : Nat → Bool) : State :=
  { State.reset with
    schedule := s.schedule, free := s.free, nextId := s.nextId, compPages := s.compPages
    mem := s.mem.filter fun p => keep p.1
    errors := s.errors.filter fun e => keep (8 * e) }

/-- THERMAL_TRIP (R389): the device stops and TRIP is set. Every readiness bit but CXL clears, and state other than
device memory is lost; what it then holds, until device reset, no agent of the device can act on (DEDUCED, log 30). -/
def execThermalTrip (s : State) : Host.Outcome State Fault Refusal :=
  let s1 := s.afterLoss fun k => !isBankKey k
  .next { s1 with
    tsc := s.tsc
    power := { s1.power with trip := true }
    status := { s1.status with cxl := s.status.cxl } }

/-- DEVICE_RESET (R387): every register takes its reset value, and the boot ROM starts. Device memory and host memory
keep their bytes (DEDUCED, log 30). -/
def execDeviceReset (s : State) : Host.Outcome State Fault Refusal :=
  .next (s.afterLoss fun k => !isBankKey k)

end Sys2Proof.Machine
end

