-- ==== Sys2Proof/Machine/Preempt.lean ====
section
/-!
DEFINITION. Pre-emption (11 R251; 13 R291-R294), and the save and restore of a block that moves (11 R259).
-/
namespace Sys2Proof.Machine

/-! ### The request (R251) -/

/-- 300 µs in ticks (22 R385). -/
def preemptWindow : Nat := 300000

/-- Whether the time lies in the window of a head's next deadline. -/
def State.inWindow (s : State) (h : Nat) : Bool :=
  let d := (s.head h).deadline.toNat
  (s.head h).en && decide (d ≤ s.tsc.toNat + preemptWindow) && decide (s.tsc.toNat < d)

/-- The class of a block (11 R243). -/
def State.classOf (s : State) (b : Block) : Nat :=
  match Tab.get s.launches b.launch with
  | some l => l.record.cls
  | none => 0

/-- Whether an entry names a core. -/
def namesCore (e : Word) (core : Nat) : Bool :=
  if entryCl e then clusterOf core == entryCore e else decide (entryCore e ≤ core) && decide (core < entryCore e + entryCores e)

/-- The machine as it will stand when a block has left its cores and its banks are free. -/
def State.without (s : State) (id : Nat) (b : Block) : State :=
  let s1 := b.slots.foldl (fun (s : State) q => match q.bank? with
    | some k => s.setBankSt k .free
    | none => s) s
  { s1.modBlock id fun b => { b with seats := [] } with groups := s1.groups.filter fun p => p.2.block != id }

/-- A bank that is on its way to the pool, or being cleared there. -/
def State.comes (s : State) (k : Nat) : Bool :=
  s.bankSt k != .free && (s.bankSt k != .held || s.drains.any fun d => d.bank == k && d.give.isNone)

/-- Whether a waiting block will find room once the blocks that yield to it have left, and the banks that are on their way
to the pool are cleared. -/
def State.willFit (s : State) (id : Nat) (b : Block) : Bool :=
  let coming := ((List.range 96).map (96 * entryCluster b.target + ·)).filter s.comes
  let s1 := coming.foldl (fun (s : State) k => s.setBankSt k .free) s
  let s2 := (s.blocks.filter fun p => p.2.yieldsTo == some id).foldl (fun s p => s.without p.1 p.2) s1
  (s2.reserve id b fun _ => true).isSome

/-- The blocks that a waiting block may pre-empt: lower classes on the cores it names. -/
def State.victims (s : State) (b : Block) : List (Nat × Block) :=
  s.blocks.filter fun p => p.2.phase == .running && p.2.reserved.isEmpty && decide (0 < s.classOf p.2)
    && p.2.cores.any (namesCore b.target)

/-- Background before normal before interactive; within a class the most recently started first. -/
def State.yieldsBefore (s : State) (a b : Block) : Bool :=
  lexLess [3 - s.classOf a, s.nextId - a.started] [3 - s.classOf b, s.nextId - b.started]

/-- A block stops at its next instruction boundary: a run-ahead is rolled back first (R293, R294). -/
def State.stopBlock (s : State) (id : Nat) (winner : Option Nat) : State :=
  let s1 := s.modBlock id fun b => { b with phase := .stopping, yieldsTo := winner }
  let s2 : State := { s1 with groups := s1.groups.map fun p => if p.2.block = id then (p.1, p.2.stopRunAhead) else p }
  s2.schedWake ((s.block? id).toList.flatMap Block.cores)

/-- PREEMPT_REQUEST (R251): in the window of its head's deadline a waiting display-deadline block pre-empts one
more block, the next in order, as long as it needs one. -/
def execPreemptRequest (block victim : Nat) (s : State) : Host.Outcome State Fault Refusal :=
  match s.block? block, s.block? victim with
  | some b, some v =>
    let l := Tab.getD s.launches b.launch (newLaunch s { record := launchRec [], map := [], reason := 0, place := 0, lost := none } 0 0 0 0)
    let cand := s.victims b
    let first := cand.all fun p => p.1 == victim || !s.yieldsBefore p.2 v
    if b.phase = .waiting ∧ l.record.cls = 0 ∧ s.inWindow l.record.head ∧ cand.any (fun p => p.1 == victim) ∧ first
        ∧ !s.willFit block b then
      .next (s.stopBlock victim (some block))
    else .next s
  | _, _ => .next s

/-! ### Banks of a saved block -/

/-- The number that stands for image k of a block's save area wherever a bank number is kept. -/
def imageBank (id k : Nat) : Nat := 2 ^ 20 + 16 * id + k

/-- A key in a bank, moved to where the bank's bytes are now. -/
def moveKey (f : Nat → Nat) (key : Nat) : Nat := key - keyBank key * 2 ^ 19 + f (keyBank key) * 2 ^ 19

/-- A subset that the matrix scoreboard holds names the locations where their bytes are now. -/
def moveSubset (f : Nat → Nat) (u : Subset) : Subset :=
  match u.wait with
  | .matrix h => { u with wait := .matrix { h with entries := h.entries.map (moveKey f) } }
  | _ => u

def moveGroup (f : Nat → Nat) (x : Group) : Group :=
  { x with waiting := x.waiting.map (moveSubset f), current := x.current.map (moveSubset f) }

def moveCopy (f : Nat → Nat) (c : CopyCmd) : CopyCmd :=
  { c with
    bank := f c.bank, barBank := f c.barBank, listBank := f c.listBank, banks := c.banks.map f
    ring := c.ring.map (moveKey f) }

def moveSet (f : Nat → Nat) (c : CvSet) : CvSet :=
  { c with regions := c.regions.map fun p => (f p.1, p.2), aBank := f c.aBank, barBank := c.barBank.map f }

/-- A barrier's bank with its generation: a stale one stays. -/
def State.moveBar (s : State) (f : Nat → Nat) (bank : Nat) (gen : BitVec 8) : Nat × BitVec 8 :=
  if f bank = bank ∨ s.gen bank ≠ gen then (bank, gen) else (f bank, s.gen (f bank))

def State.moveDrain (s : State) (f : Nat → Nat) (d : Drain) : Drain :=
  let b := s.moveBar f d.barBank d.barGen
  { d with barBank := b.1, barGen := b.2 }

def State.moveSlot (s : State) (f : Nat → Nat) (q : Slot) : Slot :=
  match q.st with
  | .reserved e bar k gen a c =>
    let b := s.moveBar f k gen
    { q with st := .reserved e bar b.1 b.2 a c }
  | _ => q

/-- Everything of a block that names a bank names another one. -/
def State.moveBanks (s : State) (id : Nat) (f : Nat → Nat) : State :=
  { s with
    groups := s.groups.map fun p => if p.2.block = id then (p.1, moveGroup f p.2) else p
    blocks := s.blocks.map fun p => if p.1 = id then
        (p.1, { p.2 with
          slots := p.2.slots.map (s.moveSlot f), cvs := p.2.cvs.map fun c => (c.1, moveSet f c.2)
          arrivals := p.2.arrivals.map (s.moveDrain f), saved := p.2.saved.map fun x => (x.1, moveGroup f x.2) })
      else p
    copies := s.copies.map fun p => if p.2.org.block = id then (p.1, moveCopy f p.2) else p
    rays := s.rays.map fun p =>
      if p.2.org.block = id ∧ p.2.op = .ray then (p.1, { p.2 with record := moveKey f p.2.record }) else p
    drains := s.drains.map fun d => match d.give with
      | some (rb, _, _) => if rb = id then s.moveDrain f d else d
      | none => d }

/-- The offset of BNK in a block's area. -/
def State.bnkOf (s : State) (b : Block) : Nat :=
  match Tab.get s.launches b.launch with
  | some l => areaBnk l.record l.record.blockGroups
  | none => 0

/-- The front end as the sender of what it does for a block. -/
def Block.frontOrigin (b : Block) (id : Nat) : Origin :=
  let core := match b.cores with
    | c :: _ => c
    | [] => 0
  { group := 0, num := 0, block := id, core := core, resident := b.residentOn core }

/-- A bank of a block is saved: copied to BNK and then released (R293 step 6). Slot number k of the block keeps image k. -/
def State.saveBank (s : State) (id k : Nat) : State :=
  match s.block? id with
  | none => s
  | some b =>
    match b.slots[k]? with
    | none => s
    | some q =>
      match q.bank? with
      | none => s
      | some bank =>
        let s1 := s.settleUnits fun u => u.bank == bank
        let s2 := s1.copyPage (bankKey bank .data 0) (b.area + s1.bnkOf b + 2 ^ 19 * k) (2 ^ 19)
        let s3 := s2.releaseSlot (b.frontOrigin id) id q 0 0 0
        (s3.modBlock id fun b => b.setSlot q.space q.num (.image k)).moveBanks id fun n => if n = bank then imageBank id k else n

/-- The slots of a block whose banks may be saved: by descending space code and then descending slot. -/
def Block.savable (b : Block) : List Nat :=
  ((b.slots.zipIdx.filter fun p => p.1.bank?.isSome).map Prod.snd).reverse

/-- How many banks a pre-emption saves: as far as the need of the waiting block exceeds the cleared free banks and those that
earlier victims have released for it, which are not yet cleared. -/
def State.banksNeeded (s : State) (b : Block) : Nat :=
  match b.yieldsTo.bind s.block? with
  | none => 0
  | some w =>
    match Tab.get s.launches w.launch with
    | none => 0
    | some l =>
      if w.phase = .waiting then l.record.slots - ((s.freeBanks b.cluster).length + (w.freed.filter s.comes).length) else 0

/-- Banks are saved for the block that a block yields to: as many as it needs. -/
def State.saveBanks (s : State) (id : Nat) (b : Block) : State :=
  let go := b.savable.take (s.banksNeeded b)
  let s1 := go.foldl (fun s k => s.saveBank id k) s
  match b.yieldsTo with
  | none => s1
  | some w => s1.modBlock w fun q => { q with freed := q.freed ++ (go.filterMap (b.slots[·]?)).filterMap Slot.bank? }

/-! ### When a block has stopped (R293 steps 1 to 4) -/

/-- A command that has written no byte. -/
def CopyCmd.unwritten (c : CopyCmd) : Bool := c.next == 0 && (c.phase == .queued || c.phase == .stopped)

/-- Whether a pending register may be saved as pending: its result comes after the restore. -/
def State.staysPending (s : State) (g : Nat) (key : Nat) (p : Producer) : Bool :=
  p == .traversal || p == .fabric
    || (s.copies.any fun c => c.2.org.group == g && c.2.c == key % 128 && c.2.unwritten)
    || s.held.any fun h => match h.result with
      | some r => r.group == g && decide (r.reg ≤ key % 128) && decide (key % 128 < r.reg + r.vals.length)
      | none => false

/-- Whether a group of a stopping block has reached the point where it is saved. -/
def State.groupStopped (s : State) (g : Nat) (x : Group) : Bool :=
  x.runAhead.isNone && (x.pend.all fun p => s.staysPending g p.1 p.2) && !s.ord.promotions.any fun q => q.group == g

/-- Whether every unit has done what it finishes for a block before a save. -/
def State.blockStopped (s : State) (id : Nat) : Bool :=
  (s.groups.all fun p => p.2.block != id || s.groupStopped p.1 p.2)
    && !(s.matOps.any fun m => m.org.block == id)
    && !(s.rays.any fun r => r.2.org.block == id && r.2.op != .ray && !r.2.refused)
    && s.copies.all fun c => c.2.org.block != id || c.2.unwritten || s.held.any fun h => h.command == some c.1

/-- A bank of a block with a higher resident number is saved first. -/
def State.savedFirst (s : State) (id : Nat) (b : Block) : Bool :=
  b.yieldsTo.isSome && s.blocks.any fun p => p.1 != id && p.2.phase == .stopping && p.2.yieldsTo == b.yieldsTo
    && decide ((b.frontOrigin id).resident < (p.2.frontOrigin p.1).resident)

/-! ### The save (R293) -/

/-- Commands that have written no byte are withdrawn; the deliveries of an `mcast` go with it. -/
def State.withdraw (s : State) (id : Nat) : State :=
  let gone := s.copies.filter fun c => c.2.org.block == id && c.2.unwritten
  { s with
    copies := s.copies.map fun c => if c.2.org.block = id ∧ c.2.unwritten then (c.1, { c.2 with phase := .withdrawn }) else c
    deliveries := s.deliveries.filter fun d => match d.of with
      | .mcast k _ => !gone.any fun c => c.1 == k
      | _ => true }

/-- Traversals stop at a node boundary and keep their state records (16 R329). -/
def State.parkRays (s : State) (id : Nat) : State :=
  (s.rays.filter fun r => r.2.org.block == id).foldl (fun s p =>
    let r := p.2
    match r.mode with
    | .inner t offer =>
      let s1 := s.putTrail r { t with kind := 1 }
      { s1 with rays := Tab.put s1.rays p.1 { r with mode := .record offer } }
    | .fresh =>
      let s1 := s.putTrail r (freshTrail (rayRec r.regs).1)
      { s1 with rays := Tab.put s1.rays p.1 { r with mode := .record none } }
    | _ => s) s

/-- The key of a convergence register of a saved block: its j-th core stands as core 1000 + j. -/
def Block.parkCvs (b : Block) : Block :=
  { b with cvs := b.cvs.map fun p => (8 * (1000 + b.cores.findIdx (· == p.1 / 8)) + p.1 % 8, p.2) }

/-- The block control (R291): shared registers, handler, map words, sets and withdrawn commands. -/
def State.writeControl (s : State) (id : Nat) (b : Block) : State :=
  let core := (b.frontOrigin id).core
  let s1 := s.writePa b.area (bytesOfWords (b.bs ++ [b.tvec, b.tvecHi]))
  let s2 := s1.writePa (b.area + 0x80) (bytesOfWords (b.slots.flatMap (s.mapWords b core)))
  let s3 := b.cvs.foldl (fun s p => s.writeFree (b.area + 0x400 + 512 * (p.1 / 8 - 1000) + 64 * (p.1 % 8)) 64) s2
  (s3.copies.filter fun c => c.2.org.block == id && c.2.phase == .withdrawn).foldl (fun s c =>
    s.writeFree (b.area + 0x2000 + 1024 * b.cores.findIdx (· == c.2.org.core) + 64 * c.2.slot) 64) s3

/-- Step 5: the state of a block goes to its area. -/
def State.writeState (s : State) (id : Nat) : State :=
  let s := s.modBlock id Block.parkCvs
  match s.block? id with
  | none => s
  | some b =>
    (s.groups.filter fun p => p.2.block == id).foldl (fun s p => s.writeGroup b (s.groupsIn b) p.2) (s.writeControl id b)

/-- A block that has been saved leaves its cores. -/
def State.leaveCores (s : State) (id : Nat) : State :=
  match s.block? id with
  | none => s
  | some b =>
    let gs := s.groups.filter fun p => p.2.block == id
    let s2 :=
      { s.modBlock id fun b => { b with phase := .saved, seats := [], saved := gs, yieldsTo := none } with
        groups := s.groups.filter fun p => p.2.block != id }
    (b.seats.foldl (fun s e => s.retryCore e.core) s2).freeOverflow b.cluster (s.rootOfBlock b)

/-- The narrowest scope that contains some cores (12 R274). -/
def scopeOf (cores : List Nat) : Scope :=
  match cores with
  | [] => .core
  | c :: t => if t.all (· == c) then .core else if t.all fun d => clusterOf d == clusterOf c then .clu else .dev

/-- The release of a block that moves, on every source core (12 R274). -/
def State.moveRelease (s : State) (b : Block) (target : List Nat) : State :=
  b.cores.foldl (fun s c => s.releaseUpTo b.groups c s.ord.seq (scopeOf (b.cores ++ target))) s

/-- Banks of a block that goes to another cluster: all are saved, and its reservations are cancelled. -/
def State.leaveCluster (s : State) (id : Nat) (b : Block) : State :=
  let s1 := b.savable.foldl (fun s k => s.saveBank id k) s
  match s1.block? id with
  | none => s1
  | some b1 => b1.slots.foldl (fun s q => match q.st with
    | .reserved _ _ _ _ _ _ => s.releaseSlot (b.frontOrigin id) id q 0 0 0
    | _ => s) s1

/-- A subset that waits in `bwait` is taken at its `bwait`, which issues again after the restore (09 R201). -/
def Group.atBwait (x : Group) : Group :=
  { x with waiting := x.waiting.map fun u => match u.wait with
    | .phase _ _ _ _ => { u with wait := .none }
    | _ => u }

def State.atBwait (s : State) (id : Nat) : State :=
  { s with groups := s.groups.map fun p => if p.2.block = id then (p.1, p.2.atBwait) else p }

/-- What the groups of a stopped block have sent performs in its order: units, and the atomics of the core with them; then
the block's entries leave the write buffer (12 R265, R274, R277). -/
def State.drainBlock (s : State) (b : Block) : State :=
  b.cores.foldl (fun s c =>
    ((s.settleGroups b.groups c s.ord.seq).settleBefore c s.ord.seq).drainCore c fun e => b.groups.contains e.group) s

/-- Something that a block has sent has not performed: it stands behind a `gupd` of another group. -/
def State.unsent (s : State) (id : Nat) (b : Block) : Bool :=
  s.portUnits.any (fun u => u.org.block == id) || s.sliceOps.any (fun o => o.org.block == id && o.pass.isNone)
    || s.ord.wb.any fun e => b.groups.contains e.group && b.cores.contains e.core

/-- A stopped block is saved: its state (step 5), and then its banks (step 6). -/
def State.saveBlock (s : State) (id : Nat) (b : Block) : State :=
  let target := b.reserved.map fun e => e.1.core
  let s1 := s.atBwait id
  let s2 := if target.isEmpty then s1 else s1.moveRelease b target
  let s3 := ((s2.withdraw id).parkRays id).writeState id
  let s4 :=
    if target.isEmpty then s3.saveBanks id b
    else if b.newBanks.isEmpty && target.all fun c => clusterOf c == b.cluster then s3
    else s3.leaveCluster id b
  s4.leaveCores id

/-- PREEMPT_SAVE (R293; 11 R259): a block that was stopped, and whose units have done what they finish, is saved. -/
def execPreemptSave (block : Nat) (s : State) : Host.Outcome State Fault Refusal :=
  match s.block? block with
  | none => .next s
  | some b =>
    if b.phase ≠ .stopping ∨ !s.blockStopped block ∨ s.savedFirst block b then .next s
    else
      let s1 := s.drainBlock b
      .next (if s1.unsent block b then s1 else s1.saveBlock block b)

/-! ### The restore (R294) -/

/-- The places that a saved block goes back to: those reserved for a move, or those it fits on, on its own cores or
on the cores that a MOVE names. (DEDUCED, log 34.) -/
def State.restorePlaces (s : State) (id : Nat) (b : Block) (l : Launch) : Option (List (Seat × List (Nat × Spot))) :=
  if !b.reserved.isEmpty then some b.reserved
  else
    let sets := match b.moveTo with
      | some (e, _) => l.choices b.num e
      | none => [b.cores]
    sets.findSome? fun cs => if cs.all (s.firstOn id b) then s.fitOn l.record l.record.blockGroups cs else none

/-- The slots of a block whose banks are saved, by their place. -/
def Block.images (b : Block) : List (Nat × Slot) :=
  (b.slots.zipIdx.map fun p => (p.2, p.1)).filter fun p => match p.2.st with
    | .image _ => true
    | _ => false

/-- A cleared bank is attached to a saved slot, and its image is copied back (R294 step 1). -/
def State.restoreBank (s : State) (id : Nat) (b : Block) (k : Nat) (q : Slot) (bank : Nat) : State :=
  let s1 := s.mapBank id q.space q.num bank
  (s1.copyPage (b.area + s1.bnkOf b + 2 ^ 19 * k) (bankKey bank .data 0) (2 ^ 19)).moveBanks id fun n =>
    if n = imageBank id k then bank else n

/-- The CRC of a saved group is right (R292). -/
def State.crcOk (s : State) (b : Block) (x : Group) : Bool :=
  ofBytes (s.readPa (privateArea b x + 504) 8) == (crc64 (s.readPa (privateArea b x) 504)).toNat

/-- A fibre's state as its group area holds it. -/
def State.readFibre (s : State) (b : Block) (x : Group) (p : Nat × Fibre) : Nat × Fibre :=
  let ws := wordsOfBytes (s.readPa (stateArea b x p.1) 16)
  (p.1, { p.2 with pc := codeAddr (nth ws 0 0) (nth ws 1 0), flags := nth ws 2 0 &&& ~~~5, repc := nth ws 3 0 })

/-- A group as its area holds it, at its new place. -/
def State.readGroup (s : State) (b : Block) (groups core : Nat) (q : Spot) (x : Group) : Group :=
  let y := x.lanes.foldl (fun (y : Group) l =>
    y.setRegs l 0 (wordsOfBytes (s.readPa (windowArea b groups x l) (4 * x.wsize)))) { x with regs := [] }
  { y with
    bad := x.bad, fibres := x.fibres.map (s.readFibre b x), core := core, part := q.part, row := q.row, first := q.first
    wbase := q.wbase }

/-- The core and place of a group among places. -/
def placeOf (fit : List (Seat × List (Nat × Spot))) (num : Nat) : Option (Seat × Spot) :=
  fit.findSome? fun p => (p.2.find? fun q => q.1 == num).map fun q => (p.1, q.2)

/-- What a block's groups have sent comes from their new places. -/
def Origin.moved (fit : List (Seat × List (Nat × Spot))) (id : Nat) (o : Origin) : Origin :=
  if o.block = id then
    match placeOf fit o.num with
    | some (e, _) => { o with core := e.core, resident := e.resident }
    | none => o
  else o

/-- A convergence set of a block, seen from its new places: its first signature comes from there (10 R238). -/
def moveFirst (fit : List (Seat × List (Nat × Spot))) (id : Nat) (c : CvSet) : CvSet :=
  { c with first := c.first.map fun q =>
      (q.1.moved fit id, q.2.1, match placeOf fit q.1.num with
        | some (_, spot) => spot.part
        | none => q.2.2) }

/-- Every command, ray, held fault and set of a block, seen from its new places. -/
def State.moveOrigins (s : State) (id : Nat) (fit : List (Seat × List (Nat × Spot))) : State :=
  let f := Origin.moved fit id
  { s with
    copies := s.copies.map fun p => (p.1, { p.2 with org := f p.2.org })
    rays := s.rays.map fun p => (p.1, { p.2 with org := f p.2.org })
    blocks := Tab.modify s.blocks id fun b => { b with cvs := b.cvs.map fun c => (c.1, moveFirst fit id c.2) }
    held := s.held.map fun h => { h with org := f h.org }
    fabric := { s.fabric with
      messages := s.fabric.messages.map fun p => (p.1, { p.2 with org := f p.2.org })
      commands := s.fabric.commands.map fun p => (p.1, { p.2 with org := f p.2.org }) } }

/-- Withdrawn commands take slots again, in their order; an `mcast` is accepted again (R294 step 2). -/
def State.reissue (s : State) (id : Nat) (b : Block) : State :=
  (s.copies.filter fun c => c.2.org.block == id && c.2.phase == .withdrawn).foldl (fun s p =>
    let c := p.2
    let used := (s.commandsOf c.org.core).map fun q => q.2.slot
    let slot := match (List.range 16).find? fun i => !used.contains i with
      | some i => i
      | none => 0
    let (s1, stale, waiting) := if c.fn = .mcast then s.acceptMcast p.1 b.launch (clusterOf c.org.core) c.vc (xfer c.t)
      else (s, 0, 0)
    let phase : CopyPhase := if c.service.isSome then .stopped else .queued
    { s1 with copies := Tab.put s1.copies p.1 { c with slot := slot, stale := stale, waiting := waiting, phase := phase } }) s

/-- Whether the engines of the cores have room for the withdrawn commands of a block. -/
def State.slotsForReissue (s : State) (id : Nat) (fit : List (Seat × List (Nat × Spot))) : Bool :=
  let mine := (s.copies.filter fun c => c.2.org.block == id && c.2.phase == .withdrawn).map fun c => c.2.org.moved fit id
  fit.all fun p => decide ((s.commandsOf p.1.core).length + (mine.filter fun o => o.core == p.1.core).length ≤ 16)

/-- The block stands on its cores again: shared registers, sets and groups are read back (R294 step 2). -/
def State.loadState (s : State) (id : Nat) (b : Block) (r : LaunchRec) (fit : List (Seat × List (Nat × Spot))) : State :=
  let bs := wordsOfBytes (s.readPa b.area 72)
  let cores := fit.map fun p => p.1.core
  let n := r.blockGroups
  let groups := b.saved.filterMap fun p => (placeOf fit p.2.num).map fun q => (p.1, s.readGroup b n q.1.core q.2 p.2)
  let b1 :=
    { b with
      phase := .running, cores := cores, seats := fit.map Prod.fst, bs := bs.take 16, tvec := nth bs 16 0
      tvecHi := nth bs 17 0
      cvs := b.cvs.map fun (p : Nat × CvSet) => (8 * nth cores (p.1 / 8 - 1000) 0 + p.1 % 8, p.2)
      saved := [], arrivals := [], entry := b.target, moveTo := none, reserved := [], newBanks := []
      moveRing := match b.moveTo with
        | some (_, ring) => some ring
        | none => b.moveRing }
  let s1 :=
    { s with
      blocks := Tab.put s.blocks id b1
      groups := groups.foldl (fun t (p : Nat × Group) => Tab.put t p.1 p.2) s.groups }
  s1.moveOrigins id fit

/-- A fault that was refused while its group was saved is taken now; queued ones follow (R294). -/
def State.resumeGroup (s : State) (g : Nat) : State :=
  match s.group? g with
  | none => s
  | some x =>
    match x.hold with
    | some (.answered f) => (s.setGroup g { x with hold := none }).takeFault g f
    | _ => s.deliverParked g

/-- Waiting subsets that the matrix scoreboard no longer holds are eligible again (10 R235). -/
def State.retryGroup (s : State) (g : Nat) : State :=
  match s.group? g with
  | none => s
  | some x => s.setGroup g (s.retryMatrix g x)

/-- The acquire of a block that has moved, on every target core (12 R274). -/
def State.moveAcquire (s : State) (gs cores : List Nat) (scope : Scope) : State :=
  gs.foldl (fun s g => s.acquire g scope) (cores.foldl (fun s c => s.discardInside c scope) s)

/-- The batches of a group that has moved close on its new core; what it wrote on the old ones becomes visible first (18
R335, R347). -/
def Pass.noteMoved (p : Pass) (id : Nat) (old : List (Nat × Nat)) (gs : List Group) : Pass :=
  let mine := gs.filter fun x => x.rasterPass == some id
  if mine.isEmpty then p
  else
    { p with
      flush := p.flush ++ old
      batches := mine.foldl (fun t x => Tab.modify t x.rasterBatch fun (q : Batch) => { q with core := x.core }) p.batches }

/-- The cores that a block has left count for the completion of its launch and of the passes that it emits into: what it
wrote there becomes visible first (11 R252, 18 R347). -/
def State.noteMoved (s : State) (b : Block) (gs : List Nat) : State :=
  let old := b.cores.map fun c => (c, s.ord.seq)
  { s with
    launches := Tab.modify s.launches b.launch fun l => { l with flush := l.flush ++ old }
    passes := s.passes.map fun p => (p.1, p.2.noteMoved p.1 old (gs.filterMap s.group?)) }

/-- A restore that found its area spoilt: the front end ends the block, reporting ECC (R292). -/
def State.failRestore (s : State) (id : Nat) (b : Block) : State :=
  let f := asyncRec s .ecc 0 9 0 [] 0
  let s1 := s.modBlock id fun b => { b with phase := .failed }
  let o := b.frontOrigin id
  { s1 with reports := s1.reports ++ [{ kind := .blockEnded, f := f, core := o.core, resident := 0, group := 0, block := id
                                        of := .none, words := [], index := none }] }

/-- The restore of a block on given places with given banks. -/
def State.restoreOn (s : State) (id : Nat) (b : Block) (r : LaunchRec) (fit : List (Seat × List (Nat × Spot)))
    (banks : List Nat) : State :=
  let s1 := (b.images.zip banks).foldl (fun (s : State) p => s.restoreBank id b p.1.1 p.1.2 p.2) s
  match s1.block? id with
  | none => s
  | some b1 =>
    let gs := b1.saved.map Prod.fst
    let cores := fit.map fun p => p.1.core
    let s2 := ((s1.loadState id b1 r fit).reissue id b1)
    let s3 := b1.arrivals.foldl State.giveArrival s2
    let s4 := if b1.moveTo.isSome then (s3.moveAcquire gs cores (scopeOf (b.cores ++ cores))).noteMoved b gs else s3
    (gs.foldl (fun s g => (s.retryGroup g).resumeGroup g) s4).schedWake cores

/-- BLOCK_RESTORE (R294; 11 R259): a saved block that is first on its wait lists and fits is restored. A block that
a MOVE takes to another cluster after it was saved leaves its banks first. -/
def execBlockRestore (block : Nat) (s : State) : Host.Outcome State Fault Refusal :=
  match s.block? block with
  | none => .next s
  | some b =>
    match Tab.get s.launches b.launch with
    | none => .next s
    | some l =>
      match s.restorePlaces block b l with
      | none => .next s
      | some fit =>
        if b.phase ≠ .saved then .next s
        else
          let cores := fit.map fun p => p.1.core
          let cluster := match cores with
            | c :: _ => clusterOf c
            | [] => b.cluster
          let late := b.moveTo.isSome && b.reserved.isEmpty
          let s1 := if late then s.moveRelease b cores else s
          let s2 := if late && cluster != b.cluster then s1.leaveCluster block b else s1
          match s2.block? block with
          | none => .next s
          | some b1 =>
            let banks := if b1.newBanks.isEmpty then s2.freeBanks cluster else b1.newBanks
            let spare := banks.drop b1.images.length
            if banks.length < b1.images.length || !s2.slotsForReissue block fit then .next s
            else if !b1.saved.all fun p => s2.crcOk b1 p.2 then .next (s.failRestore block b)
            else
              let s3 := s2.restoreOn block b1 l.record fit banks
              .next (if b1.newBanks.isEmpty then s3 else spare.foldl (fun (s : State) k => s.setBankSt k .free) s3)

end Sys2Proof.Machine
end

