-- ==== Sys2Proof/Machine/Rep.lean ====
section
/-!
DEFINITION. `rep` and its iterations (03 R74-R79).
-/
namespace Sys2Proof.Machine

/-! ### The repeated word (R75) -/

/-- How many of the fields d, a, b of a lane word name registers: the others are a selector or an immediate. -/
inductive Fields where
  | one | two | three
  deriving DecidableEq, Repr

/-- A word that may be repeated: its fields, whether run-ahead executes it, its marker, and its body. -/
structure Repeated where
  fields : Fields
  spec : Bool
  park : Bool
  d : Nat
  a : Nat
  b : Nat
  body : LaneBody

def repeated (f : Fields) (spec park : Bool) (d a b : Reg) (k : LaneBody) : Repeated :=
  { fields := f, spec := spec, park := park, d := d.toNat, a := a.toNat, b := b.toNat, body := k }

/-- The words that `rep` may repeat: the lane words but for branches, `trace` and the like (R75 check 1). -/
def repeatable (i : Instr) : Option Repeated :=
  match i with
  | .iadd o => some (repeated .three true o.park o.d o.a o.b bodyIadd)
  | .isub o => some (repeated .three true o.park o.d o.a o.b bodyIsub)
  | .iaddi o => some (repeated .one true o.park o.d 0 0 (bodyIaddi o.imm))
  | .imul o => some (repeated .three true o.park o.d o.a o.b bodyImul)
  | .imulhS o => some (repeated .three true o.park o.d o.a o.b bodyImulhS)
  | .imulhU o => some (repeated .three true o.park o.d o.a o.b bodyImulhU)
  | .imad o => some (repeated .three true o.park o.d o.a o.b bodyImad)
  | .iminS o => some (repeated .three true o.park o.d o.a o.b bodyIminS)
  | .iminU o => some (repeated .three true o.park o.d o.a o.b bodyIminU)
  | .imaxS o => some (repeated .three true o.park o.d o.a o.b bodyImaxS)
  | .imaxU o => some (repeated .three true o.park o.d o.a o.b bodyImaxU)
  | .iabs o => some (repeated .two true o.park o.d o.a 0 bodyIabs)
  | .popc o => some (repeated .two true o.park o.d o.a 0 bodyPopc)
  | .clz o => some (repeated .two true o.park o.d o.a 0 bodyClz)
  | .ctz o => some (repeated .two true o.park o.d o.a 0 bodyCtz)
  | .brev o => some (repeated .two true o.park o.d o.a 0 bodyBrev)
  | .icmpEq o => some (repeated .three true o.park o.d o.a o.b bodyIcmpEq)
  | .icmpNe o => some (repeated .three true o.park o.d o.a o.b bodyIcmpNe)
  | .icmpLtS o => some (repeated .three true o.park o.d o.a o.b bodyIcmpLtS)
  | .icmpLtU o => some (repeated .three true o.park o.d o.a o.b bodyIcmpLtU)
  | .icmpGeS o => some (repeated .three true o.park o.d o.a o.b bodyIcmpGeS)
  | .icmpGeU o => some (repeated .three true o.park o.d o.a o.b bodyIcmpGeU)
  | .sel o => some (repeated .three true o.park o.d o.a o.b bodySel)
  | .movi o => some (repeated .one true o.park o.d 0 0 (bodyMovi o.imm))
  | .lui o => some (repeated .one true o.park o.d 0 0 (bodyLui o.imm))
  | .ori o => some (repeated .one true o.park o.d 0 0 (bodyOri o.imm))
  | .andL o => some (repeated .three true o.park o.d o.a o.b bodyAnd)
  | .andn o => some (repeated .three true o.park o.d o.a o.b bodyAndn)
  | .orL o => some (repeated .three true o.park o.d o.a o.b bodyOr)
  | .xorL o => some (repeated .three true o.park o.d o.a o.b bodyXor)
  | .shl o => some (repeated .three true o.park o.d o.a o.b bodyShl)
  | .shr o => some (repeated .three true o.park o.d o.a o.b bodyShr)
  | .sar o => some (repeated .three true o.park o.d o.a o.b bodySar)
  | .bfeS o => some (repeated .three true o.park o.d o.a o.b bodyBfeS)
  | .bfeU o => some (repeated .three true o.park o.d o.a o.b bodyBfeU)
  | .bfi o => some (repeated .three true o.park o.d o.a o.b bodyBfi)
  | .ilv2 o => some (repeated .three true o.park o.d o.a o.b bodyIlv2)
  | .ilv3 o => some (repeated .three true o.park o.d o.a o.b bodyIlv3)
  | .dil2 o => some (repeated .three true o.park o.d o.a o.b bodyDil2)
  | .dil3 o => some (repeated .three true o.park o.d o.a o.b bodyDil3)
  | .rnd o => some (repeated .three true o.park o.d o.a o.b bodyRnd)
  | .fadd o => some (repeated .three true o.park o.d o.a o.b bodyFadd)
  | .fsub o => some (repeated .three true o.park o.d o.a o.b bodyFsub)
  | .fmul o => some (repeated .three true o.park o.d o.a o.b bodyFmul)
  | .ffma o => some (repeated .three true o.park o.d o.a o.b bodyFfma)
  | .fmin o => some (repeated .three true o.park o.d o.a o.b bodyFmin)
  | .fmax o => some (repeated .three true o.park o.d o.a o.b bodyFmax)
  | .fcmpEq o => some (repeated .three true o.park o.d o.a o.b bodyFcmpEq)
  | .fcmpLt o => some (repeated .three true o.park o.d o.a o.b bodyFcmpLt)
  | .fcmpLe o => some (repeated .three true o.park o.d o.a o.b bodyFcmpLe)
  | .fcmpUn o => some (repeated .three true o.park o.d o.a o.b bodyFcmpUn)
  | .fdiv o => some (repeated .three true o.park o.d o.a o.b bodyFdiv)
  | .frcp o => some (repeated .two true o.park o.d o.a 0 bodyFrcp)
  | .frsq o => some (repeated .two true o.park o.d o.a 0 bodyFrsq)
  | .fsqrt o => some (repeated .two true o.park o.d o.a 0 bodyFsqrt)
  | .fex2 o => some (repeated .two true o.park o.d o.a 0 bodyFex2)
  | .flg2 o => some (repeated .two true o.park o.d o.a 0 bodyFlg2)
  | .fsinpi o => some (repeated .two true o.park o.d o.a 0 bodyFsinpi)
  | .fcospi o => some (repeated .two true o.park o.d o.a 0 bodyFcospi)
  | .hadd2 o => some (repeated .three true o.park o.d o.a o.b bodyHadd2)
  | .hmul2 o => some (repeated .three true o.park o.d o.a o.b bodyHmul2)
  | .hfma2 o => some (repeated .three true o.park o.d o.a o.b bodyHfma2)
  | .hmin2 o => some (repeated .three true o.park o.d o.a o.b bodyHmin2)
  | .hmax2 o => some (repeated .three true o.park o.d o.a o.b bodyHmax2)
  | .cvt o => some (repeated .two true o.park o.d o.a 0 (bodyCvt o.conv o.mode))
  | .shflIdx o => some (repeated .three true o.park o.d o.a o.b bodyShflIdx)
  | .shflXor o => some (repeated .three true o.park o.d o.a o.b bodyShflXor)
  | .shflUp o => some (repeated .three true o.park o.d o.a o.b bodyShflUp)
  | .shflDn o => some (repeated .three true o.park o.d o.a o.b bodyShflDn)
  | .voteAny o => some (repeated .two true o.park o.d o.a 0 bodyVoteAny)
  | .voteAll o => some (repeated .two true o.park o.d o.a 0 bodyVoteAll)
  | .voteBallot o => some (repeated .two true o.park o.d o.a 0 bodyVoteBallot)
  | .qdxC o => some (repeated .two true o.park o.d o.a 0 bodyQdxC)
  | .qdxF o => some (repeated .two true o.park o.d o.a 0 bodyQdxF)
  | .qdyC o => some (repeated .two true o.park o.d o.a 0 bodyQdyC)
  | .qdyF o => some (repeated .two true o.park o.d o.a 0 bodyQdyF)
  | .ldb o => some (repeated .three true o.park o.d o.a o.b (bodyLdb (sizeRegs o.size)))
  | .stb o => some (repeated .three true o.park o.d o.a o.b (bodyStb (sizeRegs o.size)))
  | .atbAdd o => some (repeated .three false o.park o.d o.a o.b (bodyAtomic .add false true))
  | .atbExch o => some (repeated .three false o.park o.d o.a o.b (bodyAtomic .exch false true))
  | .atbCas o => some (repeated .three false o.park o.d o.a o.b (bodyAtomic .cas false true))
  | .atbAnd o => some (repeated .three false o.park o.d o.a o.b (bodyAtomic .and false true))
  | .atbOr o => some (repeated .three false o.park o.d o.a o.b (bodyAtomic .or false true))
  | .atbXor o => some (repeated .three false o.park o.d o.a o.b (bodyAtomic .xor false true))
  | .atbMinU o => some (repeated .three false o.park o.d o.a o.b (bodyAtomic .minU false true))
  | .atbMaxU o => some (repeated .three false o.park o.d o.a o.b (bodyAtomic .maxU false true))
  | .atbMinS o => some (repeated .three false o.park o.d o.a o.b (bodyAtomic .minS false true))
  | .atbMaxS o => some (repeated .three false o.park o.d o.a o.b (bodyAtomic .maxS false true))
  | .atb64Add o => some (repeated .three false o.park o.d o.a o.b (bodyAtomic .add true true))
  | .atb64Exch o => some (repeated .three false o.park o.d o.a o.b (bodyAtomic .exch true true))
  | .atb64Cas o => some (repeated .three false o.park o.d o.a o.b (bodyAtomic .cas true true))
  | .atb64MinU o => some (repeated .three false o.park o.d o.a o.b (bodyAtomic .minU true true))
  | .atb64MaxU o => some (repeated .three false o.park o.d o.a o.b (bodyAtomic .maxU true true))
  | .redbAdd o => some (repeated .three false o.park o.d o.a o.b (bodyAtomic .add false false))
  | .redbFadd o => some (repeated .three false o.park o.d o.a o.b (bodyAtomic .fadd false false))
  | .redbAnd o => some (repeated .three false o.park o.d o.a o.b (bodyAtomic .and false false))
  | .redbOr o => some (repeated .three false o.park o.d o.a o.b (bodyAtomic .or false false))
  | .redbXor o => some (repeated .three false o.park o.d o.a o.b (bodyAtomic .xor false false))
  | .redbMinU o => some (repeated .three false o.park o.d o.a o.b (bodyAtomic .minU false false))
  | .redbMaxU o => some (repeated .three false o.park o.d o.a o.b (bodyAtomic .maxU false false))
  | .lds o => some (repeated .three true o.park o.d o.a o.b (bodyBankLoad .scr (sizeRegs o.size)))
  | .sts o => some (repeated .three true o.park o.d o.a o.b (bodyBankStore .scr (sizeRegs o.size)))
  | .atsAdd o => some (repeated .three false o.park o.d o.a o.b (bodyAts .add))
  | .atsExch o => some (repeated .three false o.park o.d o.a o.b (bodyAts .exch))
  | .atsCas o => some (repeated .three false o.park o.d o.a o.b (bodyAts .cas))
  | .atsAnd o => some (repeated .three false o.park o.d o.a o.b (bodyAts .and))
  | .atsOr o => some (repeated .three false o.park o.d o.a o.b (bodyAts .or))
  | .atsXor o => some (repeated .three false o.park o.d o.a o.b (bodyAts .xor))
  | .atsMinU o => some (repeated .three false o.park o.d o.a o.b (bodyAts .minU))
  | .atsMaxU o => some (repeated .three false o.park o.d o.a o.b (bodyAts .maxU))
  | .atsMinS o => some (repeated .three false o.park o.d o.a o.b (bodyAts .minS))
  | .atsMaxS o => some (repeated .three false o.park o.d o.a o.b (bodyAts .maxS))
  | .lda o => some (repeated .three true o.park o.d o.a o.b (bodyBankLoad .act (sizeRegs o.size)))
  | .sta o => some (repeated .three true o.park o.d o.a o.b (bodyBankStore .act (sizeRegs o.size)))
  | .ldw o => some (repeated .three true o.park o.d o.a o.b (bodyBankLoad .wgt 4))
  | .cva o => some (repeated .three true o.park o.d o.a o.b (bodyCva (sizeRegs o.size)))
  | .acw o => some (repeated .three true o.park o.d o.a o.b (bodyAcw (sizeRegs o.size)))
  | _ => none

/-- Check 1 of R75: a uniform word, or a lane word of opcode 0x2C to 0x2F or 0x3B to 0x3F. -/
def unrepeatable (w : Word) : Bool :=
  let op := wbits w 29 24
  wbit w 31 || (decide (0x2C ≤ op) && decide (op ≤ 0x2F)) || decide (0x3B ≤ op)

/-- Strides of the d, a and b fields. -/
structure Strides where
  d : Nat
  a : Nat
  b : Nat
  deriving DecidableEq, Repr

/-- Check 3 of R75: a stride on a field that names no register. -/
def strideUnused (f : Fields) (t : Strides) : Bool :=
  match f with
  | .one => t.a != 0 || t.b != 0
  | .two => t.b != 0
  | .three => false

/-! ### Progress (R78) -/

/-- sr.repc of DONE and LEFT. -/
def repcWord (done left : Nat) : Word := toWord (done * 2 ^ 16 + left)

/-- The active fibres hold this progress. -/
def Group.setRepc (x : Group) (v : Word) : Group := x.mapFibres x.active fun f => { f with repc := v }

/-- sr.repc of the lowest active fibre, and whether every active fibre holds the same. -/
def Group.repcOf (x : Group) : Word × Bool :=
  match x.fibres.filter fun p => x.active.getLsbD p.1 with
  | [] => (0, true)
  | p :: t => (p.2.repc, t.all fun q => q.2.repc == p.2.repc)

/-- The prefix itself counts as one issue, and is no instruction of a run-ahead (R32, R79). -/
def Group.countPrefix (x : Group) : Group :=
  { x with issues := x.issues + 1, current := x.current.map fun u => { u with count := u.count + 1 } }

/-! ### Iterations (R76, R77) -/

/-- How a run of iterations ends. -/
inductive RepEnd where
  /-- All of them have run. -/
  | ran (s : State)
  /-- One has faulted, is held, or has ended a run-ahead. -/
  | stopped (s : State)
  deriving DecidableEq, Repr

/-- The registers that the used fields name (R78). -/
def Fields.used (f : Fields) (d a b : Nat) : List Nat :=
  match f with
  | .one => [d]
  | .two => [d, a]
  | .three => [d, a, b]

/-- A fault of an iteration: the iteration and the prefix have issued (02 R32, R77; DEDUCED, log 37). -/
def State.raiseRep (s : State) (g : Nat) (t : Trap) : State :=
  (s.modGroup g fun x => (x.countIssues 1).countPrefix).raise g t

/-- Whether a word that cannot run speculatively stands in a run-ahead, which it ends (R79). -/
def Group.cannotRunAhead (x : Group) (r : Repeated) : Bool := x.runAhead.isSome && !r.spec

/-- The window check of an iteration, which comes before the word executes: a used field beyond the window is WINDOW at
iteration 0 and REPEAT at a later one (R77, R78). -/
def Group.repWindow (x : Group) (word : Word) (i left : Nat) (used : List Nat) : Option Trap :=
  (used.find? fun n => decide (x.wsize ≤ n)).map fun n =>
    if i = 0 then { cause := .window, ops := [word, toWord n] }
    else { cause := .repeats, ops := [word, repcWord i left] }

/-- One iteration: the word on its strided fields, with sr.repc as it stands before it (R77, R78). -/
def State.iterate (s : State) (g : Nat) (r : Repeated) (t : Strides) (i left : Nat) : RepEnd :=
  let s1 := s.modGroup g fun x => x.setRepc (repcWord i left)
  match s1.group? g with
  | none => .stopped s1
  | some x =>
    if x.runAhead.any fun k => k.stop then .stopped s1
    else if x.cannotRunAhead r then .stopped (s1.setGroup g x.stopRunAhead)
    else
      let d := r.d + i * t.d
      let a := r.a + i * t.a
      let b := r.b + i * t.b
      match x.repWindow s.word i left (r.fields.used d a b) with
      | some f => .stopped (s1.raiseRep g f)
      | none =>
        match r.body d a b s1 g x with
        | .ok s2 => .ran (s2.modGroup g fun y => y.countIssues 1)
        | .trap f => .stopped (s1.raiseRep g f)
        | .trapAt s2 f => .stopped (s2.raiseRep g f)
        | .hold s2 => .stopped s2

/-- n iterations from iteration i on, of `left` that are left. -/
def State.iterations (s : State) (g : Nat) (r : Repeated) (t : Strides) : Nat → Nat → Nat → RepEnd
  | 0, _, _ => .ran s
  | n + 1, i, left =>
    match s.iterate g r t i left with
    | .ran s1 => s1.iterations g r t n (i + 1) (left - 1)
    | .stopped s1 => .stopped s1

/-- The end of a `rep`: sr.repc is 0, the PC passes both words, and the marker takes effect once. -/
def State.endRep (s : State) (g : Nat) (m : Mask) (park : Bool) : State :=
  (s.modGroup g fun x => ((x.setRepc 0).countPrefix.advance 8)).afterWord g m park

/-- The iterations of one turn: all that are left, or a free number of them after which others act (R79). A word that
cannot run speculatively ends a run-ahead, whatever the count. (DEDUCED, log 37.) -/
def State.runRep (s : State) (g : Nat) (r : Repeated) (t : Strides) (i left : Nat) (m : Mask) : State :=
  if (s.group? g).any fun x => x.cannotRunAhead r then s.modGroup g Group.stopRunAhead
  else
    let (j, s1) := s.choose left
    let n := if j = 0 then left else j
    match s1.iterations g r t n i left with
    | .stopped s2 => s2
    | .ran s2 =>
      if n = left then s2.endRep g m r.park
      else s2.modGroup g fun x => { x.setRepc (repcWord (i + n) (left - n)) with repeating := true }

/-- The repeated word: fetched with the `rep` (R75). -/
def State.repeatFetch (s : State) (g : Nat) (x : Group) (k : State → Word → State) : State :=
  match s.fetchAt x (x.pc + 4) with
  | .word w s1 => k s1 w
  | .fault c s1 => { s1 with wordOff := 4 }.fetchFault g x c (x.pc + 4)

/-- `rep`: the checks of R75, then the progress it resumes from or starts with, then its iterations. `d` is the
register of the count, which a resuming `rep` does not read (R78). -/
def repWord (count : Group → Nat) (d : Option Nat) (t : Strides) (s : State) : Host.Outcome State Fault Refusal :=
  runWord true (fun s _ _ => s) (fun s g x =>
    let x := { x with repeating := false }
    let s := s.setGroup g x
    .ok (s.repeatFetch g x fun s1 w =>
      let inner := { s1 with word := w, wordOff := 4 }
      let fails := fun (s1 : State) (f : Trap) => (s1.modGroup g Group.countPrefix).raise g f
      let bad := fun (s1 : State) (op : Word) => fails s1 { cause := .illegal, ops := [op] }
      if unrepeatable w then bad s1 s.word
      else
        match (decodeFibre w).bind repeatable with
        | none => bad inner w
        | some r =>
          if strideUnused r.fields t then bad s1 s.word
          else
            let p := x.repcOf
            let left := wbits p.1 15 0
            match x.precheck s.word (if left = 0 then { uniR := d.toList } else { win := d.toList }) with
            | some f => fails s1 f
            | none =>
              if !p.2 then fails s1 { cause := .repeats, ops := [w, p.1] }
              else if left != 0 then inner.runRep g r t (wbits p.1 31 16) left x.active
              else if 65535 < count x then fails s1 { cause := .repeats, ops := [w, p.1, toWord (count x)] }
              else inner.runRep g r t 0 (count x) x.active)) s

/-- `rep` with an immediate count (R74). -/
def execRepImmediate (o : RepImm) (s : State) : Host.Outcome State Fault Refusal :=
  repWord (fun _ => o.n.toNat) none { d := o.sd.toNat, a := o.sa.toNat, b := o.sb.toNat } s

/-- `rep` with a register count (R74). -/
def execRepRegister (o : RepReg) (s : State) : Host.Outcome State Fault Refusal :=
  repWord (fun x => (x.uni o.d.toNat).toNat) (some o.d.toNat) { d := o.sd.toNat, a := o.sa.toNat, b := o.sb.toNat } s

end Sys2Proof.Machine
end

