-- ==== Sys2Proof/Machine/Dispatch.lean ====
section
/-!
DEFINITION. The dispatch: one arm for each instruction and event, each a call of its meaning.
-/
namespace Sys2Proof.Machine

/-- The meaning of an instruction or event. -/
def exec (i : Instr) (s : State) : Host.Outcome State Fault Refusal :=
  match i with
  | .iadd o => Sys2Proof.Machine.execIadd o s
  | .isub o => Sys2Proof.Machine.execIsub o s
  | .iaddi o => Sys2Proof.Machine.execIaddi o s
  | .imul o => Sys2Proof.Machine.execImul o s
  | .imulhS o => Sys2Proof.Machine.execImulhS o s
  | .imulhU o => Sys2Proof.Machine.execImulhU o s
  | .imad o => Sys2Proof.Machine.execImad o s
  | .iminS o => Sys2Proof.Machine.execIminS o s
  | .iminU o => Sys2Proof.Machine.execIminU o s
  | .imaxS o => Sys2Proof.Machine.execImaxS o s
  | .imaxU o => Sys2Proof.Machine.execImaxU o s
  | .iabs o => Sys2Proof.Machine.execIabs o s
  | .popc o => Sys2Proof.Machine.execPopc o s
  | .clz o => Sys2Proof.Machine.execClz o s
  | .ctz o => Sys2Proof.Machine.execCtz o s
  | .brev o => Sys2Proof.Machine.execBrev o s
  | .icmpEq o => Sys2Proof.Machine.execIcmpEq o s
  | .icmpNe o => Sys2Proof.Machine.execIcmpNe o s
  | .icmpLtS o => Sys2Proof.Machine.execIcmpLtS o s
  | .icmpLtU o => Sys2Proof.Machine.execIcmpLtU o s
  | .icmpGeS o => Sys2Proof.Machine.execIcmpGeS o s
  | .icmpGeU o => Sys2Proof.Machine.execIcmpGeU o s
  | .sel o => Sys2Proof.Machine.execSel o s
  | .movi o => Sys2Proof.Machine.execMovi o s
  | .lui o => Sys2Proof.Machine.execLui o s
  | .ori o => Sys2Proof.Machine.execOri o s
  | .andL o => Sys2Proof.Machine.execAndL o s
  | .andn o => Sys2Proof.Machine.execAndn o s
  | .orL o => Sys2Proof.Machine.execOrL o s
  | .xorL o => Sys2Proof.Machine.execXorL o s
  | .shl o => Sys2Proof.Machine.execShl o s
  | .shr o => Sys2Proof.Machine.execShr o s
  | .sar o => Sys2Proof.Machine.execSar o s
  | .bfeS o => Sys2Proof.Machine.execBfeS o s
  | .bfeU o => Sys2Proof.Machine.execBfeU o s
  | .bfi o => Sys2Proof.Machine.execBfi o s
  | .ilv2 o => Sys2Proof.Machine.execIlv2 o s
  | .ilv3 o => Sys2Proof.Machine.execIlv3 o s
  | .dil2 o => Sys2Proof.Machine.execDil2 o s
  | .dil3 o => Sys2Proof.Machine.execDil3 o s
  | .rnd o => Sys2Proof.Machine.execRnd o s
  | .fadd o => Sys2Proof.Machine.execFadd o s
  | .fsub o => Sys2Proof.Machine.execFsub o s
  | .fmul o => Sys2Proof.Machine.execFmul o s
  | .ffma o => Sys2Proof.Machine.execFfma o s
  | .fmin o => Sys2Proof.Machine.execFmin o s
  | .fmax o => Sys2Proof.Machine.execFmax o s
  | .fcmpEq o => Sys2Proof.Machine.execFcmpEq o s
  | .fcmpLt o => Sys2Proof.Machine.execFcmpLt o s
  | .fcmpLe o => Sys2Proof.Machine.execFcmpLe o s
  | .fcmpUn o => Sys2Proof.Machine.execFcmpUn o s
  | .fdiv o => Sys2Proof.Machine.execFdiv o s
  | .frcp o => Sys2Proof.Machine.execFrcp o s
  | .frsq o => Sys2Proof.Machine.execFrsq o s
  | .fsqrt o => Sys2Proof.Machine.execFsqrt o s
  | .fex2 o => Sys2Proof.Machine.execFex2 o s
  | .flg2 o => Sys2Proof.Machine.execFlg2 o s
  | .fsinpi o => Sys2Proof.Machine.execFsinpi o s
  | .fcospi o => Sys2Proof.Machine.execFcospi o s
  | .hadd2 o => Sys2Proof.Machine.execHadd2 o s
  | .hmul2 o => Sys2Proof.Machine.execHmul2 o s
  | .hfma2 o => Sys2Proof.Machine.execHfma2 o s
  | .hmin2 o => Sys2Proof.Machine.execHmin2 o s
  | .hmax2 o => Sys2Proof.Machine.execHmax2 o s
  | .cvt o => Sys2Proof.Machine.execCvt o s
  | .shflIdx o => Sys2Proof.Machine.execShflIdx o s
  | .shflXor o => Sys2Proof.Machine.execShflXor o s
  | .shflUp o => Sys2Proof.Machine.execShflUp o s
  | .shflDn o => Sys2Proof.Machine.execShflDn o s
  | .voteAny o => Sys2Proof.Machine.execVoteAny o s
  | .voteAll o => Sys2Proof.Machine.execVoteAll o s
  | .voteBallot o => Sys2Proof.Machine.execVoteBallot o s
  | .qdxC o => Sys2Proof.Machine.execQdxC o s
  | .qdxF o => Sys2Proof.Machine.execQdxF o s
  | .qdyC o => Sys2Proof.Machine.execQdyC o s
  | .qdyF o => Sys2Proof.Machine.execQdyF o s
  | .brz o => Sys2Proof.Machine.execBrz o s
  | .brnz o => Sys2Proof.Machine.execBrnz o s
  | .fend o => Sys2Proof.Machine.execFend o s
  | .fspawn o => Sys2Proof.Machine.execFspawn o s
  | .mma o => Sys2Proof.Machine.execMma o s
  | .mmas o => Sys2Proof.Machine.execMmas o s
  | .ldb o => Sys2Proof.Machine.execLdb o s
  | .stb o => Sys2Proof.Machine.execStb o s
  | .atbAdd o => Sys2Proof.Machine.execAtbAdd o s
  | .atbExch o => Sys2Proof.Machine.execAtbExch o s
  | .atbCas o => Sys2Proof.Machine.execAtbCas o s
  | .atbAnd o => Sys2Proof.Machine.execAtbAnd o s
  | .atbOr o => Sys2Proof.Machine.execAtbOr o s
  | .atbXor o => Sys2Proof.Machine.execAtbXor o s
  | .atbMinU o => Sys2Proof.Machine.execAtbMinU o s
  | .atbMaxU o => Sys2Proof.Machine.execAtbMaxU o s
  | .atbMinS o => Sys2Proof.Machine.execAtbMinS o s
  | .atbMaxS o => Sys2Proof.Machine.execAtbMaxS o s
  | .atb64Add o => Sys2Proof.Machine.execAtb64Add o s
  | .atb64Exch o => Sys2Proof.Machine.execAtb64Exch o s
  | .atb64Cas o => Sys2Proof.Machine.execAtb64Cas o s
  | .atb64MinU o => Sys2Proof.Machine.execAtb64MinU o s
  | .atb64MaxU o => Sys2Proof.Machine.execAtb64MaxU o s
  | .redbAdd o => Sys2Proof.Machine.execRedbAdd o s
  | .redbFadd o => Sys2Proof.Machine.execRedbFadd o s
  | .redbAnd o => Sys2Proof.Machine.execRedbAnd o s
  | .redbOr o => Sys2Proof.Machine.execRedbOr o s
  | .redbXor o => Sys2Proof.Machine.execRedbXor o s
  | .redbMinU o => Sys2Proof.Machine.execRedbMinU o s
  | .redbMaxU o => Sys2Proof.Machine.execRedbMaxU o s
  | .lds o => Sys2Proof.Machine.execLds o s
  | .sts o => Sys2Proof.Machine.execSts o s
  | .atsAdd o => Sys2Proof.Machine.execAtsAdd o s
  | .atsExch o => Sys2Proof.Machine.execAtsExch o s
  | .atsCas o => Sys2Proof.Machine.execAtsCas o s
  | .atsAnd o => Sys2Proof.Machine.execAtsAnd o s
  | .atsOr o => Sys2Proof.Machine.execAtsOr o s
  | .atsXor o => Sys2Proof.Machine.execAtsXor o s
  | .atsMinU o => Sys2Proof.Machine.execAtsMinU o s
  | .atsMaxU o => Sys2Proof.Machine.execAtsMaxU o s
  | .atsMinS o => Sys2Proof.Machine.execAtsMinS o s
  | .atsMaxS o => Sys2Proof.Machine.execAtsMaxS o s
  | .lda o => Sys2Proof.Machine.execLda o s
  | .sta o => Sys2Proof.Machine.execSta o s
  | .ldw o => Sys2Proof.Machine.execLdw o s
  | .cva o => Sys2Proof.Machine.execCva o s
  | .acw o => Sys2Proof.Machine.execAcw o s
  | .trace o => Sys2Proof.Machine.execTrace o s
  | .tres o => Sys2Proof.Machine.execTres o s
  | .gframe o => Sys2Proof.Machine.execGframe o s
  | .gupd o => Sys2Proof.Machine.execGupd o s
  | .smp o => Sys2Proof.Machine.execSmp o s
  | .smpd o => Sys2Proof.Machine.execSmpd o s
  | .smpl o => Sys2Proof.Machine.execSmpl o s
  | .ldimg o => Sys2Proof.Machine.execLdimg o s
  | .stimg o => Sys2Proof.Machine.execStimg o s
  | .emitv o => Sys2Proof.Machine.execEmitv o s
  | .emitp o => Sys2Proof.Machine.execEmitp o s
  | .exportPixel o => Sys2Proof.Machine.execExportPixel o s
  | .uadd o => Sys2Proof.Machine.execUadd o s
  | .usub o => Sys2Proof.Machine.execUsub o s
  | .umul o => Sys2Proof.Machine.execUmul o s
  | .uand o => Sys2Proof.Machine.execUand o s
  | .uor o => Sys2Proof.Machine.execUor o s
  | .uxor o => Sys2Proof.Machine.execUxor o s
  | .ushl o => Sys2Proof.Machine.execUshl o s
  | .ushr o => Sys2Proof.Machine.execUshr o s
  | .usar o => Sys2Proof.Machine.execUsar o s
  | .ucmpEq o => Sys2Proof.Machine.execUcmpEq o s
  | .ucmpNe o => Sys2Proof.Machine.execUcmpNe o s
  | .ucmpLtS o => Sys2Proof.Machine.execUcmpLtS o s
  | .ucmpGeS o => Sys2Proof.Machine.execUcmpGeS o s
  | .ucmpLtU o => Sys2Proof.Machine.execUcmpLtU o s
  | .ucmpGeU o => Sys2Proof.Machine.execUcmpGeU o s
  | .uaddi o => Sys2Proof.Machine.execUaddi o s
  | .umovi o => Sys2Proof.Machine.execUmovi o s
  | .ului o => Sys2Proof.Machine.execUlui o s
  | .jmp o => Sys2Proof.Machine.execJmp o s
  | .ubrz o => Sys2Proof.Machine.execUbrz o s
  | .ubrnz o => Sys2Proof.Machine.execUbrnz o s
  | .call o => Sys2Proof.Machine.execCall o s
  | .ret o => Sys2Proof.Machine.execRet o s
  | .jr o => Sys2Proof.Machine.execJr o s
  | .repImmediate o => Sys2Proof.Machine.execRepImmediate o s
  | .repRegister o => Sys2Proof.Machine.execRepRegister o s
  | .nop o => Sys2Proof.Machine.execNop o s
  | .park o => Sys2Proof.Machine.execPark o s
  | .binit o => Sys2Proof.Machine.execBinit o s
  | .barr o => Sys2Proof.Machine.execBarr o s
  | .barrF o => Sys2Proof.Machine.execBarrF o s
  | .bexp o => Sys2Proof.Machine.execBexp o s
  | .bwait o => Sys2Proof.Machine.execBwait o s
  | .fence o => Sys2Proof.Machine.execFence o s
  | .batt o => Sys2Proof.Machine.execBatt o s
  | .bres o => Sys2Proof.Machine.execBres o s
  | .bgive o => Sys2Proof.Machine.execBgive o s
  | .brel o => Sys2Proof.Machine.execBrel o s
  | .bmap o => Sys2Proof.Machine.execBmap o s
  | .cpy o => Sys2Proof.Machine.execCpy o s
  | .cpyo o => Sys2Proof.Machine.execCpyo o s
  | .gath o => Sys2Proof.Machine.execGath o s
  | .mcast o => Sys2Proof.Machine.execMcast o s
  | .cvdecl o => Sys2Proof.Machine.execCvdecl o s
  | .rinit o => Sys2Proof.Machine.execRinit o s
  | .racq o => Sys2Proof.Machine.execRacq o s
  | .rdone o => Sys2Proof.Machine.execRdone o s
  | .enq o => Sys2Proof.Machine.execEnq o s
  | .deq o => Sys2Proof.Machine.execDeq o s
  | .qarm o => Sys2Proof.Machine.execQarm o s
  | .qstat o => Sys2Proof.Machine.execQstat o s
  | .send o => Sys2Proof.Machine.execSend o s
  | .recv o => Sys2Proof.Machine.execRecv o s
  | .mstat o => Sys2Proof.Machine.execMstat o s
  | .coll o => Sys2Proof.Machine.execColl o s
  | .comp o => Sys2Proof.Machine.execComp o s
  | .bsr o => Sys2Proof.Machine.execBsr o s
  | .bsw o => Sys2Proof.Machine.execBsw o s
  | .bsadd o => Sys2Proof.Machine.execBsadd o s
  | .srd o => Sys2Proof.Machine.execSrd o s
  | .swr o => Sys2Proof.Machine.execSwr o s
  | .time o => Sys2Proof.Machine.execTime o s
  | .yield o => Sys2Proof.Machine.execYield o s
  | .trap o => Sys2Proof.Machine.execTrap o s
  | .brk o => Sys2Proof.Machine.execBrk o s
  | .ntfy o => Sys2Proof.Machine.execNtfy o s
  | .rfetch o => Sys2Proof.Machine.execRfetch o s
  | .xbfx o => Sys2Proof.Machine.execXbfx o s
  | .swait o => Sys2Proof.Machine.execSwait o s
  | .disp o => Sys2Proof.Machine.execDisp o s
  | .swaitTimeout hart => Sys2Proof.Machine.execSwaitTimeout hart s
  | .ringDoorbell ring wptr => Sys2Proof.Machine.execRingDoorbell ring wptr s
  | .ringErrClear ring => Sys2Proof.Machine.execRingErrClear ring s
  | .launch ring => Sys2Proof.Machine.execLaunch ring s
  | .qcfg ring => Sys2Proof.Machine.execQcfg ring s
  | .qflush ring => Sys2Proof.Machine.execQflush ring s
  | .inval ring => Sys2Proof.Machine.execInval ring s
  | .migrate ring => Sys2Proof.Machine.execMigrate ring s
  | .signal ring => Sys2Proof.Machine.execSignal ring s
  | .nopCommand ring => Sys2Proof.Machine.execNopCommand ring s
  | .move ring => Sys2Proof.Machine.execMove ring s
  | .blockReserve block => Sys2Proof.Machine.execBlockReserve block s
  | .gangReserve launch => Sys2Proof.Machine.execGangReserve launch s
  | .launchCompletion launch => Sys2Proof.Machine.execLaunchCompletion launch s
  | .preemptRequest block victim => Sys2Proof.Machine.execPreemptRequest block victim s
  | .preemptSave block => Sys2Proof.Machine.execPreemptSave block s
  | .blockRestore block => Sys2Proof.Machine.execBlockRestore block s
  | .subsetYield group => Sys2Proof.Machine.execSubsetYield group s
  | .resultReturn k => Sys2Proof.Machine.execResultReturn k s
  | .coreClockGate core => Sys2Proof.Machine.execCoreClockGate core s
  | .corePowerGate core => Sys2Proof.Machine.execCorePowerGate core s
  | .coreWake core => Sys2Proof.Machine.execCoreWake core s
  | .notifyWriteArrival k => Sys2Proof.Machine.execNotifyWriteArrival k s
  | .runAheadStop group => Sys2Proof.Machine.execRunAheadStop group s
  | .asyncFaultEnqueue k => Sys2Proof.Machine.execAsyncFaultEnqueue k s
  | .trapEntry group => Sys2Proof.Machine.execTrapEntry group s
  | .faultLogWrite k => Sys2Proof.Machine.execFaultLogWrite k s
  | .flack entry => Sys2Proof.Machine.execFlack entry s
  | .giveDrainComplete k => Sys2Proof.Machine.execGiveDrainComplete k s
  | .releaseDrainComplete k => Sys2Proof.Machine.execReleaseDrainComplete k s
  | .bankClearDone bank => Sys2Proof.Machine.execBankClearDone bank s
  | .deliveryLanding k => Sys2Proof.Machine.execDeliveryLanding k s
  | .barrierUnitApply k => Sys2Proof.Machine.execBarrierUnitApply k s
  | .copyCommandComplete command => Sys2Proof.Machine.execCopyCommandComplete command s
  | .ringFillStart command => Sys2Proof.Machine.execRingFillStart command s
  | .ringFillCount command => Sys2Proof.Machine.execRingFillCount command s
  | .mmaSetStart block core cv => Sys2Proof.Machine.execMmaSetStart block core cv s
  | .mmaOpComplete k => Sys2Proof.Machine.execMmaOpComplete k s
  | .baseDieBoxTest ray => Sys2Proof.Machine.execBaseDieBoxTest ray s
  | .traceComplete ray => Sys2Proof.Machine.execTraceComplete ray s
  | .messageArrival k => Sys2Proof.Machine.execMessageArrival k s
  | .collectiveComplete entry others => Sys2Proof.Machine.execCollectiveComplete entry others s
  | .compArrival source now => Sys2Proof.Machine.execCompArrival source now s
  | .tileClose k now => Sys2Proof.Machine.execTileClose k now s
  | .tileDelivery k => Sys2Proof.Machine.execTileDelivery k s
  | .swPathEnqueue pass => Sys2Proof.Machine.execSwPathEnqueue pass s
  | .tileResolve pass tile => Sys2Proof.Machine.execTileResolve pass tile s
  | .tileFinish pass tile => Sys2Proof.Machine.execTileFinish pass tile s
  | .passDone pass => Sys2Proof.Machine.execPassDone pass s
  | .frameStart head => Sys2Proof.Machine.execFrameStart head s
  | .headLinkUp head => Sys2Proof.Machine.execHeadLinkUp head s
  | .goldenSourceAdvance die => Sys2Proof.Machine.execGoldenSourceAdvance die s
  | .wbMove w => Sys2Proof.Machine.execWbMove w s
  | .pointFill point key => Sys2Proof.Machine.execPointFill point key s
  | .pointDrop point key => Sys2Proof.Machine.execPointDrop point key s
  | .promotionServe k => Sys2Proof.Machine.execPromotionServe k s
  | .sliceAtomicApply k => Sys2Proof.Machine.execSliceAtomicApply k s
  | .hostMemAccess access => Sys2Proof.Machine.execHostMemAccess access s
  | .hostNotifyWrite offset value => Sys2Proof.Machine.execHostNotifyWrite offset value s
  | .capWrite value => Sys2Proof.Machine.execCapWrite value s
  | .tslRead => Sys2Proof.Machine.execTslRead s
  | .correctedErrorCountRead counter => Sys2Proof.Machine.execCorrectedErrorCountRead counter s
  | .groupTableWrite offset value => Sys2Proof.Machine.execGroupTableWrite offset value s
  | .registerWrite offset value => Sys2Proof.Machine.execRegisterWrite offset value s
  | .deviceReset => Sys2Proof.Machine.execDeviceReset s
  | .bootVerify image => Sys2Proof.Machine.execBootVerify image s
  | .functionReady f => Sys2Proof.Machine.execFunctionReady f s
  | .thermalTrip => Sys2Proof.Machine.execThermalTrip s
  | .clockStepDown => Sys2Proof.Machine.execClockStepDown s
  | .clockStepUp => Sys2Proof.Machine.execClockStepUp s
  | .avmalLinkDown port => Sys2Proof.Machine.execAvmalLinkDown port s
  | .avmalLinkUp port fabricNumber => Sys2Proof.Machine.execAvmalLinkUp port fabricNumber s
  | .timeStampDiscipline ahead => Sys2Proof.Machine.execTimeStampDiscipline ahead s
  | .getVersion => Sys2Proof.Machine.execGetVersion s
  | .getCapabilities => Sys2Proof.Machine.execGetCapabilities s
  | .negotiateAlgorithms => Sys2Proof.Machine.execNegotiateAlgorithms s
  | .getDigests => Sys2Proof.Machine.execGetDigests s
  | .getCertificate slot offset length => Sys2Proof.Machine.execGetCertificate slot offset length s
  | .challenge slot nonce => Sys2Proof.Machine.execChallenge slot nonce s
  | .getMeasurements index => Sys2Proof.Machine.execGetMeasurements index s
  | .unassignedWord w => Sys2Proof.Machine.execUnassignedWord w s
  | .signalLineSet line => Sys2Proof.Machine.execSignalLineSet line s
  | .headLinkLost head => Sys2Proof.Machine.execHeadLinkLost head s
  | .scanOutLine head y late => Sys2Proof.Machine.execScanOutLine head y late s
  | .powerThermalLimit r => Sys2Proof.Machine.execPowerThermalLimit r s
  | .hostWriteToHostLine addr data => Sys2Proof.Machine.execHostWriteToHostLine addr data s

end Sys2Proof.Machine
end

