-- ==== Sys2Proof/Machine/Turns.lean ====
section
/-!
DEFINITION. The turns that are no instruction and no event of the opcode table: time passing, soft errors
(13 R295, R296), what a hart fetches; which instructions are events; and the placing of a word for the next
step (DESIGN CHOICE, log 5).
-/
namespace Sys2Proof.Machine

/-- Events have no word; the fate of an unassigned word belongs to an issue (R67). (DESIGN CHOICE, log 8.) -/
def isEvent (i : Instr) : Bool :=
  match i with
  | .unassignedWord _ => false
  | _ => (encode i).isNone

/-- Ticks of the time-stamp counter pass (22 R385). -/
def State.elapse (s : State) (n : Nat) : State :=
  { s with
    tsc := s.tsc + BitVec.ofNat 64 n
    status := { s.status with sinceAdjust := s.status.sinceAdjust + n } }

/-- A register's residue goes bad (13 R295). -/
def State.softRegister (s : State) (g l r : Nat) : State :=
  s.modGroup g fun x => { x with bad := insertNat x.bad (regKey l r) }

/-- The next result of a group's pipes will be found bad (13 R295). -/
def State.softResult (s : State) (g : Nat) : State := s.modGroup g fun x => { x with badResult := true }

/-- An uncorrectable error in the 8 bytes around a location (13 R296). -/
def State.softMemory (s : State) (k : Nat) : State := { s with errors := insertNat s.errors (k / 8) }

/-- A corrected error is counted, and saturates (22 R381). -/
def State.countCorrected (s : State) (c : CeCounter) : State :=
  { s with status := s.status.setCounter c (satCount (s.status.counter c)) }

/-- The hart and the word at its pc, unless it waits. -/
def State.hartPrepare (s : State) (h : Nat) : Option (Word × State) :=
  match Tab.get s.harts h with
  | none => none
  | some x =>
    if x.waiting.isSome then none
    else some (toWord (ofBytes (Memory.readBytes x.local_ x.pc.toNat 4)), { s with hart := some h })

/-- A free double word: the i-th after those taken. -/
def State.freeDouble (s : State) (i : Nat) : DWord := Config.freeWord (s.free + 2 * i) ++ Config.freeWord (s.free + 2 * i + 1)

/-- The firmware may extend a measurement register from 1 to 7 with the digest of what it has loaded (22 R387): which one,
if any, and with which digest, is free. -/
def State.firmwareMeasures (s : State) : State :=
  let (i, s1) := s.choose 8
  if i = 0 then s1
  else
    let digest := (List.range 64).map fun j => Config.freeByte (s1.free + j)
    { s1 with
      status := { s1.status with measures := setNth s1.status.measures i (extend (nth s1.status.measures i []) digest) }
      free := s1.free + 64 }

/-- A word of the base set, which the spec only names (R260): whatever one base instruction may change of the hart
takes free values (PRESUMED, log 10), and the firmware that it belongs to may measure what it has loaded. -/
def State.hartBase (s : State) (h : Nat) (x : Hart) : State :=
  let v := s.freeDouble
  let rd := (v 1).setWidth 5
  let y := { x.setReg rd (v 2) with
    pc := v 0, mepc := v 3, mcause := v 4, mtval := v 5, mtvec := v 6, mstatus := v 7
    fregs := Tab.store 0 x.fregs ((v 10).toNat % 32) (v 11), fcsr := (v 12).setWidth 32
    local_ := Memory.writeBytes x.local_ ((v 8).toNat - (v 8).toNat % 8) (bytesOf 8 (v 9).toNat) }
  { s.setHart h y with free := s.free + 26 }.firmwareMeasures

/-- A hart's word that is none of the extension's four: an unassigned one of custom-0 is illegal (R260), `mret` returns,
and any other is one of the base set. -/
def State.hartOther (s : State) (h : Nat) (w : Word) : State :=
  match Tab.get s.harts h with
  | none => s
  | some x =>
    if w &&& 0x7F = 0x0B then s.setHart h (x.trap 2)
    else if w = 0x30200073 then s.setHart h x.ret
    else s.hartBase h x

/-! ### Placing a word (DESIGN CHOICE, log 5) -/

/-- Where `placeWord` keeps the tables of an address space that maps the first 4 GiB onto themselves, and the word. -/
def placeRoot : Nat := 0x10000
def placeTable : Nat := 0x20000
def placeCode : Nat := 0x30000

/-- The launch of the placed block: one block of one group of 8 fibres with 128 registers. -/
def placeLaunch (s : State) : Launch :=
  let r := launchRec []
  { newLaunch s { record := { r with code := placeCode, root := placeRoot, ra := 15 }, map := [0], reason := 0, place := 0
                  lost := none } 0 0 0 0 with count := 1, left := 1 }

def placeSpot : Spot := { part := 0, row := 0, first := 0, width := 8, wbase := 0, wsize := 128, fibres := 8 }

/-- The placed group and block stand on core 0 as a launch would start them, the group current. -/
def State.placeBlock (s : State) : State :=
  let id := s.nextId
  let l := placeLaunch s
  let b := { waitingBlock id 0 0 with
    phase := .running, cores := [0], seats := [{ core := 0, resident := 0, bm := [], cv := [] }], groups := [id + 2]
    issued := true }
  let x := newGroup l (id + 1) b 0 0 placeSpot
  let y := { x with current := some { mask := 0xFF, wait := .none, since := 0, count := 0 }, waiting := [] }
  { s with
    nextId := id + 3
    launches := Tab.put s.launches id l
    blocks := Tab.put s.blocks (id + 1) b
    groups := Tab.put s.groups (id + 2) y
    ord := { s.ord with promotions := s.ord.promotions.filter fun p => p.group != id + 2 } }

/-- A fibre word, placed as the next issue of a group of its own on core 0. -/
def State.placeFibre (s : State) (w : Word) : State :=
  let s1 := s.writePa placeRoot (bytesOf 8 (2 ^ 63 + placeTable / 2 ^ 16 * 2 ^ 20 + 1))
  let s2 := (s1.writePa placeTable (bytesOf 8 7)).writeHome placeCode (bytesOf 8 w.toNat)
  let s3 := { s2 with cached := s2.cached.filter fun c => c.root != placeRoot }.placeBlock
  { s3.setCore 0 { s3.core 0 with gate := .running } with
    schedule := [.issue (s.nextId + 2)]
    power := { s.power with trip := false }
    status := { s.status with cxl := true, hbm := BitVec.allOnes 8, clusters := s.status.clusters ||| 1 } }

/-- A word of the front-end extension, placed at the pc of hart 0. -/
def State.placeHart (s : State) (w : Word) : State :=
  { s with
    schedule := [.hart 0]
    harts := Tab.put s.harts 0 { startHart [] with local_ := Memory.writeBytes [] 0 (bytesOf 4 w.toNat) } }

/-- The machine with a word placed so that the very next step runs it. -/
def State.placeWord (s : State) (_nbits w : Nat) : State :=
  let v := toWord w
  match decodeHart v with
  | some _ => s.placeHart v
  | none => s.placeFibre v

end Sys2Proof.Machine
end

