-- ==== Sys2Proof/Machine/Step.lean ====
section
/-!
DEFINITION. One step of the machine: the next turn of the schedule (DESIGN CHOICE, log 3), or a free one, is performed.
-/
namespace Sys2Proof.Machine

/-- The turn of a group: its yield, its word's meaning, or what its fetch comes to. (DESIGN CHOICE, log 6.) -/
def issueTurn (g : Nat) (s : State) : Host.Outcome State Fault Refusal :=
  match s.prepare g with
  | .idle => .next s
  | .yield s1 => Sys2Proof.Machine.execSubsetYield g s1
  | .done s1 => .next s1
  | .word w s1 =>
    s1.afterTurn g (match decodeFibre w with
    | some i => exec i s1
    | none => Sys2Proof.Machine.execUnassignedWord w s1)

/-- The turn of a hart: the custom-0 word at its pc, else the base instruction that is outside the table. -/
def hartTurn (h : Nat) (s : State) : Host.Outcome State Fault Refusal :=
  match s.hartPrepare h with
  | none => .next s
  | some (w, s1) =>
    match decodeHart w with
    | some i => exec i s1
    | none => .next (s1.hartOther h w)

/-- Performs a turn. -/
def act (t : Turn) (s : State) : Host.Outcome State Fault Refusal :=
  match t with
  | .issue g => issueTurn g s
  | .hart h => hartTurn h s
  | .event i => if isEvent i then exec i s else .next s
  | .elapse n => .next (s.elapse n)
  | .softRegister g l r => .next (s.softRegister g l r)
  | .softResult g => .next (s.softResult g)
  | .softMemory k => .next (s.softMemory k)
  | .corrected c => .next (s.countCorrected c)
  | .pageRewrite root va => .next (s.rewritePage root va)

/-- One step. -/
def step (s : State) : Host.Outcome State Fault Refusal :=
  match s.schedule with
  | t :: rest => act t { s with schedule := rest }
  | [] => act (Config.freeTurn s.free) { s with free := s.free + 1 }

/-- s with an instruction placed so that the very next step runs it (DESIGN CHOICE, log 5). -/
def State.withFetchWord (s : State) (nbits w : Nat) : State := s.placeWord nbits w

end Sys2Proof.Machine
end

