-- ==== Sys2Proof/Laws/Decode.lean ====
section
/-!
SUPPORT. The laws of the word formats: cutting a word undoes joining its fields, and each field's encoding is read
back as it was written.
-/
namespace Sys2Proof

/-- Cutting the word of a cut gives the cut back (R54-R61). -/
@[simp] theorem cutWord_word (c : Cut) : cutWord c.word = c := by
  obtain ⟨u, p, op, sel, m, d, a, b⟩ := c
  simp only [cutWord, Cut.word, Cut.mk.injEq]
  refine ⟨?_, ?_, ?_, ?_, ?_, ?_, ?_, ?_⟩
  · simp only [BitVec.getLsbD_append]
    simp
  · simp only [BitVec.getLsbD_append]
    simp
  · ext i hi
    simp only [BitVec.getElem_extractLsb', BitVec.getLsbD_append]
    simp (disch := omega) only [if_neg, if_pos, BitVec.getLsbD_eq_getElem]
    congr 1
    omega
  · ext i hi
    simp only [BitVec.getElem_extractLsb', BitVec.getLsbD_append]
    simp (disch := omega) only [if_neg, if_pos, BitVec.getLsbD_eq_getElem]
    congr 1
    omega
  · simp only [BitVec.getLsbD_append]
    simp
  · ext i hi
    simp only [BitVec.getElem_extractLsb', BitVec.getLsbD_append]
    simp (disch := omega) only [if_neg, if_pos, BitVec.getLsbD_eq_getElem]
    congr 1
    omega
  · ext i hi
    simp only [BitVec.getElem_extractLsb', BitVec.getLsbD_append]
    simp (disch := omega) only [if_neg, if_pos, BitVec.getLsbD_eq_getElem]
    congr 1
    omega
  · ext i hi
    simp only [BitVec.getElem_extractLsb', BitVec.getLsbD_append]
    simp (disch := omega) only [if_pos, BitVec.getLsbD_eq_getElem]
    congr 1
    omega

@[simp] theorem holdOf_bits (h : Hold) : holdOf h.bits = h := by cases h <;> rfl

@[simp] theorem hintOf_bits (h : Hint) : hintOf h.bits = h := by cases h <;> rfl

@[simp] theorem sizeOf_bits (z : Size) : sizeOf? z.bits = some z := by cases z <;> rfl

@[simp] theorem modeOf_bits (m : RMode) : modeOf? m.bits = some m := by cases m <;> rfl

@[simp] theorem scopeOf_bits (z : Scope) : scopeOf? z.bits = some z := by cases z <;> rfl

@[simp] theorem cvScopeOf_bits (z : CvScope) : cvScopeOf? z.bits = some z := by cases z <;> rfl

@[simp] theorem sysRegOf_number (r : SysReg) : sysRegOf? r.number = some r := by
  cases r
  case fops i => revert i; decide
  case ny i => revert i; decide
  case lvl i => revert i; decide
  all_goals rfl

@[simp] theorem imm_join (i : BitVec 14) : immHigh i ++ immLow i = i := by
  ext k hk
  simp only [immHigh, immLow, BitVec.getElem_append, BitVec.getElem_extractLsb']
  split
  · simp [BitVec.getLsbD_eq_getElem hk]
  · rename_i h
    have : 7 + (k - 7) = k := by omega
    simp [this, BitVec.getLsbD_eq_getElem hk]

@[simp] theorem fn_join (f : BitVec 3) : fnSel f ++ BitVec.ofBool (fnMod f) = f := by
  revert f; decide

/-- Reading back the two parts of a joined field. -/
theorem extract_low {n m : Nat} (x : BitVec n) (y : BitVec m) : (x ++ y).extractLsb' 0 m = y := by
  ext k hk
  simp [BitVec.getElem_extractLsb', BitVec.getLsbD_append, hk]

theorem extract_high {n m : Nat} (x : BitVec n) (y : BitVec m) : (x ++ y).extractLsb' m n = x := by
  ext k hk
  simp only [BitVec.getElem_extractLsb', BitVec.getLsbD_append]
  simp [hk]

/-! ### Each format's operands are read back -/

theorem LaneOp2.read (o : LaneOp2) (op : BitVec 6) (b : Reg) (h : holdNotB o.hold = true) :
    (o.cut op b).lane2 = some o := by
  simp [LaneOp2.cut, Cut.lane2, h]

theorem LaneImm.read (o : LaneImm) (op : BitVec 6) (h : holdNotB o.hold = true) : (o.cut op).laneImm = some o := by
  simp [LaneImm.cut, Cut.laneImm, Cut.low14, h]

theorem CvtOp.read (o : CvtOp) (h : (holdNotB o.hold && cvtModeAllowed o.conv o.mode) = true) : o.cut.cvtOp = some o := by
  have hm : (o.conv ++ o.mode.bits : BitVec 7).extractLsb' 0 3 = o.mode.bits := extract_low _ _
  have hc : (o.conv ++ o.mode.bits : BitVec 7).extractLsb' 3 4 = o.conv := extract_high _ _
  simp only [CvtOp.cut, Cut.cvtOp, hm, hc, modeOf_bits, holdOf_bits, h, if_true]

theorem LaneBranch.read (o : LaneBranch) (u : Bool) (op : BitVec 6) : (o.cut u op).laneBranch = some o := by
  simp [LaneBranch.cut, Cut.laneBranch, Cut.low14]

theorem MmaOp.read (o : MmaOp) (m : Bool) : (o.cut m).mmaOp = some o := by
  have h0 : ((0 : BitVec 4) ++ o.cv : BitVec 7).extractLsb' 0 3 = o.cv := extract_low _ _
  have h3 : ((0 : BitVec 4) ++ o.cv : BitVec 7).extractLsb' 3 4 = 0 := extract_high _ _
  simp only [MmaOp.cut, Cut.mmaOp, h0, h3]
  rfl

theorem CvdeclOp.read (o : CvdeclOp)
    (h : (decide (1 ≤ o.count.toNat) && decide (o.count.toNat ≤ o.scope.footprint)) = true) :
    o.cut.cvdeclOp = some o := by
  have h0 : ((0 : BitVec 4) ++ o.cv : BitVec 7).extractLsb' 0 3 = o.cv := extract_low _ _
  have h3 : ((0 : BitVec 4) ++ o.cv : BitVec 7).extractLsb' 3 4 = 0 := extract_high _ _
  simp only [Bool.and_eq_true, decide_eq_true_eq] at h
  simp only [CvdeclOp.cut, Cut.cvdeclOp, Cut.fn, Cut.low14, fn_join, imm_join, cvScopeOf_bits, h0, h3, h.1, h.2]
  rfl

theorem UImm.read (o : UImm) (op : BitVec 6) : (o.cut op).uimm = some o := by
  simp [UImm.cut, Cut.uimm, Cut.low14]

theorem UImm17.read (o : UImm17) (op : BitVec 6) : (o.cut op).uimm17 = some o := by
  have h : o.imm.extractLsb' 14 3 ++ o.imm.extractLsb' 0 14 = o.imm := by
    ext k hk
    simp only [BitVec.getElem_append, BitVec.getElem_extractLsb']
    split
    · simp [BitVec.getLsbD_eq_getElem hk]
    · rename_i hn
      have : 14 + (k - 14) = k := by omega
      simp [this, BitVec.getLsbD_eq_getElem hk]
  simp [UImm17.cut, Cut.uimm17, Cut.fn, Cut.low14, h]

theorem JumpOp.read (o : JumpOp) (op : BitVec 6) (h : hintUniformOk o.hint = true) : (o.cut op).jumpOp = some o := by
  have hj : (BitVec.ofBool (o.off.getLsbD 21) ++ o.off.extractLsb' 14 7 : BitVec 8)
      ++ (o.off.extractLsb' 7 7 ++ o.off.extractLsb' 0 7 : BitVec 14) = o.off := by
    ext k hk
    simp only [BitVec.getElem_append, BitVec.getElem_extractLsb']
    split
    · split
      · simp [BitVec.getLsbD_eq_getElem hk]
      · have : 7 + (k - 7) = k := by omega
        simp [this, BitVec.getLsbD_eq_getElem hk]
    · split
      · have : 14 + (k - 14) = k := by omega
        simp [this, BitVec.getLsbD_eq_getElem hk]
      · have : k = 21 := by omega
        subst this
        simp
  simp only [JumpOp.cut, Cut.jumpOp, Cut.low14, hintOf_bits, h, hj, if_true]

theorem RepImm.read (o : RepImm) : o.cut.repImm = some o := by
  obtain ⟨sd, sa, sb, n⟩ := o
  have h : (sd ++ sa ++ sb ++ n.extractLsb' 7 1 : BitVec 7) ++ n.extractLsb' 0 7 = (sd ++ sa ++ sb : BitVec 6) ++ n := by
    ext k hk
    simp only [BitVec.getElem_append, BitVec.getElem_extractLsb']
    split
    · simp [show k < 8 by omega]
    · split
      · have : k = 7 := by omega
        subst this
        simp
      · simp [show ¬k < 8 by omega, show k - 7 - 1 = k - 8 by omega]
  have hn : ((sd ++ sa ++ sb : BitVec 6) ++ n).extractLsb' 0 8 = n := extract_low _ _
  have e : ∀ w : BitVec 14, w = (sd ++ sa ++ sb : BitVec 6) ++ n →
      w.extractLsb' 12 2 = sd ∧ w.extractLsb' 10 2 = sa ∧ w.extractLsb' 8 2 = sb := by
    rintro _ rfl
    refine ⟨?_, ?_, ?_⟩ <;>
    · ext k hk
      simp only [BitVec.getElem_extractLsb', BitVec.getLsbD_append]
      simp (disch := omega) only [if_neg, if_pos, BitVec.getLsbD_eq_getElem]
      congr 1
      omega
  obtain ⟨h1, h2, h3⟩ := e _ rfl
  simp only [RepImm.cut, Cut.repImm, Cut.low14, h, hn, h1, h2, h3]
  rfl

theorem RepReg.read (o : RepReg) : o.cut.repReg = some o := by
  obtain ⟨d, sd, sa, sb⟩ := o
  have e : ∀ w : BitVec 14, w = (sd ++ sa ++ sb ++ (0 : BitVec 1) : BitVec 7) ++ (0 : BitVec 7) →
      w.extractLsb' 12 2 = sd ∧ w.extractLsb' 10 2 = sa ∧ w.extractLsb' 8 2 = sb ∧ w.extractLsb' 0 8 = 0 := by
    rintro _ rfl
    refine ⟨?_, ?_, ?_, ?_⟩
    iterate 3
      ext k hk
      simp only [BitVec.getElem_extractLsb', BitVec.getLsbD_append]
      simp (disch := omega) only [if_neg, if_pos, BitVec.getLsbD_eq_getElem]
      congr 1
      omega
    ext k hk
    simp only [BitVec.getElem_extractLsb', BitVec.getLsbD_append]
    simp
    omega
  obtain ⟨h1, h2, h3, h4⟩ := e _ rfl
  simp only [RepReg.cut, Cut.repReg, Cut.low14, h1, h2, h3, h4]
  rfl

theorem bsIndex (n : BitVec 4) :
    ((0 : BitVec 3) ++ n : BitVec 7).extractLsb' 0 4 = n ∧ ((0 : BitVec 3) ++ n : BitVec 7).extractLsb' 4 3 = 0 :=
  ⟨extract_low _ _, extract_high _ _⟩

theorem BsD.read (o : BsD) : o.cut.bsD = some o := by
  simp only [BsD.cut, Cut.bsD, (bsIndex o.n).1, (bsIndex o.n).2]
  rfl

theorem BsA.read (o : BsA) : o.cut.bsA = some o := by
  simp only [BsA.cut, Cut.bsA, (bsIndex o.n).1, (bsIndex o.n).2]
  rfl

theorem BsDA.read (o : BsDA) : o.cut.bsDA = some o := by
  simp only [BsDA.cut, Cut.bsDA, (bsIndex o.n).1, (bsIndex o.n).2]
  rfl

theorem SysOp.read (o : SysOp) (f : BitVec 3) : (o.cut f).sysOp = some o := by
  simp [SysOp.cut, Cut.sysOp, Cut.low14]

theorem CodeOp.read (o : CodeOp) (f : BitVec 3) : (o.cut f).codeOp = some o := by
  simp [CodeOp.cut, Cut.codeOp, Cut.low14]

/-! ### The function field of each format that has one -/

theorem Regs3.fn (o : Regs3) (u : Bool) (op : BitVec 6) (f : BitVec 3) : (o.cut u op f).fn = f := fn_join f
theorem Regs2.fn (o : Regs2) (u : Bool) (op : BitVec 6) (f : BitVec 3) (b : Reg) : (o.cut u op f b).fn = f := fn_join f
theorem RegsAB.fn (o : RegsAB) (op : BitVec 6) (f : BitVec 3) : (o.cut op f).fn = f := fn_join f
theorem RegA.fn (o : RegA) (op : BitVec 6) (f : BitVec 3) : (o.cut op f).fn = f := fn_join f
theorem ParkOnly.fn (o : ParkOnly) (u : Bool) (op : BitVec 6) (f : BitVec 3) : (o.cut u op f).fn = f := fn_join f
theorem EngOp3.fn (o : EngOp3) (op : BitVec 6) (f : BitVec 3) : (o.cut op f).fn = f := fn_join f
theorem EngOp2.fn (o : EngOp2) (op : BitVec 6) (f : BitVec 3) : (o.cut op f).fn = f := fn_join f
theorem SysOp.fn (o : SysOp) (f : BitVec 3) : (o.cut f).fn = f := fn_join f
theorem CodeOp.fn (o : CodeOp) (f : BitVec 3) : (o.cut f).fn = f := fn_join f
theorem UImm.fn (o : UImm) (op : BitVec 6) : (o.cut op).fn = 0 := fn_join 0
theorem RegD.fn (o : RegD) (op : BitVec 6) : (o.cut op).fn = 0 := fn_join 0
theorem RepImm.fn (o : RepImm) : o.cut.fn = 0 := fn_join 0
theorem RepReg.fn (o : RepReg) : o.cut.fn = 1 := fn_join 1
theorem BsD.fn (o : BsD) : o.cut.fn = 0 := fn_join 0
theorem BsA.fn (o : BsA) : o.cut.fn = 1 := fn_join 1
theorem BsDA.fn (o : BsDA) : o.cut.fn = 2 := fn_join 2
theorem FenceOp.read (o : FenceOp) : o.cut.fenceOp = some o := by
  have h : o.cut.fn = o.scope.bits := fn_join _
  unfold Cut.fenceOp
  rw [h, scopeOf_bits]
  rfl

/-! ### The words of the front-end extension -/

theorem HartOp.fields (o : HartOp) (f : BitVec 3) :
    (o.word f).extractLsb' 7 5 = o.rd ∧ (o.word f).extractLsb' 15 5 = o.rs1 ∧ (o.word f).extractLsb' 20 5 = o.rs2
      ∧ (o.word f).extractLsb' 0 7 = 0x0B ∧ (o.word f).extractLsb' 25 7 = 0 ∧ (o.word f).extractLsb' 12 3 = f := by
  refine ⟨?_, ?_, ?_, extract_low _ _, ?_, ?_⟩ <;>
  · ext k hk
    simp only [HartOp.word, BitVec.getElem_extractLsb', BitVec.getLsbD_append]
    simp (disch := omega) only [if_neg, if_pos, BitVec.getLsbD_eq_getElem]
    congr 1
    omega

end Sys2Proof
end

