-- ==== Sys2Proof/Laws/PerInstr.lean ====
section
/-!
SUPPORT. Statements made instruction by instruction. Roundtrip: the word that the encoder gives a well-formed
instruction decodes to that instruction, with every operand as it was.
-/
namespace Sys2Proof.Laws.Roundtrip

/-- The word of a well-formed instruction decodes to it, in the stream that it belongs to. -/
def Statement (i : Instr) : Prop :=
  i.wf = true → ∀ w, encode i = some w → (if i.onHart then decodeHart w else decodeFibre w) = some i

/-- What decoding a cut gives decides what decoding its word gives. -/
theorem of_lane {i : Instr} {c : Cut} (hu : c.uni = false) (h : decodeLane c = some i) : decodeFibre c.word = some i := by
  simp [decodeFibre, hu, h]

theorem of_uniform {i : Instr} {c : Cut} (hu : c.uni = true) (h : decodeUniform c = some i) :
    decodeFibre c.word = some i := by
  simp [decodeFibre, hu, h]

theorem iadd : ∀ o, Statement (.iadd o)
  | ⟨_, z, _, _, _⟩, _, _, h => Option.some.inj h ▸ (of_lane rfl (by cases z <;> rfl))

theorem isub : ∀ o, Statement (.isub o)
  | ⟨_, z, _, _, _⟩, _, _, h => Option.some.inj h ▸ (of_lane rfl (by cases z <;> rfl))

theorem iaddi (o) : Statement (.iaddi o) := fun hw _ h =>
  Option.some.inj h ▸ (of_lane rfl (congrArg (Option.map Instr.iaddi) (LaneImm.read o _ hw)))

theorem imul : ∀ o, Statement (.imul o)
  | ⟨_, z, _, _, _⟩, _, _, h => Option.some.inj h ▸ (of_lane rfl (by cases z <;> rfl))

theorem imulhS : ∀ o, Statement (.imulhS o)
  | ⟨_, z, _, _, _⟩, _, _, h => Option.some.inj h ▸ (of_lane rfl (by cases z <;> rfl))

theorem imulhU : ∀ o, Statement (.imulhU o)
  | ⟨_, z, _, _, _⟩, _, _, h => Option.some.inj h ▸ (of_lane rfl (by cases z <;> rfl))

theorem imad : ∀ o, Statement (.imad o)
  | ⟨_, z, _, _, _⟩, _, _, h => Option.some.inj h ▸ (of_lane rfl (by cases z <;> rfl))

theorem iminS : ∀ o, Statement (.iminS o)
  | ⟨_, z, _, _, _⟩, _, _, h => Option.some.inj h ▸ (of_lane rfl (by cases z <;> rfl))

theorem iminU : ∀ o, Statement (.iminU o)
  | ⟨_, z, _, _, _⟩, _, _, h => Option.some.inj h ▸ (of_lane rfl (by cases z <;> rfl))

theorem imaxS : ∀ o, Statement (.imaxS o)
  | ⟨_, z, _, _, _⟩, _, _, h => Option.some.inj h ▸ (of_lane rfl (by cases z <;> rfl))

theorem imaxU : ∀ o, Statement (.imaxU o)
  | ⟨_, z, _, _, _⟩, _, _, h => Option.some.inj h ▸ (of_lane rfl (by cases z <;> rfl))

theorem iabs (o) : Statement (.iabs o) := fun hw _ h =>
  Option.some.inj h ▸ (of_lane rfl (congrArg (Option.map Instr.iabs) (LaneOp2.read o _ _ hw)))

theorem popc (o) : Statement (.popc o) := fun hw _ h =>
  Option.some.inj h ▸ (of_lane rfl (congrArg (Option.map Instr.popc) (LaneOp2.read o _ _ hw)))

theorem clz (o) : Statement (.clz o) := fun hw _ h =>
  Option.some.inj h ▸ (of_lane rfl (congrArg (Option.map Instr.clz) (LaneOp2.read o _ _ hw)))

theorem ctz (o) : Statement (.ctz o) := fun hw _ h =>
  Option.some.inj h ▸ (of_lane rfl (congrArg (Option.map Instr.ctz) (LaneOp2.read o _ _ hw)))

theorem brev (o) : Statement (.brev o) := fun hw _ h =>
  Option.some.inj h ▸ (of_lane rfl (congrArg (Option.map Instr.brev) (LaneOp2.read o _ _ hw)))

theorem icmpEq : ∀ o, Statement (.icmpEq o)
  | ⟨_, z, _, _, _⟩, _, _, h => Option.some.inj h ▸ (of_lane rfl (by cases z <;> rfl))

theorem icmpNe : ∀ o, Statement (.icmpNe o)
  | ⟨_, z, _, _, _⟩, _, _, h => Option.some.inj h ▸ (of_lane rfl (by cases z <;> rfl))

theorem icmpLtS : ∀ o, Statement (.icmpLtS o)
  | ⟨_, z, _, _, _⟩, _, _, h => Option.some.inj h ▸ (of_lane rfl (by cases z <;> rfl))

theorem icmpLtU : ∀ o, Statement (.icmpLtU o)
  | ⟨_, z, _, _, _⟩, _, _, h => Option.some.inj h ▸ (of_lane rfl (by cases z <;> rfl))

theorem icmpGeS : ∀ o, Statement (.icmpGeS o)
  | ⟨_, z, _, _, _⟩, _, _, h => Option.some.inj h ▸ (of_lane rfl (by cases z <;> rfl))

theorem icmpGeU : ∀ o, Statement (.icmpGeU o)
  | ⟨_, z, _, _, _⟩, _, _, h => Option.some.inj h ▸ (of_lane rfl (by cases z <;> rfl))

theorem sel : ∀ o, Statement (.sel o)
  | ⟨_, z, _, _, _⟩, _, _, h => Option.some.inj h ▸ (of_lane rfl (by cases z <;> rfl))

theorem movi (o) : Statement (.movi o) := fun hw _ h => by
  obtain ⟨h1, h2⟩ := Bool.and_eq_true_iff.1 hw
  refine Option.some.inj h ▸ (of_lane rfl ?_)
  show Option.map Instr.movi (Option.filter _ (o.cut 0x0D).laneImm) = _
  rw [LaneImm.read o _ h1, Option.filter_some, h2]
  rfl

theorem lui (o) : Statement (.lui o) := fun hw _ h =>
  Option.some.inj h ▸ (of_lane rfl (congrArg (Option.map Instr.lui) (LaneImm.read o _ hw)))

theorem ori (o) : Statement (.ori o) := fun hw _ h =>
  Option.some.inj h ▸ (of_lane rfl (congrArg (Option.map Instr.ori) (LaneImm.read o _ hw)))

theorem andL : ∀ o, Statement (.andL o)
  | ⟨_, z, _, _, _⟩, _, _, h => Option.some.inj h ▸ (of_lane rfl (by cases z <;> rfl))

theorem andn : ∀ o, Statement (.andn o)
  | ⟨_, z, _, _, _⟩, _, _, h => Option.some.inj h ▸ (of_lane rfl (by cases z <;> rfl))

theorem orL : ∀ o, Statement (.orL o)
  | ⟨_, z, _, _, _⟩, _, _, h => Option.some.inj h ▸ (of_lane rfl (by cases z <;> rfl))

theorem xorL : ∀ o, Statement (.xorL o)
  | ⟨_, z, _, _, _⟩, _, _, h => Option.some.inj h ▸ (of_lane rfl (by cases z <;> rfl))

theorem shl : ∀ o, Statement (.shl o)
  | ⟨_, z, _, _, _⟩, _, _, h => Option.some.inj h ▸ (of_lane rfl (by cases z <;> rfl))

theorem shr : ∀ o, Statement (.shr o)
  | ⟨_, z, _, _, _⟩, _, _, h => Option.some.inj h ▸ (of_lane rfl (by cases z <;> rfl))

theorem sar : ∀ o, Statement (.sar o)
  | ⟨_, z, _, _, _⟩, _, _, h => Option.some.inj h ▸ (of_lane rfl (by cases z <;> rfl))

theorem bfeS : ∀ o, Statement (.bfeS o)
  | ⟨_, z, _, _, _⟩, _, _, h => Option.some.inj h ▸ (of_lane rfl (by cases z <;> rfl))

theorem bfeU : ∀ o, Statement (.bfeU o)
  | ⟨_, z, _, _, _⟩, _, _, h => Option.some.inj h ▸ (of_lane rfl (by cases z <;> rfl))

theorem bfi : ∀ o, Statement (.bfi o)
  | ⟨_, z, _, _, _⟩, _, _, h => Option.some.inj h ▸ (of_lane rfl (by cases z <;> rfl))

theorem ilv2 : ∀ o, Statement (.ilv2 o)
  | ⟨_, z, _, _, _⟩, _, _, h => Option.some.inj h ▸ (of_lane rfl (by cases z <;> rfl))

theorem ilv3 : ∀ o, Statement (.ilv3 o)
  | ⟨_, z, _, _, _⟩, _, _, h => Option.some.inj h ▸ (of_lane rfl (by cases z <;> rfl))

theorem dil2 : ∀ o, Statement (.dil2 o)
  | ⟨_, z, _, _, _⟩, _, _, h => Option.some.inj h ▸ (of_lane rfl (by cases z <;> rfl))

theorem dil3 : ∀ o, Statement (.dil3 o)
  | ⟨_, z, _, _, _⟩, _, _, h => Option.some.inj h ▸ (of_lane rfl (by cases z <;> rfl))

theorem rnd : ∀ o, Statement (.rnd o)
  | ⟨_, z, _, _, _⟩, _, _, h => Option.some.inj h ▸ (of_lane rfl (by cases z <;> rfl))

theorem fadd : ∀ o, Statement (.fadd o)
  | ⟨_, z, _, _, _⟩, _, _, h => Option.some.inj h ▸ (of_lane rfl (by cases z <;> rfl))

theorem fsub : ∀ o, Statement (.fsub o)
  | ⟨_, z, _, _, _⟩, _, _, h => Option.some.inj h ▸ (of_lane rfl (by cases z <;> rfl))

theorem fmul : ∀ o, Statement (.fmul o)
  | ⟨_, z, _, _, _⟩, _, _, h => Option.some.inj h ▸ (of_lane rfl (by cases z <;> rfl))

theorem ffma : ∀ o, Statement (.ffma o)
  | ⟨_, z, _, _, _⟩, _, _, h => Option.some.inj h ▸ (of_lane rfl (by cases z <;> rfl))

theorem fmin : ∀ o, Statement (.fmin o)
  | ⟨_, z, _, _, _⟩, _, _, h => Option.some.inj h ▸ (of_lane rfl (by cases z <;> rfl))

theorem fmax : ∀ o, Statement (.fmax o)
  | ⟨_, z, _, _, _⟩, _, _, h => Option.some.inj h ▸ (of_lane rfl (by cases z <;> rfl))

theorem fcmpEq : ∀ o, Statement (.fcmpEq o)
  | ⟨_, z, _, _, _⟩, _, _, h => Option.some.inj h ▸ (of_lane rfl (by cases z <;> rfl))

theorem fcmpLt : ∀ o, Statement (.fcmpLt o)
  | ⟨_, z, _, _, _⟩, _, _, h => Option.some.inj h ▸ (of_lane rfl (by cases z <;> rfl))

theorem fcmpLe : ∀ o, Statement (.fcmpLe o)
  | ⟨_, z, _, _, _⟩, _, _, h => Option.some.inj h ▸ (of_lane rfl (by cases z <;> rfl))

theorem fcmpUn : ∀ o, Statement (.fcmpUn o)
  | ⟨_, z, _, _, _⟩, _, _, h => Option.some.inj h ▸ (of_lane rfl (by cases z <;> rfl))

theorem fdiv : ∀ o, Statement (.fdiv o)
  | ⟨_, z, _, _, _⟩, _, _, h => Option.some.inj h ▸ (of_lane rfl (by cases z <;> rfl))

theorem frcp (o) : Statement (.frcp o) := fun hw _ h =>
  Option.some.inj h ▸ (of_lane rfl (congrArg (Option.map Instr.frcp) (LaneOp2.read o _ _ hw)))

theorem frsq (o) : Statement (.frsq o) := fun hw _ h =>
  Option.some.inj h ▸ (of_lane rfl (congrArg (Option.map Instr.frsq) (LaneOp2.read o _ _ hw)))

theorem fsqrt (o) : Statement (.fsqrt o) := fun hw _ h =>
  Option.some.inj h ▸ (of_lane rfl (congrArg (Option.map Instr.fsqrt) (LaneOp2.read o _ _ hw)))

theorem fex2 (o) : Statement (.fex2 o) := fun hw _ h =>
  Option.some.inj h ▸ (of_lane rfl (congrArg (Option.map Instr.fex2) (LaneOp2.read o _ _ hw)))

theorem flg2 (o) : Statement (.flg2 o) := fun hw _ h =>
  Option.some.inj h ▸ (of_lane rfl (congrArg (Option.map Instr.flg2) (LaneOp2.read o _ _ hw)))

theorem fsinpi (o) : Statement (.fsinpi o) := fun hw _ h =>
  Option.some.inj h ▸ (of_lane rfl (congrArg (Option.map Instr.fsinpi) (LaneOp2.read o _ _ hw)))

theorem fcospi (o) : Statement (.fcospi o) := fun hw _ h =>
  Option.some.inj h ▸ (of_lane rfl (congrArg (Option.map Instr.fcospi) (LaneOp2.read o _ _ hw)))

theorem hadd2 : ∀ o, Statement (.hadd2 o)
  | ⟨_, z, _, _, _⟩, _, _, h => Option.some.inj h ▸ (of_lane rfl (by cases z <;> rfl))

theorem hmul2 : ∀ o, Statement (.hmul2 o)
  | ⟨_, z, _, _, _⟩, _, _, h => Option.some.inj h ▸ (of_lane rfl (by cases z <;> rfl))

theorem hfma2 : ∀ o, Statement (.hfma2 o)
  | ⟨_, z, _, _, _⟩, _, _, h => Option.some.inj h ▸ (of_lane rfl (by cases z <;> rfl))

theorem hmin2 : ∀ o, Statement (.hmin2 o)
  | ⟨_, z, _, _, _⟩, _, _, h => Option.some.inj h ▸ (of_lane rfl (by cases z <;> rfl))

theorem hmax2 : ∀ o, Statement (.hmax2 o)
  | ⟨_, z, _, _, _⟩, _, _, h => Option.some.inj h ▸ (of_lane rfl (by cases z <;> rfl))

theorem cvt (o) : Statement (.cvt o) := fun hw _ h =>
  Option.some.inj h ▸ (of_lane rfl (congrArg (Option.map Instr.cvt) (CvtOp.read o hw)))

theorem shflIdx (o) : Statement (.shflIdx o) := fun _ _ h => Option.some.inj h ▸ (of_lane rfl rfl)

theorem shflXor (o) : Statement (.shflXor o) := fun _ _ h => Option.some.inj h ▸ (of_lane rfl rfl)

theorem shflUp (o) : Statement (.shflUp o) := fun _ _ h => Option.some.inj h ▸ (of_lane rfl rfl)

theorem shflDn (o) : Statement (.shflDn o) := fun _ _ h => Option.some.inj h ▸ (of_lane rfl rfl)

theorem voteAny (o) : Statement (.voteAny o) := fun _ _ h => Option.some.inj h ▸ (of_lane rfl rfl)

theorem voteAll (o) : Statement (.voteAll o) := fun _ _ h => Option.some.inj h ▸ (of_lane rfl rfl)

theorem voteBallot (o) : Statement (.voteBallot o) := fun _ _ h => Option.some.inj h ▸ (of_lane rfl rfl)

theorem qdxC (o) : Statement (.qdxC o) := fun _ _ h => Option.some.inj h ▸ (of_lane rfl rfl)

theorem qdxF (o) : Statement (.qdxF o) := fun _ _ h => Option.some.inj h ▸ (of_lane rfl rfl)

theorem qdyC (o) : Statement (.qdyC o) := fun _ _ h => Option.some.inj h ▸ (of_lane rfl rfl)

theorem qdyF (o) : Statement (.qdyF o) := fun _ _ h => Option.some.inj h ▸ (of_lane rfl rfl)

theorem brz (o) : Statement (.brz o) := fun _ _ h =>
  Option.some.inj h ▸ (of_lane rfl (congrArg (Option.map Instr.brz) (LaneBranch.read o _ _)))

theorem brnz (o) : Statement (.brnz o) := fun _ _ h =>
  Option.some.inj h ▸ (of_lane rfl (congrArg (Option.map Instr.brnz) (LaneBranch.read o _ _)))

theorem fend (o) : Statement (.fend o) := fun _ _ h => Option.some.inj h ▸ (of_lane rfl rfl)

theorem fspawn (o) : Statement (.fspawn o) := fun _ _ h => Option.some.inj h ▸ (of_lane rfl rfl)

theorem mma (o) : Statement (.mma o) := fun _ _ h =>
  Option.some.inj h ▸ (of_lane rfl (congrArg (Option.map Instr.mma) (MmaOp.read o _)))

theorem mmas (o) : Statement (.mmas o) := fun _ _ h =>
  Option.some.inj h ▸ (of_lane rfl (congrArg (Option.map Instr.mmas) (MmaOp.read o _)))

theorem ldb : ∀ o, Statement (.ldb o)
  | ⟨_, z, _, _, _⟩, _, _, h => Option.some.inj h ▸ (of_lane rfl (by cases z <;> rfl))

theorem stb : ∀ o, Statement (.stb o)
  | ⟨_, z, _, _, _⟩, _, _, h => Option.some.inj h ▸ (of_lane rfl (by cases z <;> rfl))

theorem atbAdd (o) : Statement (.atbAdd o) := fun _ _ h => Option.some.inj h ▸ (of_lane rfl (by
  unfold decodeLane; rw [Regs3.fn]; rfl))

theorem atbExch (o) : Statement (.atbExch o) := fun _ _ h => Option.some.inj h ▸ (of_lane rfl (by
  unfold decodeLane; rw [Regs3.fn]; rfl))

theorem atbCas (o) : Statement (.atbCas o) := fun _ _ h => Option.some.inj h ▸ (of_lane rfl (by
  unfold decodeLane; rw [Regs3.fn]; rfl))

theorem atbAnd (o) : Statement (.atbAnd o) := fun _ _ h => Option.some.inj h ▸ (of_lane rfl (by
  unfold decodeLane; rw [Regs3.fn]; rfl))

theorem atbOr (o) : Statement (.atbOr o) := fun _ _ h => Option.some.inj h ▸ (of_lane rfl (by
  unfold decodeLane; rw [Regs3.fn]; rfl))

theorem atbXor (o) : Statement (.atbXor o) := fun _ _ h => Option.some.inj h ▸ (of_lane rfl (by
  unfold decodeLane; rw [Regs3.fn]; rfl))

theorem atbMinU (o) : Statement (.atbMinU o) := fun _ _ h => Option.some.inj h ▸ (of_lane rfl (by
  unfold decodeLane; rw [Regs3.fn]; rfl))

theorem atbMaxU (o) : Statement (.atbMaxU o) := fun _ _ h => Option.some.inj h ▸ (of_lane rfl (by
  unfold decodeLane; rw [Regs3.fn]; rfl))

theorem atbMinS (o) : Statement (.atbMinS o) := fun _ _ h => Option.some.inj h ▸ (of_lane rfl (by
  unfold decodeLane; rw [Regs3.fn]; rfl))

theorem atbMaxS (o) : Statement (.atbMaxS o) := fun _ _ h => Option.some.inj h ▸ (of_lane rfl (by
  unfold decodeLane; rw [Regs3.fn]; rfl))

theorem atb64Add (o) : Statement (.atb64Add o) := fun _ _ h => Option.some.inj h ▸ (of_lane rfl (by
  unfold decodeLane; rw [Regs3.fn]; rfl))

theorem atb64Exch (o) : Statement (.atb64Exch o) := fun _ _ h => Option.some.inj h ▸ (of_lane rfl (by
  unfold decodeLane; rw [Regs3.fn]; rfl))

theorem atb64Cas (o) : Statement (.atb64Cas o) := fun _ _ h => Option.some.inj h ▸ (of_lane rfl (by
  unfold decodeLane; rw [Regs3.fn]; rfl))

theorem atb64MinU (o) : Statement (.atb64MinU o) := fun _ _ h => Option.some.inj h ▸ (of_lane rfl (by
  unfold decodeLane; rw [Regs3.fn]; rfl))

theorem atb64MaxU (o) : Statement (.atb64MaxU o) := fun _ _ h => Option.some.inj h ▸ (of_lane rfl (by
  unfold decodeLane; rw [Regs3.fn]; rfl))

theorem redbAdd (o) : Statement (.redbAdd o) := fun _ _ h => Option.some.inj h ▸ (of_lane rfl (by
  unfold decodeLane; rw [Regs3.fn]; rfl))

theorem redbFadd (o) : Statement (.redbFadd o) := fun _ _ h => Option.some.inj h ▸ (of_lane rfl (by
  unfold decodeLane; rw [Regs3.fn]; rfl))

theorem redbAnd (o) : Statement (.redbAnd o) := fun _ _ h => Option.some.inj h ▸ (of_lane rfl (by
  unfold decodeLane; rw [Regs3.fn]; rfl))

theorem redbOr (o) : Statement (.redbOr o) := fun _ _ h => Option.some.inj h ▸ (of_lane rfl (by
  unfold decodeLane; rw [Regs3.fn]; rfl))

theorem redbXor (o) : Statement (.redbXor o) := fun _ _ h => Option.some.inj h ▸ (of_lane rfl (by
  unfold decodeLane; rw [Regs3.fn]; rfl))

theorem redbMinU (o) : Statement (.redbMinU o) := fun _ _ h => Option.some.inj h ▸ (of_lane rfl (by
  unfold decodeLane; rw [Regs3.fn]; rfl))

theorem redbMaxU (o) : Statement (.redbMaxU o) := fun _ _ h => Option.some.inj h ▸ (of_lane rfl (by
  unfold decodeLane; rw [Regs3.fn]; rfl))

theorem lds : ∀ o, Statement (.lds o)
  | ⟨_, z, _, _, _⟩, _, _, h => Option.some.inj h ▸ (of_lane rfl (by cases z <;> rfl))

theorem sts : ∀ o, Statement (.sts o)
  | ⟨_, z, _, _, _⟩, _, _, h => Option.some.inj h ▸ (of_lane rfl (by cases z <;> rfl))

theorem atsAdd (o) : Statement (.atsAdd o) := fun _ _ h => Option.some.inj h ▸ (of_lane rfl (by
  unfold decodeLane; rw [Regs3.fn]; rfl))

theorem atsExch (o) : Statement (.atsExch o) := fun _ _ h => Option.some.inj h ▸ (of_lane rfl (by
  unfold decodeLane; rw [Regs3.fn]; rfl))

theorem atsCas (o) : Statement (.atsCas o) := fun _ _ h => Option.some.inj h ▸ (of_lane rfl (by
  unfold decodeLane; rw [Regs3.fn]; rfl))

theorem atsAnd (o) : Statement (.atsAnd o) := fun _ _ h => Option.some.inj h ▸ (of_lane rfl (by
  unfold decodeLane; rw [Regs3.fn]; rfl))

theorem atsOr (o) : Statement (.atsOr o) := fun _ _ h => Option.some.inj h ▸ (of_lane rfl (by
  unfold decodeLane; rw [Regs3.fn]; rfl))

theorem atsXor (o) : Statement (.atsXor o) := fun _ _ h => Option.some.inj h ▸ (of_lane rfl (by
  unfold decodeLane; rw [Regs3.fn]; rfl))

theorem atsMinU (o) : Statement (.atsMinU o) := fun _ _ h => Option.some.inj h ▸ (of_lane rfl (by
  unfold decodeLane; rw [Regs3.fn]; rfl))

theorem atsMaxU (o) : Statement (.atsMaxU o) := fun _ _ h => Option.some.inj h ▸ (of_lane rfl (by
  unfold decodeLane; rw [Regs3.fn]; rfl))

theorem atsMinS (o) : Statement (.atsMinS o) := fun _ _ h => Option.some.inj h ▸ (of_lane rfl (by
  unfold decodeLane; rw [Regs3.fn]; rfl))

theorem atsMaxS (o) : Statement (.atsMaxS o) := fun _ _ h => Option.some.inj h ▸ (of_lane rfl (by
  unfold decodeLane; rw [Regs3.fn]; rfl))

theorem lda : ∀ o, Statement (.lda o)
  | ⟨_, z, _, _, _⟩, _, _, h => Option.some.inj h ▸ (of_lane rfl (by cases z <;> rfl))

theorem sta : ∀ o, Statement (.sta o)
  | ⟨_, z, _, _, _⟩, _, _, h => Option.some.inj h ▸ (of_lane rfl (by cases z <;> rfl))

theorem ldw (o) : Statement (.ldw o) := fun _ _ h => Option.some.inj h ▸ (of_lane rfl rfl)

theorem cva : ∀ o, Statement (.cva o)
  | ⟨_, z, _, _, _⟩, _, _, h => Option.some.inj h ▸ (of_lane rfl (by cases z <;> rfl))

theorem acw : ∀ o, Statement (.acw o)
  | ⟨_, z, _, _, _⟩, _, _, h => Option.some.inj h ▸ (of_lane rfl (by cases z <;> rfl))

theorem trace (o) : Statement (.trace o) := fun _ _ h => Option.some.inj h ▸ (of_lane rfl rfl)

theorem tres (o) : Statement (.tres o) := fun _ _ h => Option.some.inj h ▸ (of_lane rfl rfl)

theorem gframe (o) : Statement (.gframe o) := fun _ _ h => Option.some.inj h ▸ (of_lane rfl rfl)

theorem gupd (o) : Statement (.gupd o) := fun _ _ h => Option.some.inj h ▸ (of_lane rfl rfl)

theorem smp (o) : Statement (.smp o) := fun _ _ h => Option.some.inj h ▸ (of_lane rfl rfl)

theorem smpd (o) : Statement (.smpd o) := fun _ _ h => Option.some.inj h ▸ (of_lane rfl rfl)

theorem smpl (o) : Statement (.smpl o) := fun _ _ h => Option.some.inj h ▸ (of_lane rfl rfl)

theorem ldimg : ∀ o, Statement (.ldimg o)
  | ⟨_, z, _, _, _⟩, _, _, h => Option.some.inj h ▸ (of_lane rfl (by cases z <;> rfl))

theorem stimg : ∀ o, Statement (.stimg o)
  | ⟨_, z, _, _, _⟩, _, _, h => Option.some.inj h ▸ (of_lane rfl (by cases z <;> rfl))

theorem emitv (o) : Statement (.emitv o) := fun _ _ h => Option.some.inj h ▸ (of_lane rfl rfl)

theorem emitp (o) : Statement (.emitp o) := fun _ _ h => Option.some.inj h ▸ (of_lane rfl rfl)

theorem exportPixel (o) : Statement (.exportPixel o) := fun _ _ h => Option.some.inj h ▸ (of_lane rfl rfl)

theorem uadd (o) : Statement (.uadd o) := fun _ _ h => Option.some.inj h ▸ (of_uniform rfl (by
  unfold decodeUniform; rw [Regs3.fn]; rfl))

theorem usub (o) : Statement (.usub o) := fun _ _ h => Option.some.inj h ▸ (of_uniform rfl (by
  unfold decodeUniform; rw [Regs3.fn]; rfl))

theorem umul (o) : Statement (.umul o) := fun _ _ h => Option.some.inj h ▸ (of_uniform rfl (by
  unfold decodeUniform; rw [Regs3.fn]; rfl))

theorem uand (o) : Statement (.uand o) := fun _ _ h => Option.some.inj h ▸ (of_uniform rfl (by
  unfold decodeUniform; rw [Regs3.fn]; rfl))

theorem uor (o) : Statement (.uor o) := fun _ _ h => Option.some.inj h ▸ (of_uniform rfl (by
  unfold decodeUniform; rw [Regs3.fn]; rfl))

theorem uxor (o) : Statement (.uxor o) := fun _ _ h => Option.some.inj h ▸ (of_uniform rfl (by
  unfold decodeUniform; rw [Regs3.fn]; rfl))

theorem ushl (o) : Statement (.ushl o) := fun _ _ h => Option.some.inj h ▸ (of_uniform rfl (by
  unfold decodeUniform; rw [Regs3.fn]; rfl))

theorem ushr (o) : Statement (.ushr o) := fun _ _ h => Option.some.inj h ▸ (of_uniform rfl (by
  unfold decodeUniform; rw [Regs3.fn]; rfl))

theorem usar (o) : Statement (.usar o) := fun _ _ h => Option.some.inj h ▸ (of_uniform rfl (by
  unfold decodeUniform; rw [Regs3.fn]; rfl))

theorem ucmpEq (o) : Statement (.ucmpEq o) := fun _ _ h => Option.some.inj h ▸ (of_uniform rfl (by
  unfold decodeUniform; rw [Regs3.fn]; rfl))

theorem ucmpNe (o) : Statement (.ucmpNe o) := fun _ _ h => Option.some.inj h ▸ (of_uniform rfl (by
  unfold decodeUniform; rw [Regs3.fn]; rfl))

theorem ucmpLtS (o) : Statement (.ucmpLtS o) := fun _ _ h => Option.some.inj h ▸ (of_uniform rfl (by
  unfold decodeUniform; rw [Regs3.fn]; rfl))

theorem ucmpGeS (o) : Statement (.ucmpGeS o) := fun _ _ h => Option.some.inj h ▸ (of_uniform rfl (by
  unfold decodeUniform; rw [Regs3.fn]; rfl))

theorem ucmpLtU (o) : Statement (.ucmpLtU o) := fun _ _ h => Option.some.inj h ▸ (of_uniform rfl (by
  unfold decodeUniform; rw [Regs3.fn]; rfl))

theorem ucmpGeU (o) : Statement (.ucmpGeU o) := fun _ _ h => Option.some.inj h ▸ (of_uniform rfl (by
  unfold decodeUniform; rw [Regs3.fn]; rfl))

theorem uaddi (o) : Statement (.uaddi o) := fun _ _ h =>
  Option.some.inj h ▸ (of_uniform rfl (by
    unfold decodeUniform; rw [UImm.fn]; exact congrArg (Option.map Instr.uaddi) (UImm.read o _)))

theorem umovi (o) : Statement (.umovi o) := fun _ _ h =>
  Option.some.inj h ▸ (of_uniform rfl (congrArg (Option.map Instr.umovi) (UImm17.read o _)))

theorem ului (o) : Statement (.ului o) := fun _ _ h =>
  Option.some.inj h ▸ (of_uniform rfl (congrArg (Option.map Instr.ului) (UImm17.read o _)))

theorem jmp (o) : Statement (.jmp o) := fun hw _ h =>
  Option.some.inj h ▸ (of_uniform rfl (congrArg (Option.map Instr.jmp) (JumpOp.read o _ hw)))

theorem ubrz (o) : Statement (.ubrz o) := fun hw _ h => by
  refine Option.some.inj h ▸ (of_uniform rfl ?_)
  show Option.map Instr.ubrz (Option.filter _ (o.cut true 0x09).laneBranch) = _
  rw [LaneBranch.read o, Option.filter_some, show hintUniformOk o.hint = true from hw]
  rfl

theorem ubrnz (o) : Statement (.ubrnz o) := fun hw _ h => by
  refine Option.some.inj h ▸ (of_uniform rfl ?_)
  show Option.map Instr.ubrnz (Option.filter _ (o.cut true 0x0A).laneBranch) = _
  rw [LaneBranch.read o, Option.filter_some, show hintUniformOk o.hint = true from hw]
  rfl

theorem call (o) : Statement (.call o) := fun hw _ h =>
  Option.some.inj h ▸ (of_uniform rfl (congrArg (Option.map Instr.call) (JumpOp.read o _ hw)))

theorem ret (o) : Statement (.ret o) := fun _ _ h => Option.some.inj h ▸ (of_uniform rfl (by
  unfold decodeUniform; rw [ParkOnly.fn]; rfl))

theorem jr (o) : Statement (.jr o) := fun _ _ h => Option.some.inj h ▸ (of_uniform rfl (by
  unfold decodeUniform; rw [RegA.fn]; rfl))

theorem repImmediate (o) : Statement (.repImmediate o) := fun _ _ h =>
  Option.some.inj h ▸ (of_uniform rfl (by
    unfold decodeUniform; rw [RepImm.fn]; exact congrArg (Option.map Instr.repImmediate) (RepImm.read o)))

theorem repRegister (o) : Statement (.repRegister o) := fun _ _ h =>
  Option.some.inj h ▸ (of_uniform rfl (by
    unfold decodeUniform; rw [RepReg.fn]; exact congrArg (Option.map Instr.repRegister) (RepReg.read o)))

theorem nop (o) : Statement (.nop o) := fun _ _ h => Option.some.inj h ▸ (of_uniform rfl (by
  unfold decodeUniform; rw [ParkOnly.fn]; rfl))

theorem park (o) : Statement (.park o) := fun _ _ h => Option.some.inj h ▸ (of_uniform rfl (by
  unfold decodeUniform; rw [ParkOnly.fn]; rfl))

theorem binit (o) : Statement (.binit o) := fun _ _ h => Option.some.inj h ▸ (of_uniform rfl (by
  unfold decodeUniform; rw [RegsAB.fn]; rfl))

theorem barr (o) : Statement (.barr o) := fun _ _ h => Option.some.inj h ▸ (of_uniform rfl (by
  unfold decodeUniform; rw [Regs2.fn]; rfl))

theorem barrF (o) : Statement (.barrF o) := fun _ _ h => Option.some.inj h ▸ (of_uniform rfl (by
  unfold decodeUniform; rw [Regs2.fn]; rfl))

theorem bexp (o) : Statement (.bexp o) := fun _ _ h => Option.some.inj h ▸ (of_uniform rfl (by
  unfold decodeUniform; rw [RegsAB.fn]; rfl))

theorem bwait (o) : Statement (.bwait o) := fun _ _ h => Option.some.inj h ▸ (of_uniform rfl (by
  unfold decodeUniform; rw [RegsAB.fn]; rfl))

theorem fence (o) : Statement (.fence o) := fun _ _ h =>
  Option.some.inj h ▸ (of_uniform rfl (congrArg (Option.map Instr.fence) (FenceOp.read o)))

theorem batt (o) : Statement (.batt o) := fun _ _ h => Option.some.inj h ▸ (of_uniform rfl (by
  unfold decodeUniform; rw [Regs2.fn]; rfl))

theorem bres (o) : Statement (.bres o) := fun _ _ h => Option.some.inj h ▸ (of_uniform rfl (by
  unfold decodeUniform; rw [Regs3.fn]; rfl))

theorem bgive (o) : Statement (.bgive o) := fun _ _ h => Option.some.inj h ▸ (of_uniform rfl (by
  unfold decodeUniform; rw [RegsAB.fn]; rfl))

theorem brel (o) : Statement (.brel o) := fun _ _ h => Option.some.inj h ▸ (of_uniform rfl (by
  unfold decodeUniform; rw [RegA.fn]; rfl))

theorem bmap (o) : Statement (.bmap o) := fun _ _ h => Option.some.inj h ▸ (of_uniform rfl (by
  unfold decodeUniform; rw [Regs2.fn]; rfl))

theorem cpy (o) : Statement (.cpy o) := fun _ _ h => Option.some.inj h ▸ (of_uniform rfl (by
  unfold decodeUniform; rw [EngOp3.fn]; rfl))

theorem cpyo (o) : Statement (.cpyo o) := fun _ _ h => Option.some.inj h ▸ (of_uniform rfl (by
  unfold decodeUniform; rw [EngOp3.fn]; rfl))

theorem gath (o) : Statement (.gath o) := fun _ _ h => Option.some.inj h ▸ (of_uniform rfl (by
  unfold decodeUniform; rw [EngOp3.fn]; rfl))

theorem mcast (o) : Statement (.mcast o) := fun _ _ h => Option.some.inj h ▸ (of_uniform rfl (by
  unfold decodeUniform; rw [EngOp3.fn]; rfl))

theorem cvdecl (o) : Statement (.cvdecl o) := fun hw _ h =>
  Option.some.inj h ▸ (of_uniform rfl (congrArg (Option.map Instr.cvdecl) (CvdeclOp.read o hw)))

theorem rinit (o) : Statement (.rinit o) := fun _ _ h => Option.some.inj h ▸ (of_uniform rfl (by
  unfold decodeUniform; rw [Regs2.fn]; rfl))

theorem racq (o) : Statement (.racq o) := fun _ _ h => Option.some.inj h ▸ (of_uniform rfl (by
  unfold decodeUniform; rw [Regs2.fn]; rfl))

theorem rdone (o) : Statement (.rdone o) := fun _ _ h => Option.some.inj h ▸ (of_uniform rfl (by
  unfold decodeUniform; rw [Regs2.fn]; rfl))

theorem enq (o) : Statement (.enq o) := fun _ _ h => Option.some.inj h ▸ (of_uniform rfl (by
  unfold decodeUniform; rw [EngOp3.fn]; rfl))

theorem deq (o) : Statement (.deq o) := fun _ _ h => Option.some.inj h ▸ (of_uniform rfl (by
  unfold decodeUniform; rw [EngOp3.fn]; rfl))

theorem qarm (o) : Statement (.qarm o) := fun _ _ h => Option.some.inj h ▸ (of_uniform rfl (by
  unfold decodeUniform; rw [EngOp3.fn]; rfl))

theorem qstat (o) : Statement (.qstat o) := fun _ _ h => Option.some.inj h ▸ (of_uniform rfl (by
  unfold decodeUniform; rw [EngOp3.fn]; rfl))

theorem send (o) : Statement (.send o) := fun _ _ h => Option.some.inj h ▸ (of_uniform rfl (by
  unfold decodeUniform; rw [EngOp2.fn]; rfl))

theorem recv (o) : Statement (.recv o) := fun _ _ h => Option.some.inj h ▸ (of_uniform rfl (by
  unfold decodeUniform; rw [EngOp3.fn]; rfl))

theorem mstat (o) : Statement (.mstat o) := fun _ _ h => Option.some.inj h ▸ (of_uniform rfl (by
  unfold decodeUniform; rw [EngOp2.fn]; rfl))

theorem coll (o) : Statement (.coll o) := fun _ _ h => Option.some.inj h ▸ (of_uniform rfl (by
  unfold decodeUniform; rw [EngOp2.fn]; rfl))

theorem comp (o) : Statement (.comp o) := fun _ _ h => Option.some.inj h ▸ (of_uniform rfl (by
  unfold decodeUniform; rw [EngOp2.fn]; rfl))

theorem bsr (o) : Statement (.bsr o) := fun _ _ h =>
  Option.some.inj h ▸ (of_uniform rfl (by
    unfold decodeUniform; rw [BsD.fn]; exact congrArg (Option.map Instr.bsr) (BsD.read o)))

theorem bsw (o) : Statement (.bsw o) := fun _ _ h =>
  Option.some.inj h ▸ (of_uniform rfl (by
    unfold decodeUniform; rw [BsA.fn]; exact congrArg (Option.map Instr.bsw) (BsA.read o)))

theorem bsadd (o) : Statement (.bsadd o) := fun _ _ h =>
  Option.some.inj h ▸ (of_uniform rfl (by
    unfold decodeUniform; rw [BsDA.fn]; exact congrArg (Option.map Instr.bsadd) (BsDA.read o)))

theorem srd (o) : Statement (.srd o) := fun _ _ h =>
  Option.some.inj h ▸ (of_uniform rfl (by
    unfold decodeUniform; rw [SysOp.fn]; exact congrArg (Option.map Instr.srd) (SysOp.read o _)))

theorem swr (o) : Statement (.swr o) := fun hw _ h => by
  refine Option.some.inj h ▸ (of_uniform rfl ?_)
  unfold decodeUniform
  rw [SysOp.fn]
  show Option.map Instr.swr (Option.filter _ (o.cut 1).sysOp) = _
  rw [SysOp.read o, Option.filter_some, show (!o.reg.readClears) = true from hw]
  rfl

theorem time (o) : Statement (.time o) := fun _ _ h => Option.some.inj h ▸ (of_uniform rfl (by
  unfold decodeUniform; rw [RegD.fn]; rfl))

theorem yield (o) : Statement (.yield o) := fun _ _ h => Option.some.inj h ▸ (of_uniform rfl (by
  unfold decodeUniform; rw [ParkOnly.fn]; rfl))

theorem trap (o) : Statement (.trap o) := fun _ _ h =>
  Option.some.inj h ▸ (of_uniform rfl (by
    unfold decodeUniform; rw [CodeOp.fn]; exact congrArg (Option.map Instr.trap) (CodeOp.read o _)))

theorem brk (o) : Statement (.brk o) := fun _ _ h =>
  Option.some.inj h ▸ (of_uniform rfl (by
    unfold decodeUniform; rw [CodeOp.fn]; exact congrArg (Option.map Instr.brk) (CodeOp.read o _)))

theorem ntfy (o) : Statement (.ntfy o) := fun _ _ h => Option.some.inj h ▸ (of_uniform rfl (by
  unfold decodeUniform; rw [RegsAB.fn]; rfl))

theorem rfetch (o) : Statement (.rfetch o) := fun _ _ h => Option.some.inj h ▸  (by
  obtain ⟨h1, h2, h3, h4, h5, h6⟩ := o.fields 0
  simp only [decodeHart, h1, h2, h3, h4, h5, h6]
  rfl)

theorem xbfx (o) : Statement (.xbfx o) := fun _ _ h => Option.some.inj h ▸  (by
  obtain ⟨h1, h2, h3, h4, h5, h6⟩ := o.fields 1
  simp only [decodeHart, h1, h2, h3, h4, h5, h6]
  rfl)

theorem swait (o) : Statement (.swait o) := fun _ _ h => Option.some.inj h ▸  (by
  obtain ⟨h1, h2, h3, h4, h5, h6⟩ := o.fields 2
  simp only [decodeHart, h1, h2, h3, h4, h5, h6]
  rfl)

theorem disp (o) : Statement (.disp o) := fun _ _ h => Option.some.inj h ▸  (by
  obtain ⟨h1, h2, h3, h4, h5, h6⟩ := o.fields 3
  simp only [decodeHart, h1, h2, h3, h4, h5, h6]
  rfl)

theorem ringDoorbell (ring) (wptr) : Statement (.ringDoorbell ring wptr) := fun _ _ h => nomatch h

theorem launch (ring) : Statement (.launch ring) := fun _ _ h => nomatch h

theorem qcfg (ring) : Statement (.qcfg ring) := fun _ _ h => nomatch h

theorem qflush (ring) : Statement (.qflush ring) := fun _ _ h => nomatch h

theorem inval (ring) : Statement (.inval ring) := fun _ _ h => nomatch h

theorem signal (ring) : Statement (.signal ring) := fun _ _ h => nomatch h

theorem nopCommand (ring) : Statement (.nopCommand ring) := fun _ _ h => nomatch h

theorem blockReserve (block) : Statement (.blockReserve block) := fun _ _ h => nomatch h

theorem gangReserve (launch) : Statement (.gangReserve launch) := fun _ _ h => nomatch h

theorem launchCompletion (launch) : Statement (.launchCompletion launch) := fun _ _ h => nomatch h

theorem subsetYield (group) : Statement (.subsetYield group) := fun _ _ h => nomatch h

theorem resultReturn (i) : Statement (.resultReturn i) := fun _ _ h => nomatch h

theorem coreWake (core) : Statement (.coreWake core) := fun _ _ h => nomatch h

theorem notifyWriteArrival (i) : Statement (.notifyWriteArrival i) := fun _ _ h => nomatch h

theorem runAheadStop (group) : Statement (.runAheadStop group) := fun _ _ h => nomatch h

theorem asyncFaultEnqueue (i) : Statement (.asyncFaultEnqueue i) := fun _ _ h => nomatch h

theorem trapEntry (group) : Statement (.trapEntry group) := fun _ _ h => nomatch h

theorem faultLogWrite (i) : Statement (.faultLogWrite i) := fun _ _ h => nomatch h

theorem flack (entry) : Statement (.flack entry) := fun _ _ h => nomatch h

theorem giveDrainComplete (i) : Statement (.giveDrainComplete i) := fun _ _ h => nomatch h

theorem releaseDrainComplete (i) : Statement (.releaseDrainComplete i) := fun _ _ h => nomatch h

theorem bankClearDone (bank) : Statement (.bankClearDone bank) := fun _ _ h => nomatch h

theorem deliveryLanding (i) : Statement (.deliveryLanding i) := fun _ _ h => nomatch h

theorem barrierUnitApply (i) : Statement (.barrierUnitApply i) := fun _ _ h => nomatch h

theorem copyCommandComplete (command) : Statement (.copyCommandComplete command) := fun _ _ h => nomatch h

theorem ringFillStart (command) : Statement (.ringFillStart command) := fun _ _ h => nomatch h

theorem ringFillCount (command) : Statement (.ringFillCount command) := fun _ _ h => nomatch h

theorem mmaSetStart (block) (core) (cv) : Statement (.mmaSetStart block core cv) := fun _ _ h => nomatch h

theorem mmaOpComplete (i) : Statement (.mmaOpComplete i) := fun _ _ h => nomatch h

theorem traceComplete (ray) : Statement (.traceComplete ray) := fun _ _ h => nomatch h

theorem messageArrival (i) : Statement (.messageArrival i) := fun _ _ h => nomatch h

theorem wbMove (w) : Statement (.wbMove w) := fun _ _ h => nomatch h

theorem promotionServe (i) : Statement (.promotionServe i) := fun _ _ h => nomatch h

theorem sliceAtomicApply (i) : Statement (.sliceAtomicApply i) := fun _ _ h => nomatch h

theorem hostMemAccess (access) : Statement (.hostMemAccess access) := fun _ _ h => nomatch h

theorem registerWrite (offset) (value) : Statement (.registerWrite offset value) := fun _ _ h => nomatch h

theorem unassignedWord (w) : Statement (.unassignedWord w) := fun _ _ h => nomatch h

theorem hostWriteToHostLine (addr) (data) : Statement (.hostWriteToHostLine addr data) := fun _ _ h => nomatch h

theorem swaitTimeout (hart) : Statement (.swaitTimeout hart) := fun _ _ h => nomatch h

theorem ringErrClear (ring) : Statement (.ringErrClear ring) := fun _ _ h => nomatch h

theorem migrate (ring) : Statement (.migrate ring) := fun _ _ h => nomatch h

theorem move (ring) : Statement (.move ring) := fun _ _ h => nomatch h

theorem preemptRequest (block) (victim) : Statement (.preemptRequest block victim) := fun _ _ h => nomatch h

theorem preemptSave (block) : Statement (.preemptSave block) := fun _ _ h => nomatch h

theorem blockRestore (block) : Statement (.blockRestore block) := fun _ _ h => nomatch h

theorem coreClockGate (core) : Statement (.coreClockGate core) := fun _ _ h => nomatch h

theorem corePowerGate (core) : Statement (.corePowerGate core) := fun _ _ h => nomatch h

theorem baseDieBoxTest (ray) : Statement (.baseDieBoxTest ray) := fun _ _ h => nomatch h

theorem collectiveComplete (entry) (others) : Statement (.collectiveComplete entry others) := fun _ _ h => nomatch h

theorem compArrival (source) (now) : Statement (.compArrival source now) := fun _ _ h => nomatch h

theorem tileClose (i) (now) : Statement (.tileClose i now) := fun _ _ h => nomatch h

theorem tileDelivery (i) : Statement (.tileDelivery i) := fun _ _ h => nomatch h

theorem swPathEnqueue (pass) : Statement (.swPathEnqueue pass) := fun _ _ h => nomatch h

theorem tileResolve (pass) (tile) : Statement (.tileResolve pass tile) := fun _ _ h => nomatch h

theorem tileFinish (pass) (tile) : Statement (.tileFinish pass tile) := fun _ _ h => nomatch h

theorem passDone (pass) : Statement (.passDone pass) := fun _ _ h => nomatch h

theorem frameStart (head) : Statement (.frameStart head) := fun _ _ h => nomatch h

theorem headLinkUp (head) : Statement (.headLinkUp head) := fun _ _ h => nomatch h

theorem pointFill (point) (key) : Statement (.pointFill point key) := fun _ _ h => nomatch h

theorem pointDrop (point) (key) : Statement (.pointDrop point key) := fun _ _ h => nomatch h

theorem hostNotifyWrite (offset) (value) : Statement (.hostNotifyWrite offset value) := fun _ _ h => nomatch h

theorem capWrite (value) : Statement (.capWrite value) := fun _ _ h => nomatch h

theorem correctedErrorCountRead (counter) : Statement (.correctedErrorCountRead counter) := fun _ _ h => nomatch h

theorem groupTableWrite (offset) (value) : Statement (.groupTableWrite offset value) := fun _ _ h => nomatch h

theorem bootVerify (image) : Statement (.bootVerify image) := fun _ _ h => nomatch h

theorem functionReady (f) : Statement (.functionReady f) := fun _ _ h => nomatch h

theorem avmalLinkDown (port) : Statement (.avmalLinkDown port) := fun _ _ h => nomatch h

theorem avmalLinkUp (port) (fabricNumber) : Statement (.avmalLinkUp port fabricNumber) := fun _ _ h => nomatch h

theorem timeStampDiscipline (ahead) : Statement (.timeStampDiscipline ahead) := fun _ _ h => nomatch h

theorem getCertificate (slot) (offset) (length) : Statement (.getCertificate slot offset length) := fun _ _ h => nomatch h

theorem challenge (slot) (nonce) : Statement (.challenge slot nonce) := fun _ _ h => nomatch h

theorem getMeasurements (index) : Statement (.getMeasurements index) := fun _ _ h => nomatch h

theorem signalLineSet (line) : Statement (.signalLineSet line) := fun _ _ h => nomatch h

theorem headLinkLost (head) : Statement (.headLinkLost head) := fun _ _ h => nomatch h

theorem scanOutLine (head) (y) (late) : Statement (.scanOutLine head y late) := fun _ _ h => nomatch h

theorem powerThermalLimit (r) : Statement (.powerThermalLimit r) := fun _ _ h => nomatch h

theorem goldenSourceAdvance (die) : Statement (.goldenSourceAdvance die) := fun _ _ h => nomatch h

theorem tslRead : Statement (.tslRead) := fun _ _ h => nomatch h

theorem deviceReset : Statement (.deviceReset) := fun _ _ h => nomatch h

theorem thermalTrip : Statement (.thermalTrip) := fun _ _ h => nomatch h

theorem clockStepDown : Statement (.clockStepDown) := fun _ _ h => nomatch h

theorem clockStepUp : Statement (.clockStepUp) := fun _ _ h => nomatch h

theorem getVersion : Statement (.getVersion) := fun _ _ h => nomatch h

theorem getCapabilities : Statement (.getCapabilities) := fun _ _ h => nomatch h

theorem negotiateAlgorithms : Statement (.negotiateAlgorithms) := fun _ _ h => nomatch h

theorem getDigests : Statement (.getDigests) := fun _ _ h => nomatch h

end Sys2Proof.Laws.Roundtrip
end

