-- ==== Sys2Proof/Safety.lean ====
section
/-!
DEFINITION. What a safe state and a safe run are, and the words in which statements about one issue are made: the
group that issues, registers that a word may use, and how a completed word leaves its group.
-/
namespace Sys2Proof

/-- The memory of the machine is in its canonical form (DESIGN CHOICE, log 1). -/
def Machine.State.memOk (s : Machine.State) : Bool := Machine.Memory.wf s.mem

/-- A step that answers a next state. -/
def Runs (s : Machine.State) : Prop := ∃ t, Machine.step s = .next t

namespace Machine

/-- Group `g`, which is `x`, issues a word: a subset is current, no run-ahead is under way (07 R164), no fault is
queued (13 R283), no register is lent to the matrix engine (10 R233) and every residue is good (13 R295). -/
structure Issues (s : State) (g : Nat) (x : Group) : Prop where
  cur : s.cur = some g
  here : s.group? g = some x
  current : x.current.isSome = true
  calm : x.runAhead = none
  unfaulted : x.faults = []
  sound : x.bad = [] ∧ x.badResult = false
  unlent : s.lent g x = []

/-- Registers that a word may read and write in its active lanes (02 R19, R37). -/
def LaneReady (x : Group) (rs : List Nat) : Prop :=
  ∀ r ∈ rs, r < x.wsize ∧ ∀ l, x.active.getLsbD l = true → x.isPending l r = false

/-- Registers that a word may read in the lowest lane (03 R80, 02 R37). -/
def UniReads (x : Group) (rs : List Nat) : Prop := ∀ r ∈ rs, r < x.wsize ∧ x.isPending 0 r = false

/-- Registers that a word may write in every lane (06 R129, 02 R37). -/
def UniWrites (x : Group) (rs : List Nat) : Prop :=
  ∀ r ∈ rs, r < x.wsize ∧ ∀ l, l < x.width → x.isPending l r = false

/-- `y` is `x` after one completed word: one issue more; the fibre of lane `l` is `f l` of what it was; of the rest
only registers and the place of the subset may differ (03 R53, 02 R32, R36). -/
def Group.Stepped (x y : Group) (f : Nat → Fibre → Fibre) : Prop :=
  y = { x with regs := y.regs, fibres := y.fibres, current := y.current, waiting := y.waiting, issues := x.issues + 1 }
    ∧ ∀ l, y.fibre? l = (x.fibre? l).map (f l)

/-- A word that moves on by 4 bytes and ORs flags into its active lanes (03 R53, 02 R17). -/
def Group.nextWord (x : Group) (fl : Nat → Word) (l : Nat) (f : Fibre) : Fibre :=
  if x.active.getLsbD l then { f with pc := f.pc + 4, flags := f.flags ||| fl l } else f

/-- The registers of `y` are those of `x`, but for the lanes and registers that `p` names, which hold `v`. -/
def Group.Writes (x y : Group) (p : Nat → Nat → Bool) (v : Nat → Nat → Word) : Prop :=
  ∀ l r, r < 128 → y.reg l r = if p l r then v l r else x.reg l r

/-- Instruction `i` completes for group `g`, leaving it as `y`, and leaves the rest of the machine and every byte of
memory as they were. -/
def RegisterOnly (i : Instr) (s : State) (g : Nat) (y : Group) : Prop :=
  ∃ t, exec i s = .next t ∧ t = s.setGroup g y ∧ ∀ k, Memory.read t.mem k = Memory.read s.mem k

/-- The result of a lane word: in every active lane register `d` becomes `(v l).1` and the flags `(v l).2` are set;
nothing else changes (05 R107, 02 R17). -/
def LaneResult (i : Instr) (d : Reg) (rs : List Reg) (v : Group → Nat → Word × Word) : Prop :=
  ∀ s g x, Issues s g x → LaneReady x ((d :: rs).map BitVec.toNat) →
    ∃ y, RegisterOnly i s g y ∧ x.Stepped y (x.nextWord fun l => (v x l).2) ∧
      x.Writes y (fun l r => x.active.getLsbD l && r == d.toNat) fun l _ => (v x l).1

/-- The result of a uniform word: register `d` becomes `v` in every lane of the group, and nothing else changes (06 R129). -/
def UniResult (i : Instr) (d : Reg) (rs : List Reg) (v : Group → Word) : Prop :=
  ∀ s g x, Issues s g x → UniReads x (rs.map BitVec.toNat) → UniWrites x [d.toNat] →
    ∃ y, RegisterOnly i s g y ∧ x.Stepped y (x.nextWord fun _ => 0) ∧
      x.Writes y (fun l r => decide (l < x.width) && r == d.toNat) fun _ _ => v x

/-- `LaneResult` for a form with registers a and b, its value from the old d and the two sources. -/
def Lane3 (mk : LaneOp3 → Instr) (f : Word → Word → Word → Word × Word) : Prop :=
  ∀ o, LaneResult (mk o) o.d [o.a, o.b] fun x l => f (x.reg l o.d.toNat) (x.reg l o.a.toNat) (x.reg l o.b.toNat)

/-- `LaneResult` for a form with one source. -/
def Lane2 (mk : LaneOp2 → Instr) (f : Word → Word × Word) : Prop :=
  ∀ o, LaneResult (mk o) o.d [o.a] fun x l => f (x.reg l o.a.toNat)

/-- `LaneResult` for an immediate form, its value from the old d and the immediate. -/
def LaneI (mk : LaneImm → Instr) (f : Word → BitVec 14 → Word) : Prop :=
  ∀ o, LaneResult (mk o) o.d [] fun x l => (f (x.reg l o.d.toNat) o.imm, 0)

/-- `UniResult` for the register form of the uniform set. -/
def Uni3 (mk : Regs3 → Instr) (f : Word → Word → Word) : Prop :=
  ∀ o, UniResult (mk o) o.d [o.a, o.b] fun x => f (x.uni o.a.toNat) (x.uni o.b.toNat)

/-! ### Exact values and rounding (04 R89, R90, R95, R96) -/

/-- The magnitude n / d · 2^e as a rational number. -/
def magOf (n d : Nat) (e : Int) : Rat :=
  if 0 ≤ e then ((n * 2 ^ e.toNat : Nat) : Rat) / (d : Rat) else (n : Rat) / ((d * 2 ^ (-e).toNat : Nat) : Rat)

/-- The same with a sign. -/
def ratOf (neg : Bool) (n d : Nat) (e : Int) : Rat := if neg then -magOf n d e else magOf n d e

/-- The magnitude of a finite value. -/
def FNum.mag : FNum → Rat
  | .fin _ m e => magOf m 1 e
  | _ => 0

/-- The value of a finite number. -/
def FNum.rat : FNum → Rat
  | .fin neg m e => ratOf neg m 1 e
  | _ => 0

def FNum.isFin : FNum → Bool
  | .fin _ _ _ => true
  | _ => false

/-- An exact rational result is rounded once into a format by a mode; a zero has the sign given (R89). -/
def Fmt.RoundsTo (F : Fmt) (m : RMode) (r : Word) (x : Rat) (zeroNeg : Bool) (res : Nat × Word) : Prop :=
  ∃ neg n d e, d ≠ 0 ∧ ratOf neg n d e = x ∧ (n = 0 → neg = zeroNeg) ∧ res = F.round m r neg n d e

/-- Whether a magnitude a with lo ≤ a ≤ hi is delivered as hi and not as lo; `odd` says that the least significant bit of
the code of lo is 1 (R90, R96). -/
def takesUpper (m : RMode) (neg : Bool) (r : Word) (a lo hi : Rat) (odd : Bool) : Bool :=
  if a = lo then false
  else match m with
    | .rn => decide (hi - a < a - lo) || (decide (hi - a = a - lo) && odd)
    | .rz => false
    | .rd => neg
    | .ru => !neg
    | .rs => decide ((r.toNat : Int) < ((a - lo) / (hi - lo) * ((2 ^ 32 : Nat) : Rat)).floor)

/-- lo and hi are the codes up to `top` whose magnitudes lie nearest below and above a, or at it. -/
def Neighbours (val : Nat → Rat) (top : Nat) (a : Rat) (lo hi : Nat) : Prop :=
  lo ≤ top ∧ hi ≤ top ∧ val lo ≤ a ∧ a ≤ val hi ∧ ∀ k, k ≤ top → (val k ≤ a → val k ≤ val lo) ∧ (a ≤ val k → val hi ≤ val k)

/-- The root of a magnitude q, rounded once to nearest: of the codes around it the nearer, or the even one, with NX where it
is not exact. No root of a binary32 value, and no reciprocal of one, is tiny or beyond the format (05 R123). -/
def RootRoundsTo (q : Rat) (res : Nat × Word) : Prop :=
  let val := fun (c : Nat) => (f32.decode c).mag
  ∃ lo hi, Neighbours (fun c => val c * val c) f32.maxCode q lo hi ∧
    let mid := (val lo + val hi) / 2
    res.1 = (if mid * mid < q ∨ (mid * mid = q ∧ val lo ≠ val hi ∧ lo % 2 = 1) then hi else lo) ∧
    res.2 = (if val res.1 * val res.1 = q then 0 else flagNX)

/-- A magnitude is tiny: rounded with an unbounded exponent it is below 2^emin (R87, R90). -/
def Fmt.Tiny (F : Fmt) (m : RMode) (r : Word) (neg : Bool) (a : Rat) : Prop :=
  ∃ (q : Nat) (k : Int), 2 ^ (F.p - 1) ≤ q ∧ q < 2 ^ F.p ∧ magOf q 1 k ≤ a ∧ a < magOf (q + 1) 1 k ∧
    magOf (if takesUpper m neg r a (magOf q 1 k) (magOf (q + 1) 1 k) (q % 2 == 1) then q + 1 else q) 1 k < magOf 1 1 F.emin

/-- A nonzero exact magnitude with a sign, delivered in a format under a mode: the code and the flags (R87, R90). -/
def Fmt.Delivers (F : Fmt) (m : RMode) (r : Word) (neg : Bool) (a : Rat) (code : Nat) (flags : Word) : Prop :=
  let val := fun (c : Nat) => (F.decode c).mag
  let beyond := magOf 1 1 (F.emax + 1)
  let middle := magOf (2 ^ (F.p + 1) - 1) 1 (F.emax - F.p)
  if val F.maxCode < a then
    let past := match m with
      | .rz => decide (beyond ≤ a)
      | .rd => neg || decide (beyond ≤ a)
      | .ru => !neg || decide (beyond ≤ a)
      | _ => decide (middle ≤ a)
    let toInf := match m with
      | .rz => false
      | .rd => neg
      | .ru => !neg
      | _ => past
    code = F.signed neg (if toInf then F.infCode else F.maxCode) ∧ flags = flagIf past flagOF ||| flagNX
  else
    ∃ lo hi, Neighbours val F.maxCode a lo hi ∧
      let c := if takesUpper m neg r a (val lo) (val hi) (lo % 2 == 1) then hi else lo
      code = F.signed neg c ∧ (val c = a → flags = 0) ∧
      (val c ≠ a → (F.Tiny m r neg a → flags = flagNX ||| flagUF) ∧ (¬F.Tiny m r neg a → flags = flagNX))

/-- A nonzero exact magnitude with a sign, delivered in the marker format of w + 1 bits (R95). -/
def MarkDelivers (w : Nat) (m : RMode) (r : Word) (neg : Bool) (a : Rat) (code : Nat) (flags : Word) : Prop :=
  let val := fun (c : Nat) => (markDecode w c).mag
  let top := 2 ^ w - 1
  let signed := fun (c : Nat) => if c = 0 then 0 else if neg then 2 ^ w + c else c
  if val top < a then code = signed top ∧ flags = flagSAT ||| flagNX
  else
    ∃ lo hi, Neighbours val top a lo hi ∧
      code = signed (if takesUpper m neg r a (val lo) (val hi) (lo % 2 == 1) then hi else lo) ∧
      flags = flagIf (decide (val lo ≠ a)) flagNX ||| flagIf (decide (val lo ≠ a) && lo == 0) flagUF

/-- The integer that a value is rounded to (R104): between the integers around its magnitude. -/
def Integral (m : RMode) (neg : Bool) (a : Rat) (y : Int) : Prop :=
  ∃ q : Nat, (q : Rat) ≤ a ∧ a < ((q + 1 : Nat) : Rat) ∧
    y = (if neg then (-1 : Int) else 1) * (if takesUpper m neg 0 a q ((q + 1 : Nat) : Rat) (q % 2 == 1) then q + 1 else q : Nat)

/-- The position and the length of the field that a word names (05 R116). -/
def bitField (b : Word) : Nat × Nat := (b.toNat % 32, min (b.toNat / 2 ^ 8 % 64) (32 - b.toNat % 32))

/-- Instruction `i` of group `g` raises fault `t` at its word (03 R69, 13 R278), which counts as an issue (02 R32). -/
def Raises (i : Instr) (s : State) (g : Nat) (t : Trap) : Prop :=
  exec i s = .next ((s.modGroup g fun x => x.countIssues 1).raise g t)

/-- Instruction `i` has an effect that leaves the machine as `s'`, and then completes: one issue is counted, the
active fibres move on by `n` bytes, and its park marker acts (03 R53, 02 R32, R36). -/
def Completes (i : Instr) (n : Nat) (park : Bool) (s : State) (g : Nat) (x : Group) (s' : State) : Prop :=
  exec i s = .next (s'.complete g x.active n park)

/-- In `t` group `g` is `y`, and every other group is as it was in `s`. -/
def OnlyGroup (s t : State) (g : Nat) (y : Group) : Prop :=
  t.group? g = some y ∧ ∀ h, h ≠ g → t.group? h = s.group? h

/-- A word that, for a group that meets `ok`, changes the active fibres and nothing else. -/
def FibreResult (i : Instr) (ok : Group → Prop) (f : Group → Nat → Fibre → Fibre) : Prop :=
  ∀ s g x, Issues s g x → ok x →
    ∃ y, RegisterOnly i s g y ∧ x.Stepped y (fun l p => if x.active.getLsbD l then f x l p else p) ∧
      x.Writes y (fun _ _ => false) fun _ _ => 0

/-- The word at `pc` plus four times a signed offset (03 R63). -/
def wordTarget {n : Nat} (pc : CodeAddr) (off : BitVec n) : CodeAddr := pc + BitVec.ofInt 48 (4 * off.toInt)

/-- Every lane of a set has a fibre, and no lane is listed twice. -/
def Group.tidy (x : Group) : Prop :=
  (x.fibres.map Prod.fst).Nodup ∧ ∀ l, x.active.getLsbD l = true → (x.fibre? l).isSome = true

/-- A waiting subset that may become current (02 R31). -/
def Group.someEligible (x : Group) : Prop := ∃ u ∈ x.waiting, u.wait = .none

/-- `u` is a subset that has waited longest of those that may become current (02 R32). -/
def Group.longest (x : Group) (u : Subset) : Prop :=
  u ∈ x.waiting ∧ u.wait = .none ∧ ∀ v ∈ x.waiting, v.wait = .none → u.since ≤ v.since

/-- The words of memory at a key. -/
def State.words (s : State) (key n : Nat) : List Word := wordsOfBytes (s.readHome key (4 * n))

/-- Memory is as it was but for `n` bytes from a key. -/
def SameMemory (s t : State) (key n : Nat) : Prop :=
  ∀ k, ¬(key ≤ k ∧ k < key + n) → Memory.read t.mem k = Memory.read s.mem k

/-- A word of the lane set with three register fields (03 R54). -/
def laneWord (park : Bool) (op : BitVec 6) (sel : BitVec 2) (m : Bool) (d a b : Reg) : Word :=
  (0#1) ++ BitVec.ofBool park ++ op ++ sel ++ BitVec.ofBool m ++ d ++ a ++ b

/-- A word of the lane set with an immediate (03 R55). -/
def laneImmWord (park : Bool) (op : BitVec 6) (sel : BitVec 2) (m : Bool) (d : Reg) (imm : BitVec 14) : Word :=
  (0#1) ++ BitVec.ofBool park ++ op ++ sel ++ BitVec.ofBool m ++ d ++ imm

/-- A word of the uniform set with three register fields (03 R58), and one with an immediate (R59). -/
def uniWord (park : Bool) (op : BitVec 6) (f : BitVec 3) (d a b : Reg) : Word :=
  (1#1) ++ BitVec.ofBool park ++ op ++ f ++ d ++ a ++ b
def uniImmWord (park : Bool) (op : BitVec 6) (f : BitVec 3) (d : Reg) (imm : BitVec 14) : Word :=
  (1#1) ++ BitVec.ofBool park ++ op ++ f ++ d ++ imm

/-- The words of a lane instruction with registers a and b: its opcode and its modifier, and every value of the other
fields (03 R54, R65). -/
def LaneWord (mk : LaneOp3 → Instr) (op : BitVec 6) (m : Bool) : Prop :=
  ∀ park hold d a b, decodeFibre (laneWord park op (Hold.bits hold) m d a b) = some (mk ⟨park, hold, d, a, b⟩)

/-- The words of a lane instruction with one source: its opcode and the value of b; hold is never b (05 R109). -/
def LaneWord2 (mk : LaneOp2 → Instr) (op : BitVec 6) (b : Reg) : Prop :=
  ∀ park hold d a, hold ≠ .b → decodeFibre (laneWord park op (Hold.bits hold) false d a b) = some (mk ⟨park, hold, d, a⟩)

/-- The words of an immediate lane instruction (03 R55). -/
def LaneWordI (mk : LaneImm → Instr) (op : BitVec 6) : Prop :=
  ∀ park hold d imm, hold ≠ .b → decodeFibre (laneImmWord park op (Hold.bits hold) false d imm) = some (mk ⟨park, hold, d, imm⟩)

/-- The words of a uniform instruction with three registers: its opcode and its function (03 R58). -/
def UniWord (mk : Regs3 → Instr) (op : BitVec 6) (f : BitVec 3) : Prop :=
  ∀ park d a b, decodeFibre (uniWord park op f d a b) = some (mk ⟨park, d, a, b⟩)

/-- Nothing is on its way to memory: no write waits in a buffer or at a point, and no atomic, no `gupd` and no port unit is
under way. -/
structure State.Quiet (s : State) : Prop where
  wb : s.ord.wb = []
  writes : s.ord.writes = []
  slices : s.sliceOps = []
  units : s.portUnits = []
  updates : ∀ r ∈ s.rays, r.2.updates = false

/-- Every walk that an access at an address may use ends at page `p` (07 R155-R157). -/
def State.Finds (s : State) (root va : Nat) (k : AccessKind) (p : Page) : Prop :=
  ∀ w ∈ walkChoices s root va, w.outcome va k = .page p

/-- No compressed page that the slices know reaches into `n` bytes from a key (07 R162). -/
def State.Plain (s : State) (key n : Nat) : Prop := ∀ c ∈ s.compPages, c.base + c.size ≤ key ∨ key + n ≤ c.base

/-- The entries of the tables that a walk may read, at most n levels from the table at `pa`, lie in no page whose
compression the slices know or `known` names (07 R162). -/
def State.Steady (s : State) (known : Comp → Prop) (root va : Nat) : Nat → Nat → Nat → Prop
  | 0, _, _ => True
  | n + 1, level, pa =>
    let a := pa + 8 * levelIndex va level
    (∀ c, c ∈ s.compPages ∨ known c → c.base + c.size ≤ a ∨ a + 8 ≤ c.base) ∧
      ∀ e, some e ∈ entriesAt s root va level a → e.entry.getLsbD 63 = true →
        s.Steady known root va n (level + 1) (entryPa e.entry.toNat)

/-- The same as `Finds`, and the tables lie in no compressed page: it stays so while the access goes on. -/
def State.FindsWith (s : State) (known : Comp → Prop) (root va : Nat) (k : AccessKind) (p : Page) : Prop :=
  s.Finds root va k p ∧ s.Steady known root (va % 2 ^ 52) 4 0 root

/-- What `c` holds when tile `t` closes at a moment over n ranks: a bit of MISSING for each absent one, and in mode 0 the
nearest depth of every pixel (20 R374, R375). -/
def OpenTile.ClosedAs (t : OpenTile) (n : Nat) (moment : DWord) (c : ClosedTile) : Prop :=
  c.key = t.key ∧ c.closedAt = moment ∧ c.dkind = t.dkind ∧ c.ddev = t.ddev ∧ c.dhead = t.dhead ∧ c.dpa = t.dpa ∧
    c.pixels = none ∧ (∀ r, c.missing.testBit r = (decide (r < n) && (Tab.get t.parts r).isNone)) ∧ c.data.length = 3072 ∧
    (t.mode = 0 → ∀ p, p < 256 → ofBytes ((c.data.drop (4 * p)).take 4) =
      (List.range n).foldl (fun v r => min v (match Tab.get t.parts r with
        | some d => ofBytes ((d.drop (4 * p)).take 4)
        | none => 0xFFFFFFFF)) 0xFFFFFFFF)

/-- The word of iteration j of a `rep` of word `w`: its register fields advanced by the strides (03 R76). -/
def strideWord (w : Word) (sd sa sb j : Nat) : Word := BitVec.ofNat 32 (w.toNat + j * (sd * 2 ^ 14 + sa * 2 ^ 7 + sb))

/-- How many of the fields d, a, b of a lane word are registers: not those of an immediate form, and not the selector in b
(03 R75). -/
def registerFields (w : Word) : Nat :=
  if wbits w 29 24 ∈ [0x02, 0x0D, 0x0E, 0x0F] then 1 else if wbits w 29 24 ∈ [0x08, 0x20, 0x25, 0x2A, 0x2B] then 2 else 3

/-- The registers that the fields of iteration j name. -/
def repRegs (w : Word) (sd sa sb j : Nat) : List Nat :=
  [wbits w 20 14 + j * sd, wbits w 13 7 + j * sa, wbits w 6 0 + j * sb].take (registerFields w)

/-- Group `g`, which was `x` when its `rep` issued, still issues: no run-ahead has begun (07 R164). -/
def State.Continues (s : State) (g : Nat) (x : Group) : Prop :=
  s.cur = some g ∧ ∃ y, s.group? g = some y ∧ y.current.isSome = true ∧ y.runAhead = none ∧ y.wsize = x.wsize

/-- Iteration j starts, with `left` iterations to run: sr.repc says so (03 R78). -/
def State.atIteration (s : State) (g j left : Nat) : State := s.modGroup g fun x => x.setRepc (repcWord j left)

/-- Iteration j of a `rep` of word `w` completes and leaves the machine as `t`: the instruction of the strided word has its
effect, but its PC and its park marker wait for the last (03 R76). -/
def State.Iterates (s : State) (g : Nat) (w : Word) (sd sa sb j left : Nat) (t : State) : Prop :=
  ∃ i x, ∃ u : State, decodeFibre (strideWord w sd sa sb j) = some i ∧ (s.atIteration g j left).group? g = some x ∧
    (∀ r ∈ repRegs w sd sa sb j, r < x.wsize) ∧
    exec i (s.atIteration g j left) = .next (u.complete g x.active 4 (wbit w 30)) ∧ t = u.modGroup g fun y => y.countIssues 1

/-- m iterations complete one after the other, each while the group continues. -/
def State.IteratesTo (x : Group) (g : Nat) (w : Word) (sd sa sb : Nat) : Nat → Nat → Nat → State → State → Prop
  | _, _, 0, s, t => t = s
  | j, left, m + 1, s, t => ∃ v, s.Continues g x ∧ s.Iterates g w sd sa sb j left v ∧
      State.IteratesTo x g w sd sa sb (j + 1) (left - 1) m v t

/-- Iteration j ends the `rep` with `t`: a field beyond the window is WINDOW at iteration 0 and REPEAT at a later one,
before the word executes (03 R77, R78); else the instruction of the strided word is held, so that it has not issued, or
raises its fault. -/
def State.StopsAt (s : State) (g : Nat) (w : Word) (sd sa sb j left : Nat) (t : State) : Prop :=
  let v := s.atIteration g j left
  ∃ x, v.group? g = some x ∧
    match (repRegs w sd sa sb j).find? fun r => decide (x.wsize ≤ r) with
    | some r => t = v.raiseRep g (if j = 0 then { cause := .window, ops := [w, BitVec.ofNat 32 r] }
        else { cause := .repeats, ops := [w, BitVec.ofNat 32 (j * 2 ^ 16 + left)] })
    | none => ∃ i, decodeFibre (strideWord w sd sa sb j) = some i ∧
        ((exec i v = .next t ∧ ∃ y, t.group? g = some y ∧ y.issues = x.issues) ∨
          ∃ (f : Trap) (s2 : State), exec i v = .next ((s2.modGroup g fun y => y.countIssues 1).raise g f) ∧
            s2.groups = v.groups ∧ s2.mem = v.mem ∧ t = s2.raiseRep g f)

/-- Ring `ring` is served, and the command at its RPTR is `v`, of operation `op`; it is not bad and may start
(11 R258). -/
structure State.Commands (s : State) (ring op v : Nat) : Prop where
  here : ring < 64
  served : s.ringServed (s.ringAt ring) = true
  found : ∃ bs, s.commandBytes (s.ringAt ring) = some bs ∧ v = ofBytes bs
  oper : field v 7 0 = op
  good : commandBad v = false
  starts : s.ringWaits ring (s.ringAt ring) v = false

/-- In `t` ring `ring` is `r`, and every other ring is as it was in `s`. -/
def OnlyRing (s t : State) (ring : Nat) (r : Ring) : Prop := t.ringAt ring = r ∧ ∀ k, k ≠ ring → t.ringAt k = s.ringAt k

/-- The ring after a command that has completed, and after one that completes later. -/
def Ring.passed (r : Ring) : Ring := { r with rptr := r.rptr + 1, done := r.done + 1 }
def Ring.fetched (r : Ring) : Ring := { r with rptr := r.rptr + 1, late := r.late + 1 }

end Machine
end Sys2Proof
end

