-- ==== Sys2Proof/Certificates/Slice0/Obligations.lean ====
section
/-!
DEFINITION. The statements about this machine. Each docstring names the rules of spec/ that it formalises, or says
what it rests on.
-/
open Sys2Proof Sys2Proof.Machine

/-! ### Lane arithmetic (05) -/

/-- The integer arithmetic and immediate instructions (R112, R113): their results, their frame and their words. -/
def Obligations.LaneIntegerArithmetic : Prop :=
  Lane3 .iadd (fun _ a b => (a + b, 0)) ∧ Lane3 .isub (fun _ a b => (a - b, 0)) ∧
  Lane3 .imul (fun _ a b => (BitVec.ofInt 32 (a.toInt * b.toInt), 0)) ∧
  Lane3 .imulhS (fun _ a b => (BitVec.ofInt 32 (a.toInt * b.toInt / 2 ^ 32), 0)) ∧
  Lane3 .imulhU (fun _ a b => (BitVec.ofNat 32 (a.toNat * b.toNat / 2 ^ 32), 0)) ∧
  Lane3 .imad (fun d a b => (d + a * b, 0)) ∧
  Lane3 .iminS (fun _ a b => (BitVec.ofInt 32 (min a.toInt b.toInt), 0)) ∧
  Lane3 .iminU (fun _ a b => (BitVec.ofNat 32 (min a.toNat b.toNat), 0)) ∧
  Lane3 .imaxS (fun _ a b => (BitVec.ofInt 32 (max a.toInt b.toInt), 0)) ∧
  Lane3 .imaxU (fun _ a b => (BitVec.ofNat 32 (max a.toNat b.toNat), 0)) ∧
  Lane2 .iabs (fun a => (BitVec.ofInt 32 a.toInt.natAbs, 0)) ∧
  LaneI .iaddi (fun d i => d + BitVec.ofInt 32 i.toInt) ∧
  LaneI .movi (fun _ i => BitVec.ofInt 32 i.toInt) ∧
  LaneI .lui (fun d i => BitVec.ofNat 32 (d.toNat % 2 ^ 18 * 2 ^ 14 + i.toNat)) ∧
  LaneI .ori (fun d i => d ||| BitVec.ofNat 32 i.toNat) ∧
  LaneWord .iadd 0x01 false ∧ LaneWord .isub 0x01 true ∧ LaneWord .imul 0x03 false ∧ LaneWord .imulhS 0x04 false ∧
  LaneWord .imulhU 0x04 true ∧ LaneWord .imad 0x05 false ∧ LaneWord .iminS 0x06 false ∧ LaneWord .iminU 0x06 true ∧
  LaneWord .imaxS 0x07 false ∧ LaneWord .imaxU 0x07 true ∧ LaneWord2 .iabs 0x08 0 ∧ LaneWordI .iaddi 0x02 ∧
  LaneWordI .lui 0x0E ∧ LaneWordI .ori 0x0F ∧
  ∀ park hold d imm, hold ≠ .a → hold ≠ .b →
    decodeFibre (laneImmWord park 0x0D (Hold.bits hold) false d imm) = some (.movi ⟨park, hold, d, imm⟩)

/-- The compares, `sel`, logic and shifts (R114, R115): their results, their frame and their words. -/
def Obligations.LaneCompareLogicShift : Prop :=
  Lane3 .icmpEq (fun _ a b => (if a = b then 1 else 0, 0)) ∧ Lane3 .icmpNe (fun _ a b => (if a = b then 0 else 1, 0)) ∧
  Lane3 .icmpLtS (fun _ a b => (if a.toInt < b.toInt then 1 else 0, 0)) ∧
  Lane3 .icmpLtU (fun _ a b => (if a.toNat < b.toNat then 1 else 0, 0)) ∧
  Lane3 .icmpGeS (fun _ a b => (if b.toInt ≤ a.toInt then 1 else 0, 0)) ∧
  Lane3 .icmpGeU (fun _ a b => (if b.toNat ≤ a.toNat then 1 else 0, 0)) ∧
  Lane3 .sel (fun d a b => (if d ≠ 0 then a else b, 0)) ∧
  Lane3 .andL (fun _ a b => (a &&& b, 0)) ∧ Lane3 .andn (fun _ a b => (a &&& ~~~b, 0)) ∧
  Lane3 .orL (fun _ a b => (a ||| b, 0)) ∧ Lane3 .xorL (fun _ a b => (a ^^^ b, 0)) ∧
  Lane3 .shl (fun _ a b => (if 32 ≤ b.toNat then 0 else BitVec.ofNat 32 (a.toNat * 2 ^ b.toNat), 0)) ∧
  Lane3 .shr (fun _ a b => (if 32 ≤ b.toNat then 0 else BitVec.ofNat 32 (a.toNat / 2 ^ b.toNat), 0)) ∧
  Lane3 .sar (fun _ a b => (BitVec.ofInt 32 (a.toInt / 2 ^ min b.toNat 31), 0)) ∧
  LaneWord .icmpEq 0x09 false ∧ LaneWord .icmpNe 0x09 true ∧ LaneWord .icmpLtS 0x0A false ∧ LaneWord .icmpLtU 0x0A true ∧
  LaneWord .icmpGeS 0x0B false ∧ LaneWord .icmpGeU 0x0B true ∧ LaneWord .sel 0x0C false ∧ LaneWord .andL 0x10 false ∧
  LaneWord .andn 0x10 true ∧ LaneWord .orL 0x11 false ∧ LaneWord .xorL 0x11 true ∧ LaneWord .shl 0x12 false ∧
  LaneWord .shr 0x13 false ∧ LaneWord .sar 0x13 true

/-- The fields, bit counts, bit reversal, Morton codes and the random word (R116-R119): their results, their frame and
their words. -/
def Obligations.LaneFieldsAndBits : Prop :=
  Lane3 .bfeU (fun _ a b =>
    let (p, n) := bitField b
    (BitVec.ofNat 32 (a.toNat / 2 ^ p % 2 ^ n), 0)) ∧
  Lane3 .bfeS (fun _ a b =>
    let (p, n) := bitField b
    let f := a.toNat / 2 ^ p % 2 ^ n
    (if n = 0 then 0 else BitVec.ofInt 32 (if f < 2 ^ (n - 1) then f else f - 2 ^ n), 0)) ∧
  Lane3 .bfi (fun d a b =>
    let (p, n) := bitField b
    (ofBits fun i => if p ≤ i ∧ i < p + n then a.getLsbD (i - p) else d.getLsbD i, 0)) ∧
  Lane2 .popc (fun a => (BitVec.ofNat 32 ((List.range 32).filter a.getLsbD).length, 0)) ∧
  Lane2 .clz (fun a => (BitVec.ofNat 32 ((List.range 32).takeWhile fun i => !a.getLsbD (31 - i)).length, 0)) ∧
  Lane2 .ctz (fun a => (BitVec.ofNat 32 ((List.range 32).takeWhile fun i => !a.getLsbD i).length, 0)) ∧
  Lane2 .brev (fun a => (ofBits fun i => a.getLsbD (31 - i), 0)) ∧
  Lane3 .ilv2 (fun _ a b => (ofBits fun i => if i % 2 = 0 then a.getLsbD (i / 2) else b.getLsbD (i / 2), 0)) ∧
  Lane3 .ilv3 (fun d a b => (ofBits fun i =>
    if 30 ≤ i then false else ([a, b, d][i % 3]?.getD 0).getLsbD (i / 3), 0)) ∧
  Lane3 .dil2 (fun _ a c => (ofBits fun i => if i < 16 ∧ c.toNat < 2 then a.getLsbD (2 * i + c.toNat) else false, 0)) ∧
  Lane3 .dil3 (fun _ a c => (ofBits fun i => if i < 10 ∧ c.toNat < 3 then a.getLsbD (3 * i + c.toNat) else false, 0)) ∧
  Lane3 .rnd (fun _ k x => ([0x6F1D2A53, 0x1B84E6C9, 0xC2A75F31, 0x8E463B1F].foldl (fun (x : Word) c =>
    let y := x + k + c
    let z := (y ^^^ BitVec.ofNat 32 (y.toNat / 2 ^ 16)) * 0x5A3C96E5
    let w := (z ^^^ BitVec.ofNat 32 (z.toNat / 2 ^ 15)) * 0x2D91B4C7
    w ^^^ BitVec.ofNat 32 (w.toNat / 2 ^ 15)) x, 0)) ∧
  LaneWord .bfeS 0x14 false ∧ LaneWord .bfeU 0x14 true ∧ LaneWord .bfi 0x15 false ∧ LaneWord2 .popc 0x08 1 ∧
  LaneWord2 .clz 0x08 2 ∧ LaneWord2 .ctz 0x08 3 ∧ LaneWord2 .brev 0x08 4 ∧ LaneWord .ilv2 0x16 false ∧
  LaneWord .ilv3 0x16 true ∧ LaneWord .dil2 0x17 false ∧ LaneWord .dil3 0x17 true ∧ LaneWord .rnd 0x18 false ∧
  ∀ park sel m d a (b : Reg), 5 ≤ b.toNat → decodeFibre (laneWord park 0x08 sel m d a b) = none

/-- Binary32 and packed binary16 arithmetic, the compares and the conversions (R103, R104, R120-R122, R124, R125): the value
and the sticky flags of every form. A finite result is the exact rational result rounded once by the mode (what a
rounding is, `NumberFormats` states); NaNs, infinities, zeros and signs are spelled out. -/
def Obligations.LaneFloatArithmetic : Prop :=
  Lane3 .fadd (fun _ a b => fAdd a b) ∧ Lane3 .fsub (fun _ a b => fSub a b) ∧ Lane3 .fmul (fun _ a b => fMul a b) ∧
  Lane3 .ffma (fun d a b => fFma d a b) ∧ Lane3 .fdiv (fun _ a b => fDiv a b) ∧
  Lane3 .fmin (fun _ a b => fMin a b) ∧ Lane3 .fmax (fun _ a b => fMax a b) ∧
  Lane3 .fcmpEq (fun _ a b => (if (fval a).eqv (fval b) then 1 else 0, if (fval a).isSig || (fval b).isSig then flagNV else 0)) ∧
  Lane3 .fcmpLt (fun _ a b => (if (fval a).lt (fval b) then 1 else 0, if (fval a).isNan || (fval b).isNan then flagNV else 0)) ∧
  Lane3 .fcmpLe (fun _ a b =>
    (if (fval a).lt (fval b) || (fval a).eqv (fval b) then 1 else 0, if (fval a).isNan || (fval b).isNan then flagNV else 0)) ∧
  Lane3 .fcmpUn (fun _ a b =>
    (if (fval a).isNan || (fval b).isNan then 1 else 0, if (fval a).isSig || (fval b).isSig then flagNV else 0)) ∧
  Lane3 .hadd2 (fun _ a b => hAdd a b) ∧ Lane3 .hmul2 (fun _ a b => hMul a b) ∧ Lane3 .hfma2 (fun d a b => hFma d a b) ∧
  Lane3 .hmin2 (fun _ a b => hMinMax false a b) ∧ Lane3 .hmax2 (fun _ a b => hMinMax true a b) ∧
  (∀ o : CvtOp, LaneResult (.cvt o) o.d [o.a] fun x l =>
    convert o.conv o.mode (if o.mode = .rs then x.reg l o.d.toNat else 0) (x.reg l o.a.toNat)) ∧
  -- the operations on registers are those on the values of their codes, and of both halves
  (∀ d a b : Word,
    let at32 := fun (f : Word × Word) (r : Nat × Word) => f = (toWord r.1, r.2)
    at32 (fAdd a b) (f32.addNum (fval a) (fval b)) ∧ at32 (fSub a b) (f32.addNum (fval a) (fval b).negate) ∧
    at32 (fMul a b) (f32.mulNum (fval a) (fval b)) ∧ at32 (fFma d a b) (f32.fmaNum (fval a) (fval b) (fval d)) ∧
    at32 (fDiv a b) (f32.divNum (fval a) (fval b)) ∧
    at32 (fMin a b) (f32.minMax false a.toNat b.toNat) ∧ at32 (fMax a b) (f32.minMax true a.toNat b.toNat) ∧
    let at16 := fun (f : Word × Word) (r : Nat → Nat × Word) => (∀ j, j < 2 → half f.1 j = (r j).1) ∧ f.2 = (r 0).2 ||| (r 1).2
    at16 (hAdd a b) (fun j => f16.addNum (hval a j) (hval b j)) ∧ at16 (hMul a b) (fun j => f16.mulNum (hval a j) (hval b j)) ∧
    at16 (hFma d a b) (fun j => f16.fmaNum (hval a j) (hval b j) (hval d j)) ∧
    ∀ isMax, at16 (hMinMax isMax a b) fun j => f16.minMax isMax (half a j) (half b j)) ∧
  (∀ F ∈ [f32, f16],
    let nan := fun (l : List FNum) => (F.nanCode, if l.any FNum.isSig then flagNV else 0)
    let invalid := (F.nanCode, flagNV)
    let inf := fun (neg : Bool) => (F.signed neg F.infCode, (0 : Word))
    -- exact, then rounded once to nearest
    (∀ x y z : FNum, x.isFin = true → y.isFin = true →
      F.RoundsTo .rn 0 (x.rat + y.rat) (x.neg? && y.neg?) (F.addNum x y) ∧
      F.RoundsTo .rn 0 (x.rat * y.rat) (x.neg? != y.neg?) (F.mulNum x y) ∧
      (z.isFin = true → F.RoundsTo .rn 0 (x.rat * y.rat + z.rat) ((x.neg? != y.neg?) && z.neg?) (F.fmaNum x y z)) ∧
      (y.rat ≠ 0 → F.RoundsTo .rn 0 (x.rat / y.rat) (x.neg? != y.neg?) (F.divNum x y)) ∧
      (y.rat = 0 → x.rat ≠ 0 → F.divNum x y = inf (x.neg? != y.neg?)) ∧
      (y.rat = 0 → x.rat = 0 → F.divNum x y = invalid)) ∧
    -- NaN operands
    (∀ x y : FNum, x.isNan = true ∨ y.isNan = true →
      F.addNum x y = nan [x, y] ∧ F.mulNum x y = nan [x, y] ∧ F.divNum x y = nan [x, y] ∧
      ∀ z, F.fmaNum x y z = nan [x, y, z]) ∧
    -- infinities
    (∀ n p : Bool, F.addNum (.inf n) (.inf p) = (if n = p then inf n else invalid) ∧
      F.mulNum (.inf n) (.inf p) = inf (n != p) ∧ F.divNum (.inf n) (.inf p) = invalid) ∧
    (∀ (n : Bool) (y : FNum), y.isFin = true →
      F.addNum (.inf n) y = inf n ∧ F.addNum y (.inf n) = inf n ∧
      (y.rat ≠ 0 → F.mulNum (.inf n) y = inf (n != y.neg?) ∧ F.mulNum y (.inf n) = inf (y.neg? != n)) ∧
      (y.rat = 0 → F.mulNum (.inf n) y = invalid ∧ F.mulNum y (.inf n) = invalid ∧
        ∀ z, F.fmaNum (.inf n) y z = invalid ∧ F.fmaNum y (.inf n) z = invalid) ∧
      F.divNum (.inf n) y = inf (n != y.neg?) ∧ F.divNum y (.inf n) = (F.signed (y.neg? != n) 0, 0)) ∧
    (∀ x y z : FNum, x.isNan = false → y.isNan = false → (x.isInf = true ∨ y.isInf = true) →
      (x.isFin = true → x.rat ≠ 0) → (y.isFin = true → y.rat ≠ 0) →
      (z.isNan = true → F.fmaNum x y z = nan [z]) ∧
      (z.isFin = true ∨ z = .inf (x.neg? != y.neg?) → F.fmaNum x y z = inf (x.neg? != y.neg?)) ∧
      (z = .inf (!(x.neg? != y.neg?)) → F.fmaNum x y z = invalid)) ∧
    (∀ x y : FNum, x.isFin = true → y.isFin = true → ∀ z : FNum,
      (z.isNan = true → F.fmaNum x y z = nan [z]) ∧ ∀ n, z = .inf n → F.fmaNum x y z = inf n) ∧
    -- minimumNumber and maximumNumber
    ∀ a b, a < 2 ^ (F.width + 1) → b < 2 ^ (F.width + 1) → ∀ isMax,
      let x := F.decode a
      let y := F.decode b
      let fl := if x.isSig || y.isSig then flagNV else 0
      (x.isNan = true → y.isNan = true → F.minMax isMax a b = (F.nanCode, fl)) ∧
      (x.isNan = true → y.isNan = false → F.minMax isMax a b = (b, fl)) ∧
      (x.isNan = false → y.isNan = true → F.minMax isMax a b = (a, fl)) ∧
      (x.isNan = false → y.isNan = false → F.minMax isMax a b =
        (if (x.lt y || (x.eqv y && x.neg? && !y.neg?)) != isMax then a else b, 0))) ∧
  -- the order of values
  (∀ x y : FNum, x.isFin = true → y.isFin = true → x.lt y = decide (x.rat < y.rat) ∧ x.eqv y = decide (x.rat = y.rat)) ∧
  (∀ (n p : Bool) (y : FNum), y.isFin = true →
    (FNum.inf n).lt (.inf p) = (n && !p) ∧ (FNum.inf n).eqv (.inf p) = (n == p) ∧ (FNum.inf n).lt y = n ∧ y.lt (.inf n) = !n ∧
    (FNum.inf n).eqv y = false ∧ y.eqv (.inf n) = false) ∧
  -- the conversions
  ∀ (m : RMode) (d a : Word),
    let cvts := fun (n : Nat) => convert (BitVec.ofNat 4 n) m d a
    let x := fval a
    let nv := if x.isSig then flagNV else 0
    let r := if m = .rs then d else 0
    let rounds := fun (F : Fmt) (n : Nat) (v : Rat) (z : Bool) => ∃ res, cvts n = (toWord res.1, res.2) ∧ F.RoundsTo m r v z res
    (m ≠ .rs → rounds f32 0x0 (a.toInt : Rat) false ∧ rounds f32 0x1 (a.toNat : Rat) false) ∧
    (∀ p ∈ [(0x2, (-(2 ^ 31) : Int), (2 ^ 31 - 1 : Int)), (0x3, 0, 2 ^ 32 - 1)], m ≠ .rs →
      let clamped := fun (y : Int) => cvts p.1 = (BitVec.ofInt 32 (max p.2.1 (min p.2.2 y)), flagNV ||| flagSAT)
      (x.isNan = true → cvts p.1 = (0, flagNV)) ∧
      (x = .inf false → clamped p.2.2) ∧ (x = .inf true → clamped p.2.1) ∧
      (x.isFin = true → ∃ y, Integral m x.neg? x.mag y ∧ (y < p.2.1 ∨ p.2.2 < y → clamped y) ∧
        (p.2.1 ≤ y → y ≤ p.2.2 → cvts p.1 = (BitVec.ofInt 32 y, if (y : Rat) = x.rat then 0 else flagNX)))) ∧
    (∀ p ∈ [(0x4, f16), (0x5, bf16)],
      (x.isNan = true → cvts p.1 = (toWord p.2.nanCode, nv)) ∧ (∀ n, x = .inf n → cvts p.1 = (toWord (p.2.signed n p.2.infCode), 0)) ∧
      (x.isFin = true → rounds p.2 p.1 x.rat x.neg?)) ∧
    (∀ p ∈ [(0x6, 7), (0x7, 3)],
      (x.isNan = true → cvts p.1 = (toWord (2 ^ p.2), nv)) ∧
      (∀ n, x = .inf n → cvts p.1 = (toWord ((if n then 2 ^ p.2 else 0) + (2 ^ p.2 - 1)), flagSAT ||| flagNX)) ∧
      (x.rat = 0 → x.isFin = true → cvts p.1 = (0, 0)) ∧
      ∀ s n e, x = .fin s n e → n ≠ 0 →
        ∃ c fl, cvts p.1 = (toWord c, fl) ∧ MarkDelivers p.2 m r s (magOf n 1 e) c fl) ∧
    (∀ p ∈ [(0x8, f16.decode (half a 0)), (0x9, bf16.decode (half a 0)), (0xA, markDecode 7 (wbits a 7 0)),
        (0xB, markDecode 3 (wbits a 3 0)), (0xE, FNum.fin (a.getLsbD 7) (a.extractLsb' 0 8).toInt.natAbs 0)],
      (p.2.isNan = true → cvts p.1 = (0x7FC00000, if p.2.isSig then flagNV else 0)) ∧
      (∀ n, p.2 = .inf n → cvts p.1 = (if n then 0xFF800000 else 0x7F800000, 0)) ∧
      (p.2.isFin = true → (cvts p.1).2 = 0 ∧ (fval (cvts p.1).1).isFin = true ∧ (fval (cvts p.1).1).rat = p.2.rat ∧
        (fval (cvts p.1).1).neg? = p.2.neg?)) ∧
    (∀ p ∈ [(0xC, (127 : Int), 8), (0xD, 7, 4)],
      let y := max (-p.2.1 - 1) (min p.2.1 a.toInt)
      cvts p.1 = (BitVec.ofNat 32 ((BitVec.ofInt 32 y).toNat % 2 ^ p.2.2), if y = a.toInt then 0 else flagSAT)) ∧
    (m ≠ .rs → (x.isNan = true → cvts 0xF = (0x7FC00000, nv)) ∧ (x.isInf = true ∨ x.isZero = true → cvts 0xF = (a, 0)) ∧
      (x.isFin = true → ∃ y, Integral m x.neg? x.mag y ∧ (cvts 0xF).2 = 0 ∧ (fval (cvts 0xF).1).rat = (y : Rat) ∧
        (fval (cvts 0xF).1).isFin = true ∧ (fval (cvts 0xF).1).neg? = x.neg?))

/-- The float functions (R123): `frcp`, `frsq` and `fsqrt` round the exact value once; `frsq`, `fsqrt` and `flg2` of a negative
number are invalid; the exact cases of the others among finite operands, which otherwise are the functions of Machine/Trans;
and the table of zeros, infinities and NaNs. A floating result that is a NaN is the canonical one (R86).
Where the model had to choose a reading, that is its own: log 23. -/
def Obligations.LaneFloatFunctions : Prop :=
  (Lane2 .frcp (fun a => fUnary numRcp a) ∧ Lane2 .frsq (fun a => fUnary numRsq a) ∧
  Lane2 .fsqrt (fun a => fUnary numSqrt a) ∧ Lane2 .fex2 (fun a => fUnary numEx2 a) ∧
  Lane2 .flg2 (fun a => fUnary numLg2 a) ∧ Lane2 .fsinpi (fun a => fUnary numSinPi a) ∧
  Lane2 .fcospi (fun a => fUnary numCosPi a) ∧
  -- columns −∞, −0, +0, +∞ of the table, with their flags
  (let row := fun (f : FNum → Nat × Word) => [0xFF800000, 0x80000000, 0, 0x7F800000].map (fUnary f)
   let invalid : Word × Word := (0x7FC00000, flagNV)
   row numRcp = [(0x80000000, 0), (0xFF800000, 0), (0x7F800000, 0), (0, 0)] ∧
   row numRsq = [invalid, (0xFF800000, 0), (0x7F800000, 0), (0, 0)] ∧
   row numSqrt = [invalid, (0x80000000, 0), (0, 0), (0x7F800000, 0)] ∧
   row numEx2 = [(0, 0), (0x3F800000, 0), (0x3F800000, 0), (0x7F800000, 0)] ∧
   row numLg2 = [invalid, (0xFF800000, 0), (0xFF800000, 0), (0x7F800000, 0)] ∧
   row numSinPi = [invalid, (0x80000000, 0), (0, 0), invalid] ∧
   row numCosPi = [invalid, (0x3F800000, 0), (0x3F800000, 0), invalid]) ∧
  ∀ f ∈ [numRcp, numRsq, numSqrt, numEx2, numLg2, numSinPi, numCosPi], ∀ a : Word, (fval a).isNan = true →
    fUnary f a = (0x7FC00000, if (fval a).isSig then flagNV else 0)) ∧
  -- finite operands other than zero
  (∀ a : Word, (fval a).isFin = true → (fval a).rat ≠ 0 →
    let x := fval a
    let gives := fun (f : FNum → Nat × Word) (p : Nat × Word → Prop) => ∃ r, fUnary f a = (toWord r.1, r.2) ∧ p r
    let exact := fun (f : FNum → Nat × Word) (v : Rat) =>
      (fval (fUnary f a).1).isFin = true ∧ (fval (fUnary f a).1).rat = v ∧ (fUnary f a).2 = 0
    gives numRcp (f32.RoundsTo .rn 0 (1 / x.rat) x.neg?) ∧
    (0 < x.rat → gives numSqrt (RootRoundsTo x.rat) ∧ gives numRsq (RootRoundsTo (1 / x.rat))) ∧
    (x.rat < 0 → fUnary numRsq a = (0x7FC00000, flagNV) ∧ fUnary numSqrt a = (0x7FC00000, flagNV) ∧
      fUnary numLg2 a = (0x7FC00000, flagNV)) ∧
    (∀ n : Int, x.rat = magOf 1 1 n → exact numLg2 (n : Rat)) ∧
    (∀ n : Int, -149 ≤ n → n ≤ 127 → x.rat = (n : Rat) → exact numEx2 (magOf 1 1 n)) ∧
    (∀ n : Int, x.rat = (n : Rat) → fUnary numSinPi a = (toWord (f32.signed x.neg? 0), 0) ∧
      exact numCosPi (if n % 2 = 0 then 1 else -1)) ∧
    (∀ n : Int, x.rat = (n : Rat) + 1 / 2 → exact numSinPi (if n % 2 = 0 then 1 else -1) ∧ fUnary numCosPi a = (0, 0))) ∧
  (∀ f ∈ [fAdd, fSub, fMul, fDiv, fMin, fMax], ∀ a b : Word, (fval (f a b).1).isNan = true → (f a b).1 = 0x7FC00000) ∧
  (∀ d a b : Word, (fval (fFma d a b).1).isNan = true → (fFma d a b).1 = 0x7FC00000) ∧
  ∀ f ∈ [hAdd, hMul, hMinMax false, hMinMax true], ∀ (a b : Word) (j : Nat), j < 2 →
    (hval (f a b).1 j).isNan = true → half (f a b).1 j = 0x7E00

/-- A format's codes are read exactly and delivered exactly (R85, R89): decoding any code and rounding it to the same
format in any mode but rs gives the code back without a flag; a NaN gives the canonical NaN. A magnitude between two
codes goes to the one that the mode chooses, and beyond the largest to it or to infinity, with the flags OF, UF and NX
(R87, R90, R96); the same of the marker formats, which saturate (R95).
The 16 mk4 codes and the 256 mk8 codes (R91, R93, R94): decoding to binary32 is exact, the table of R93 holds,
and a decoded code rounds back to itself without a flag (R95). -/
def Obligations.NumberFormats : Prop :=
  (∀ F ∈ [f32, f16, bf16, acc40], ∀ m : RMode, ∀ code, code < 2 ^ (F.width + 1) →
    F.deliver m 0 (F.decode code) =
      if (F.decode code).isNan then (F.nanCode, if (F.decode code).isSig then flagNV else 0) else (code, 0)) ∧
  (List.range 16).map (fun c => (f32.deliver .rn 0 (markDecode 3 c)).1) =
    [0, 0x3D800000, 0x3E000000, 0x3E800000, 0x3F000000, 0x3F400000, 0x3F800000, 0x3FC00000,
     0x7FC00000, 0xBD800000, 0xBE000000, 0xBE800000, 0xBF000000, 0xBF400000, 0xBF800000, 0xBFC00000] ∧
  (∀ w ∈ [3, 7], ∀ c, c < 2 ^ (w + 1) → ∀ m : RMode, markRound w m 0 (markDecode w c) = (c, 0)) ∧
  (∀ F ∈ [f32, f16, bf16, acc40], ∀ (m : RMode) (r : Word) (neg : Bool) (n d : Nat) (e : Int), d ≠ 0 →
    let x := F.round m r neg n d e
    (n = 0 → x = (F.signed neg 0, 0)) ∧ (n ≠ 0 → F.Delivers m r neg (magOf n d e) x.1 x.2)) ∧
  ∀ w ∈ [3, 7], ∀ (m : RMode) (r : Word) (s : Bool) (n : Nat) (e : Int),
    let x := markRound w m r (.fin s n e)
    (n = 0 → x = (0, 0)) ∧ (n ≠ 0 → MarkDelivers w m r s (magOf n 1 e) x.1 x.2)

/-! ### Lane crossing (05) -/

/-- The shuffles, votes and quad differences (R126-R128), and the words of shuffles and differences. -/
def Obligations.LaneCrossing : Prop :=
  (∀ (o : Regs3) (mk : Regs3 → Instr) (j : Nat → Nat → Option Nat),
    (mk, j) ∈ ([(.shflIdx, fun _ k => some k), (.shflXor, fun i k => some (i ^^^ k)),
      (.shflUp, fun i k => if k ≤ i then some (i - k) else none), (.shflDn, fun i k => some (i + k))] :
        List ((Regs3 → Instr) × (Nat → Nat → Option Nat))) →
    LaneResult (mk o) o.d [o.a, o.b] fun x i =>
      (match j i (x.reg i o.b.toNat).toNat with
        | some q => if q < x.width ∧ x.active.getLsbD q then x.reg q o.a.toNat else x.reg i o.a.toNat
        | none => x.reg i o.a.toNat, 0)) ∧
  (∀ o : Regs2,
    LaneResult (.voteAny o) o.d [o.a] (fun x _ =>
      (if ∃ l ∈ lanesOf x.active, x.reg l o.a.toNat ≠ 0 then 1 else 0, 0)) ∧
    LaneResult (.voteAll o) o.d [o.a] (fun x _ =>
      (if ∀ l ∈ lanesOf x.active, x.reg l o.a.toNat ≠ 0 then 1 else 0, 0))) ∧
  (∀ o : Regs2, ∀ s g x, Issues s g x → LaneReady x [o.a.toNat, o.d.toNat, o.d.toNat + 1] → x.wsize ≤ 128 →
    ∃ y, RegisterOnly (.voteBallot o) s g y ∧ x.Stepped y (x.nextWord fun _ => 0) ∧
      x.Writes y (fun l r => x.active.getLsbD l && (r == o.d.toNat || r == o.d.toNat + 1)) fun _ r =>
        let bit := fun i => x.active.getLsbD i && x.reg i o.a.toNat != 0
        ofBits fun i => if r = o.d.toNat then bit i else bit (i + 32)) ∧
  (∀ (o : Regs2) (mk : Regs2 → Instr) (p q : Nat → Nat),
    (mk, p, q) ∈ ([(.qdxC, fun i => i / 4 * 4 + 1, fun i => i / 4 * 4),
      (.qdxF, fun i => i / 4 * 4 + 2 * (i / 2 % 2) + 1, fun i => i / 4 * 4 + 2 * (i / 2 % 2)),
      (.qdyC, fun i => i / 4 * 4 + 2, fun i => i / 4 * 4),
      (.qdyF, fun i => i / 4 * 4 + i % 2 + 2, fun i => i / 4 * 4 + i % 2)] :
        List ((Regs2 → Instr) × (Nat → Nat) × (Nat → Nat))) →
    LaneResult (mk o) o.d [o.a] fun x i =>
      if x.active.getLsbD (p i) ∧ x.active.getLsbD (q i) then fSub (x.reg (p i) o.a.toNat) (x.reg (q i) o.a.toNat)
      else (0x7FC00000, 0)) ∧
  (∀ park d a b, decodeFibre (laneWord park 0x28 0 false d a b) = some (.shflIdx ⟨park, d, a, b⟩) ∧
    decodeFibre (laneWord park 0x28 0 true d a b) = some (.shflXor ⟨park, d, a, b⟩) ∧
    decodeFibre (laneWord park 0x29 0 false d a b) = some (.shflUp ⟨park, d, a, b⟩) ∧
    decodeFibre (laneWord park 0x29 0 true d a b) = some (.shflDn ⟨park, d, a, b⟩)) ∧
  ∀ park d a, decodeFibre (laneWord park 0x2B 0 false d a 0) = some (.qdxC ⟨park, d, a⟩) ∧
    decodeFibre (laneWord park 0x2B 0 true d a 0) = some (.qdxF ⟨park, d, a⟩) ∧
    decodeFibre (laneWord park 0x2B 0 false d a 1) = some (.qdyC ⟨park, d, a⟩) ∧
    decodeFibre (laneWord park 0x2B 0 true d a 1) = some (.qdyF ⟨park, d, a⟩) ∧
    ∀ m (b : Reg), 2 ≤ b.toNat → decodeFibre (laneWord park 0x2B 0 m d a b) = none

/-! ### The uniform set (06) -/

/-- Uniform arithmetic (R129, R133, R134): the result is written in every lane of the group; and
its words. Jumps, calls, uniform branches, `jr` and `ret` outside a handler (R135, R136, 03 R63). -/
def Obligations.UniformArithmeticAndJumps : Prop :=
  (Uni3 .uadd (fun a b => a + b) ∧ Uni3 .usub (fun a b => a - b) ∧ Uni3 .umul (fun a b => a * b) ∧
  Uni3 .uand (fun a b => a &&& b) ∧ Uni3 .uor (fun a b => a ||| b) ∧ Uni3 .uxor (fun a b => a ^^^ b) ∧
  Uni3 .ushl (fun a b => if 32 ≤ b.toNat then 0 else BitVec.ofNat 32 (a.toNat * 2 ^ b.toNat)) ∧
  Uni3 .ushr (fun a b => if 32 ≤ b.toNat then 0 else BitVec.ofNat 32 (a.toNat / 2 ^ b.toNat)) ∧
  Uni3 .usar (fun a b => BitVec.ofInt 32 (a.toInt / 2 ^ min b.toNat 31)) ∧
  Uni3 .ucmpEq (fun a b => if a = b then 1 else 0) ∧ Uni3 .ucmpNe (fun a b => if a = b then 0 else 1) ∧
  Uni3 .ucmpLtS (fun a b => if a.toInt < b.toInt then 1 else 0) ∧
  Uni3 .ucmpGeS (fun a b => if b.toInt ≤ a.toInt then 1 else 0) ∧
  Uni3 .ucmpLtU (fun a b => if a.toNat < b.toNat then 1 else 0) ∧
  Uni3 .ucmpGeU (fun a b => if b.toNat ≤ a.toNat then 1 else 0) ∧
  (∀ o : UImm, UniResult (.uaddi o) o.d [o.d] fun x => x.uni o.d.toNat + BitVec.ofInt 32 o.imm.toInt) ∧
  (∀ o : UImm17, UniResult (.umovi o) o.d [] fun _ => BitVec.ofInt 32 o.imm.toInt) ∧
  (∀ o : UImm17, UniResult (.ului o) o.d [o.d] fun x =>
    BitVec.ofNat 32 ((x.uni o.d.toNat).toNat % 2 ^ 15 * 2 ^ 17 + o.imm.toNat))) ∧
  (UniWord .uadd 0x00 0 ∧ UniWord .usub 0x00 1 ∧ UniWord .umul 0x00 2 ∧ UniWord .uand 0x00 3 ∧ UniWord .uor 0x00 4 ∧
  UniWord .uxor 0x00 5 ∧ UniWord .ushl 0x01 0 ∧ UniWord .ushr 0x01 1 ∧ UniWord .usar 0x01 2 ∧ UniWord .ucmpEq 0x02 0 ∧
  UniWord .ucmpNe 0x02 1 ∧ UniWord .ucmpLtS 0x02 2 ∧ UniWord .ucmpGeS 0x02 3 ∧ UniWord .ucmpLtU 0x02 4 ∧
  UniWord .ucmpGeU 0x02 5 ∧
  (∀ op f, (op, f) ∈ ([(0x00, 6), (0x00, 7), (0x01, 3), (0x01, 4), (0x01, 5), (0x01, 6), (0x01, 7), (0x02, 6), (0x02, 7)] :
      List (BitVec 6 × BitVec 3)) → ∀ park d a b, decodeFibre (uniWord park op f d a b) = none) ∧
  (∀ park d imm, decodeFibre (uniImmWord park 0x03 0 d imm) = some (.uaddi ⟨park, d, imm⟩)) ∧
  (∀ park f d imm, decodeFibre (uniImmWord park 0x04 f d imm) = some (.umovi ⟨park, d, f ++ imm⟩)) ∧
  ∀ park f d imm, decodeFibre (uniImmWord park 0x05 f d imm) = some (.ului ⟨park, d, f ++ imm⟩)) ∧
  (∀ o, FibreResult (.jmp o) (fun _ => True) fun x _ p => { p with pc := wordTarget x.pc o.off }) ∧
  (∀ o, FibreResult (.call o) (fun _ => True) fun x _ p => { p with pc := wordTarget x.pc o.off, link := x.pc + 4 }) ∧
  (∀ o, FibreResult (.ubrz o) (fun x => UniReads x [o.c.toNat]) fun x _ p =>
    { p with pc := if x.uni o.c.toNat = 0 then wordTarget x.pc o.off else x.pc + 4 }) ∧
  (∀ o, FibreResult (.ubrnz o) (fun x => UniReads x [o.c.toNat]) fun x _ p =>
    { p with pc := if x.uni o.c.toNat = 0 then x.pc + 4 else wordTarget x.pc o.off }) ∧
  (∀ o, FibreResult (.ret o) (fun x => x.maskTrap x.active = false) fun _ _ p => { p with pc := p.link }) ∧
  (∀ o : RegA, FibreResult (.jr o) (fun x => UniReads x [o.a.toNat, o.a.toNat + 1] ∧
      (x.uni o.a.toNat).toNat % 4 = 0 ∧ (x.uni (o.a.toNat + 1)).toNat < 2 ^ 16) fun x _ p =>
    { p with pc := BitVec.ofNat 48 ((x.uni o.a.toNat).toNat + (x.uni (o.a.toNat + 1)).toNat * 2 ^ 32) }) ∧
  (∀ (o : RegA) (s : State) g (x : Machine.Group), Issues s g x → UniReads x [o.a.toNat, o.a.toNat + 1] →
    ¬((x.uni o.a.toNat).toNat % 4 = 0 ∧ (x.uni (o.a.toNat + 1)).toNat < 2 ^ 16) →
    Raises (.jr o) s g { cause := .illegal, ops := [s.word] })

/-! ### Jumps, branches, waits (06) -/

/-- Lane branches (R137): where each active lane goes; which part of a divergent subset stays current (02 R30); and
the branch that claims to be uniform and is not. -/
def Obligations.LaneBranches : Prop :=
  ∀ (o : LaneBranch) (mk : LaneBranch → Instr) (z : Bool), (mk, z) ∈ [(Instr.brz, true), (Instr.brnz, false)] →
    let taken := fun (x : Machine.Group) (l : Nat) => x.active.getLsbD l && ((x.reg l o.c.toNat == 0) == z)
    let agrees := fun (x : Machine.Group) => (∀ l, x.active.getLsbD l = true → taken x l = true) ∨ ∀ l, taken x l = false
    FibreResult (mk o) (fun x => LaneReady x [o.c.toNat] ∧ (o.hint = .uniform → agrees x))
      (fun x l p => { p with pc := if taken x l then wordTarget x.pc o.off else x.pc + 4 }) ∧
    ∀ (s : State) g (x : Machine.Group), Issues s g x → LaneReady x [o.c.toNat] → ¬agrees x →
      (o.hint = .uniform →
        Raises (mk o) s g
          { cause := .nonuniform
            ops := [s.word, ofBits fun i => taken x i, ofBits fun i => taken x (i + 32)] }) ∧
      (o.hint ≠ .uniform → o.park = false → x.tidy → wordTarget x.pc o.off ≠ x.pc + 4 →
        ∃ (t : State) (y : Machine.Group), exec (mk o) s = .next t ∧ t.group? g = some y ∧
          (∀ l, y.active.getLsbD l = (x.active.getLsbD l && (taken x l == match o.hint with
            | .likely => true
            | .unlikely => false
            | _ => decide ((wordTarget x.pc o.off).toNat < (x.pc + 4).toNat)))) ∧
          y.waiting = x.waiting ++ [newWaiting (x.active &&& ~~~y.active) .none (x.issues + 1)])

/-- `nop`, `park` and `yield` (R145, R146): only the PC moves; a `yield` hands the issue to the subset that has waited
longest, and its own waits.
A subset yields at its bound (02 R32): after 64 issues, where another may become current; a `rep` is not split.
Where the model had to choose a reading, that is its own: log 46 (a subset waiting at PC + 4 does not merge before a `yield`). -/
def Obligations.NopParkYield : Prop :=
  ((∀ o, FibreResult (.nop o) (fun _ => True) fun _ _ p => { p with pc := p.pc + 4 }) ∧
  (∀ o, FibreResult (.park o) (fun _ => True) fun _ _ p => { p with pc := p.pc + 4 }) ∧
  (∀ o, FibreResult (.yield o) (fun x => ¬x.someEligible) fun _ _ p => { p with pc := p.pc + 4 }) ∧
  ∀ (o : ParkOnly) (s : State) g (x : Machine.Group), Issues s g x → o.park = false → x.someEligible →
    ∃ (t : State) (y : Machine.Group) (u : Subset), exec (.yield o) s = .next t ∧ t = { s with groups := t.groups, free := t.free } ∧ OnlyGroup s t g y ∧
      x.longest u ∧ y.current = some { u with wait := .none, count := 0 } ∧
      y.waiting = (x.waiting ++ [newWaiting x.active .none (x.issues + 1)]).erase u ∧ y.regs = x.regs ∧
      ∀ l, y.fibre? l = (x.fibre? l).map (x.nextWord (fun _ => 0) l)) ∧
  (∀ (s : State) g (x : Machine.Group) (c : Subset), s.group? g = some x → x.current = some c → 64 ≤ c.count → x.someEligible → x.runAhead = none →
    x.repeating = false →
    ∃ (t : State) (y : Machine.Group) (u : Subset), exec (.subsetYield g) s = .next t ∧ t = { s with groups := t.groups, free := t.free } ∧ OnlyGroup s t g y ∧
      x.longest u ∧ y.current = some { u with wait := .none, count := 0 } ∧
      y.waiting = (x.waiting ++ [newWaiting c.mask .none x.issues]).erase u ∧ y.regs = x.regs ∧ y.fibres = x.fibres) ∧
  ∀ (s : State) g (x : Machine.Group) (c : Subset), s.group? g = some x → x.current = some c → (c.count < 64 ∨ ¬x.someEligible ∨ x.repeating = true) →
    exec (.subsetYield g) s = .next s

/-- How every word that takes effect ends (03 R53, 02 R32, R36): one issue of its group and its subset, the PC, and
the park marker: without a pending result of its fibres it does nothing, with one the subset waits. -/
def Obligations.CompletedWord : Prop :=
  ∀ (s : State) g (y : Machine.Group) n park, s.group? g = some y → y.current.isSome = true → y.faults = [] → y.runAhead = none →
    ∃ (z : Machine.Group), s.complete g y.active n park = s.setGroup g z ∧
      z = { y with fibres := z.fibres, current := z.current, waiting := z.waiting, issues := y.issues + 1 } ∧
      (∀ l, z.fibre? l = (y.fibre? l).map fun p =>
        if y.active.getLsbD l then { p with pc := p.pc + BitVec.ofNat 48 n } else p) ∧
      (park = false ∨ y.maskPending y.active = false →
        z.current = y.current.map (fun u => { u with count := u.count + 1 })) ∧
      (park = true → y.maskPending y.active = true →
        z.current = none ∧ newWaiting y.active .park (y.issues + 1) ∈ z.waiting) ∧
      (park = false → z.waiting = y.waiting)

/-- `fend` (R139): the issuing fibres are gone, and nothing of the group's other fibres, of its registers or of
memory changes; the last `fend` of a block ends the block (02 R23).
`fspawn` (R140): each active fibre that is no helper, in ascending order, starts a fibre in the next free lane
while there is one; d gets its lane, or all ones; the new fibre starts at the given PC with v0 and a cleared state. -/
def Obligations.FibresEndAndSpawn : Prop :=
  ((∀ o (s : State) g (x : Machine.Group) b, Issues s g x → s.blockOf x = some b → (Tab.get s.launches b.launch).bind Launch.pass = none →
    (∃ p ∈ x.fibres, x.active.getLsbD p.1 = false) →
    ∃ (t : State) (y : Machine.Group), exec (.fend o) s = .next t ∧ t = { s with groups := t.groups } ∧ OnlyGroup s t g y ∧ y.regs = x.regs ∧
      y.pend = x.pend ∧ y.current = none ∧ y.issues = x.issues + 1 ∧
      ∀ l, y.fibre? l = if x.active.getLsbD l then none else x.fibre? l) ∧
  ∀ o (s : State) g (x : Machine.Group) b, Issues s g x → s.blockOf x = some b → (∀ p ∈ x.fibres, x.active.getLsbD p.1 = true) →
    (s.groups.map Prod.fst).Nodup → (∀ p ∈ s.groups, p.2.block = x.block → p.1 = g ∨ p.2.fibres = []) →
    ∃ (t : State), exec (.fend o) s = .next t ∧ t.block? x.block = none ∧ ∀ p ∈ t.groups, p.2.block ≠ x.block) ∧
  (∀ (o : Regs3) (s : State) g (x : Machine.Group), Issues s g x → LaneReady x [o.a.toNat, o.b.toNat, o.d.toNat] → x.tidy → x.width ≤ 64 →
    (∀ l, x.active.getLsbD l = true → (x.reg l o.b.toNat).toNat % 4 = 0) →
    let who := (lanesOf x.active).filter fun l => !x.isHelper l
    let free := x.lanes.filter fun l => (x.fibre? l).isNone && !x.lanePending l
    ∃ (y : Machine.Group), RegisterOnly (.fspawn o) s g y ∧
      (∀ (k l : Nat), who[k]? = some l → match free[k]? with
        | none => y.reg l o.d.toNat = 0xFFFFFFFF
        | some m => y.reg l o.d.toNat = BitVec.ofNat 32 m ∧ y.reg m 0 = x.reg l o.a.toNat ∧
            (∃ u ∈ y.waiting, u.mask.getLsbD m = true ∧ u.wait = .none) ∧
            ∃ f c, x.fibre? l = some f ∧ y.fibre? m = some c ∧ c.pc = f.pc + (x.reg l o.b.toNat).signExtend 48 ∧
              c.flags = 0 ∧ c.repc = 0 ∧ c.link = 0) ∧
      (∀ l, x.active.getLsbD l = true → x.isHelper l = true → y.reg l o.d.toNat = 0xFFFFFFFF) ∧
      (∀ l r, r < 128 → ¬(x.active.getLsbD l = true ∧ r = o.d.toNat) → ¬(l ∈ free ∧ r = 0) → y.reg l r = x.reg l r)) ∧
  ∀ (o : Regs3) (s : State) g (x : Machine.Group) l, Issues s g x → LaneReady x [o.a.toNat, o.b.toNat, o.d.toNat] →
    x.active.getLsbD l = true → (x.reg l o.b.toNat).toNat % 4 ≠ 0 →
    (∀ k, k < l → x.active.getLsbD k = true → (x.reg k o.b.toNat).toNat % 4 = 0) →
    Raises (.fspawn o) s g { cause := .illegal, lane := some l, ops := [s.word] }

/-! ### Repetition (03 R74-R79) -/

/-- `rep`: the checks of the repeated word; then from the progress in sr.repc (or from the count, when that is 0)
iterations run one after the other, each with the effect of the instruction whose register fields are advanced by the
strides, at least one in a turn; one that faults leaves the earlier ones done; after the last the PC passes both words
and sr.repc is 0; an iteration whose word is held leaves it for a later turn, and the window of its fields is checked
before it runs (R78). This holds of every repeatable word; for `iadd` the registers that result are spelled out.
Where the model had to choose a reading, that is its own: log 37. -/
def Obligations.RepIterates : Prop :=
  ∀ (i : Instr) (sd sa sb : Nat) (count : Machine.Group → Nat) (reads : List Nat),
    ((∃ o : RepImm, i = .repImmediate o ∧ sd = o.sd.toNat ∧ sa = o.sa.toNat ∧ sb = o.sb.toNat ∧ reads = [] ∧
        count = fun _ => o.n.toNat) ∨
      ∃ o : RepReg, i = .repRegister o ∧ sd = o.sd.toNat ∧ sa = o.sa.toNat ∧ sb = o.sb.toNat ∧ reads = [o.d.toNat] ∧
        count = fun x => (x.uni o.d.toNat).toNat) →
    ∀ (s : State) g (x : Machine.Group) w s1, Issues s g x → x.repeating = false →
      (s.setGroup g x).fetchAt x (x.pc + 4) = .word w s1 →
      let inner : State := { s1 with word := w, wordOff := 4 }
      let refused := wbit w 31 = true ∨ (0x2C ≤ wbits w 29 24 ∧ wbits w 29 24 ≤ 0x2F) ∨ 0x3B ≤ wbits w 29 24
      let unused := (registerFields w ≤ 2 ∧ sb ≠ 0) ∨ (registerFields w = 1 ∧ sa ≠ 0)
      let illegal := fun (t : State) (op : Word) => exec i s =
        .next ((t.modGroup g Group.countPrefix).raise g { cause := .illegal, ops := [op] })
      (refused → illegal s1 s.word) ∧ (¬refused → decodeFibre w = none → illegal inner w) ∧
      (¬refused → (decodeFibre w).isSome = true → unused → illegal s1 s.word) ∧
      ∀ (v : Word), ¬refused → (decodeFibre w).isSome = true → ¬unused →
      (∀ r ∈ reads, r < x.wsize ∧ (wbits v 15 0 = 0 → x.isPending 0 r = false)) →
      (∀ p ∈ x.fibres, x.active.getLsbD p.1 = true → p.2.repc = v) →
      (∃ p ∈ x.fibres, x.active.getLsbD p.1 = true) → (wbits v 15 0 = 0 → count x ≤ 65535) → x.wsize ≤ 128 →
      let first := if wbits v 15 0 = 0 then 0 else wbits v 31 16
      let n := if wbits v 15 0 = 0 then count x else wbits v 15 0
      (∃ (m : Nat) (u t : State), exec i s = .next t ∧ m ≤ n ∧ State.IteratesTo x g w sd sa sb first n m inner u ∧
        ((m = n ∧ t = u.endRep g x.active (wbit w 30)) ∨
          (0 < m ∧ m < n ∧ t = u.modGroup g fun y => { y.setRepc (repcWord (first + m) (n - m)) with repeating := true }) ∨
          (m < n ∧ u.Continues g x ∧ u.StopsAt g w sd sa sb (first + m) (n - m) t) ∨
          (0 < m ∧ m < n ∧ ¬u.Continues g x))) ∧
      ∀ (q : LaneOp3), decodeFibre w = some (.iadd q) → (∀ k, k < n → LaneReady x [q.d.toNat + (first + k) * sd, q.a.toNat + (first + k) * sa, q.b.toNat + (first + k) * sb]) →
      ∃ (t : State) (y : Machine.Group) (m : Nat), exec i s = .next t ∧ OnlyGroup s t g y ∧ t.mem = s.mem ∧ m ≤ n ∧ (0 < n → 0 < m) ∧
        (∀ l r, r < 128 → y.reg l r =
          if x.active.getLsbD l then
            (List.range m).foldl (fun (f : Nat → Word) k r =>
              let j := first + k
              if r = q.d.toNat + j * sd then f (q.a.toNat + j * sa) + f (q.b.toNat + j * sb) else f r) (x.reg l) r
          else x.reg l r) ∧
        ∀ l, y.fibre? l = (x.fibre? l).map fun p =>
          if !x.active.getLsbD l then p
          else if m = n then { p with pc := p.pc + 8, repc := 0 }
          else { p with repc := BitVec.ofNat 32 ((first + m) * 2 ^ 16 + (n - m)) }

/-! ### Exceptions (13) -/

/-- `trap` and `brk` raise their exception with their code (06 R147).
The first checks of a word (03 R69, 02 R19, R37, 13 R295), on the lane words with registers a and b: a register
outside the window; else a pending one, by lane and then in operand order; else a source with a bad residue. -/
def Obligations.TrapWords : Prop :=
  ((∀ (o : CodeOp) (s : State) g (x : Machine.Group), Issues s g x →
    Raises (.trap o) s g { cause := .trap, ops := [BitVec.ofNat 32 o.code.toNat] } ∧
    Raises (.brk o) s g { cause := .brk, ops := [BitVec.ofNat 32 o.code.toNat] }) ∧
  ∀ w (s : State) g (x : Machine.Group), Issues s g x → Raises (.unassignedWord w) s g { cause := .illegal, ops := [w] }) ∧
  ∀ (mk : LaneOp3 → Instr) (n : Nat), (mk, n) ∈ ([(.iadd, 2), (.isub, 2), (.imul, 2), (.icmpEq, 2), (.sel, 3), (.andL, 2),
      (.orL, 2), (.xorL, 2), (.shl, 2), (.fadd, 2), (.fmul, 2), (.hadd2, 2), (.imad, 3), (.ffma, 3)] : List ((LaneOp3 → Instr) × Nat)) →
  ∀ (o : LaneOp3) (s : State) g (x : Machine.Group), s.cur = some g → s.group? g = some x → x.current.isSome = true → x.runAhead = none →
    s.lent g x = [] →
    let rs := [o.a.toNat, o.b.toNat, o.d.toNat]
    (∀ r, rs.find? (fun r => decide (x.wsize ≤ r)) = some r →
      Raises (mk o) s g { cause := .window, ops := [s.word, BitVec.ofNat 32 r] }) ∧
    ((∀ r ∈ rs, r < x.wsize) → ∀ l r, l < x.width → x.active.getLsbD l = true →
      rs.find? (x.isPending l) = some r →
      (∀ k, k < l → x.active.getLsbD k = true → ∀ q ∈ rs, x.isPending k q = false) →
      Raises (mk o) s g { cause := .pending, lane := some l, ops := [s.word, BitVec.ofNat 32 r] }) ∧
    ((∀ r ∈ rs, r < x.wsize) → (∀ l, l < x.width → x.active.getLsbD l = true → ∀ q ∈ rs, x.isPending l q = false) →
      ∀ l r, l < x.width → x.active.getLsbD l = true → (rs.take n).find? (fun q => x.bad.contains (128 * l + q)) = some r →
      (∀ k, k < l → x.active.getLsbD k = true → ∀ q ∈ rs.take n, x.bad.contains (128 * k + q) = false) →
      Raises (mk o) s g { cause := .residue, lane := some l, ops := [s.word, BitVec.ofNat 32 r] })

/-- Taking an exception (R281, R286, R291, R292): what a fault of a group in no handler does when its block has one:
each fibre's v0 to v3 and its link are saved in its frame, its link is where it resumes, TRAP is set, it goes to the
handler, and the record says what happened.
Where the model had to choose a reading, that is its own: log 37. -/
def Obligations.ExceptionEntry : Prop :=
  ∀ (s : State) g (x : Machine.Group) b (tr : Trap), Issues s g x → s.blockOf x = some b → b.tvec.getLsbD 0 = true → x.anyTrap = false → x.tidy →
    x.maskPending x.active = false → tr.cause ≠ .residue → s.Plain (groupArea b x) 0xA00 →
    ∃ (y : Machine.Group), (s.raise g tr) = { s with groups := (s.raise g tr).groups, mem := (s.raise g tr).mem, errors := (s.raise g tr).errors } ∧
      OnlyGroup s (s.raise g tr) g y ∧
      y = { x with fibres := y.fibres, fcause := y.fcause, fpc := y.fpc, fpcHi := y.fpcHi, xops := 0, ftime := y.ftime
                   ftimeHi := y.ftimeHi, fops := y.fops } ∧
      (∀ l, y.fibre? l = (x.fibre? l).map fun p =>
        if x.active.getLsbD l then
          { p with link := if tr.cause = .trap ∨ tr.cause = .brk then p.pc + 4 else p.pc
                   flags := p.flags ||| 8
                   pc := BitVec.ofNat 48 ((b.tvec.toNat / 4 * 4) + b.tvecHi.toNat * 2 ^ 32) }
        else p) ∧
      y.fcause.toNat % 256 = tr.cause.code ∧ y.fcause.getLsbD 31 = false ∧
      y.fcause.getLsbD 30 = x.moreFaults ∧
      (y.fpcHi ++ y.fpc).setWidth 48 = s.issuePc x ∧ y.ftimeHi ++ y.ftime = s.tsc ∧ y.fops = pad8 tr.ops ∧
      (s.raise g tr).words (groupArea b x) 14 = [y.fcause, y.fpc, y.fpcHi, y.xops, y.ftime, y.ftimeHi] ++ y.fops ∧
      (∀ l p, x.active.getLsbD l = true → x.fibre? l = some p →
        (s.raise g tr).words (groupArea b x + 0x200 + 32 * l) 8 =
          [x.reg l 0, x.reg l 1, x.reg l 2, x.reg l 3, p.link.setWidth 32, (p.link >>> 32).setWidth 32, 0, 0]) ∧
      SameMemory s (s.raise g tr) (groupArea b x) 0xA00

/-- Where a fault does not enter at once (R286, R290, R295): in a handler, without a handler, or for a bad residue the
front end takes it; while another subset of the group is in its handler it waits for that; while a result of its
fibres is pending it waits for that.
A subset that waited to enter the handler enters it when no result of its fibres is pending and no fibre of its
group is in one (R286), and may then become current. One that waited for another subset's handler to end enters only
where the block still has one: else the front end takes its fault.
Where the model had to choose a reading, that is its own: logs 7 and 37. -/
def Obligations.ExceptionWaits : Prop :=
  (∀ (s : State) g (x : Machine.Group) b (tr : Trap), Issues s g x → s.blockOf x = some b →
    (tr.cause = .residue ∨ x.maskTrap x.active = true ∨ b.tvec.getLsbD 0 = false →
      ∃ (r : Report) (y : Machine.Group), s.raise g tr = { s with groups := (s.raise g tr).groups, reports := s.reports ++ [r] } ∧
        r.kind = .blockEnded ∧ r.f.cause = tr.cause ∧ r.f.ops = tr.ops ∧ r.f.pc = s.issuePc x ∧ r.block = x.block ∧
        OnlyGroup s (s.raise g tr) g y ∧ y = { x with hold := some .report }) ∧
    (tr.cause ≠ .residue → b.tvec.getLsbD 0 = true → x.maskTrap x.active = false → ∀ u, x.current = some u →
      (x.anyTrap = true → ∃ (f : FaultRec), f.cause = tr.cause ∧ f.pc = s.issuePc x ∧
        s.raise g tr = s.setGroup g { x with current := none, waiting := x.waiting ++ [newWaiting u.mask (.handler f) x.issues] }) ∧
      (x.anyTrap = false → x.maskPending x.active = true → ∃ (f : FaultRec), f.cause = tr.cause ∧ f.pc = s.issuePc x ∧
        s.raise g tr = s.setGroup g { x with
          current := none
          waiting := x.waiting ++ [newWaiting u.mask (.entry f (tr.cause == .trap || tr.cause == .brk)) x.issues] }))) ∧
  (∀ (s : State) g (x : Machine.Group) b (u : Subset) f, s.group? g = some x → s.blockOf x = some b → b.tvec.getLsbD 0 = false →
    x.waiting.find? x.mayEnter = some u → u.wait = .handler f →
    ∃ (t : State) (r : Report), exec (.trapEntry g) s = .next t ∧ t = { s with groups := t.groups, reports := s.reports ++ [r] } ∧
      r.kind = .blockEnded ∧ r.f = f ∧ r.block = x.block ∧
      OnlyGroup s t g { x with hold := some .report, waiting := x.waiting.erase u ++ [{ u with wait := .none }] }) ∧
  ∀ (s : State) g (x : Machine.Group) b (u : Subset) f skip, s.group? g = some x → s.blockOf x = some b → (x.fibres.map Prod.fst).Nodup →
    x.waiting.find? x.mayEnter = some u →
    (u.wait = .entry f skip ∨ (u.wait = .handler f ∧ b.tvec.getLsbD 0 = true ∧ skip = (f.cause == .trap || f.cause == .brk))) →
    s.Plain (groupArea b x) 0xA00 →
    ∃ (t : State) (y : Machine.Group), exec (.trapEntry g) s = .next t ∧ OnlyGroup s t g y ∧ y.regs = x.regs ∧ y.current = x.current ∧
      y.waiting = x.waiting.erase u ++ [{ u with wait := .none }] ∧
      (∀ l, y.fibre? l = (x.fibre? l).map fun p =>
        if u.mask.getLsbD l then
          { p with link := if skip then p.pc + 4 else p.pc, flags := p.flags ||| 8
                   pc := BitVec.ofNat 48 ((b.tvec.toNat / 4 * 4) + b.tvecHi.toNat * 2 ^ 32) }
        else p) ∧
      y.fcause.toNat % 256 = f.cause.code ∧ SameMemory s t (groupArea b x) 0xA00

/-- Returning from an exception (R287): `ret` in a handler takes each fibre to the address in its link, and its frame
gives back the link and v0 to v3; TRAP is cleared. -/
def Obligations.ExceptionReturn : Prop :=
  ∀ o (s : State) g (x : Machine.Group) b, Issues s g x → s.blockOf x = some b → x.maskTrap x.active = true → x.tidy → s.rays = [] →
    s.Plain (groupArea b x) 0xA00 →
    ∃ (y : Machine.Group), RegisterOnly (.ret o) s g y ∧
      y = { x with regs := y.regs, fibres := y.fibres, current := y.current, waiting := y.waiting, issues := x.issues + 1 } ∧
      (∀ l, y.fibre? l = (x.fibre? l).map fun p =>
        if x.active.getLsbD l then
          let ws := s.words (groupArea b x + 0x200 + 32 * l) 6
          { p with pc := p.link, flags := p.flags &&& ~~~8, rewait := false
                   link := BitVec.ofNat 48 ((nth ws 4 0).toNat + (nth ws 5 0).toNat * 2 ^ 32) }
        else p) ∧
      x.Writes y (fun l r => x.active.getLsbD l && decide (r < 4)) fun l r =>
        nth (s.words (groupArea b x + 0x200 + 32 * l) 6) r 0

/-! ### Block-shared and system registers (02 R42-R45, 06 R141-R144) -/

/-- The block-shared registers (R45): read, write and add; in a block on several cores they are illegal (R42); and
their words. -/
def Obligations.SharedRegisters : Prop :=
  (∀ (o : BsD) (s : State) g (x : Machine.Group) b, Issues s g x → s.blockOf x = some b → b.seats.length = 1 →
    UniWrites x [o.d.toNat] →
    ∃ (s' : State) (y : Machine.Group), Completes (.bsr o) 4 o.park s g x s' ∧
      s' = { s with groups := s'.groups, blocks := s'.blocks } ∧ OnlyGroup s s' g y ∧ (∀ k, s'.block? k = s.block? k) ∧
      y = { x with regs := y.regs } ∧
      x.Writes y (fun l r => decide (l < x.width) && r == o.d.toNat) fun _ _ => nth b.bs o.n.toNat 0) ∧
  (∀ (o : BsA) (s : State) g (x : Machine.Group) b, Issues s g x → s.blockOf x = some b → b.seats.length = 1 →
    UniReads x [o.a.toNat] →
    ∃ s' : State, Completes (.bsw o) 4 o.park s g x s' ∧ s' = { s with groups := s'.groups, blocks := s'.blocks } ∧
      OnlyGroup s s' g x ∧ (∀ k, k ≠ x.block → s'.block? k = s.block? k) ∧
      s'.block? x.block = some { b with bs := b.bs.set o.n.toNat (x.uni o.a.toNat) }) ∧
  (∀ (o : BsDA) (s : State) g (x : Machine.Group) b, Issues s g x → s.blockOf x = some b → b.seats.length = 1 →
    UniReads x [o.a.toNat] → UniWrites x [o.d.toNat] →
    ∃ (s' : State) (y : Machine.Group), Completes (.bsadd o) 4 o.park s g x s' ∧
      s' = { s with groups := s'.groups, blocks := s'.blocks } ∧ OnlyGroup s s' g y ∧
      (∀ k, k ≠ x.block → s'.block? k = s.block? k) ∧ y = { x with regs := y.regs } ∧
      x.Writes y (fun l r => decide (l < x.width) && r == o.d.toNat) (fun _ _ => nth b.bs o.n.toNat 0) ∧
      s'.block? x.block = some { b with bs := b.bs.set o.n.toNat (nth b.bs o.n.toNat 0 + x.uni o.a.toNat) }) ∧
  (∀ (o : BsDA) (s : State) g (x : Machine.Group) b, Issues s g x → s.blockOf x = some b → b.seats.length ≠ 1 →
    UniReads x [o.a.toNat] → UniWrites x [o.d.toNat] →
    ∀ i ∈ [Instr.bsr { park := o.park, d := o.d, n := o.n }, .bsw { park := o.park, a := o.a, n := o.n }, .bsadd o],
      Raises i s g { cause := .illegal, ops := [s.word] }) ∧
  (∀ park d a (n : BitVec 4), decodeFibre (uniWord park 0x34 0 d 0 (0#3 ++ n)) = some (.bsr ⟨park, d, n⟩) ∧
    decodeFibre (uniWord park 0x34 1 0 a (0#3 ++ n)) = some (.bsw ⟨park, a, n⟩) ∧
    decodeFibre (uniWord park 0x34 2 d a (0#3 ++ n)) = some (.bsadd ⟨park, d, a, n⟩)) ∧
  ∀ park f d a (b : Reg), (16 ≤ b.toNat ∨ 3 ≤ f.toNat ∨ (f = 0 ∧ a ≠ 0) ∨ (f = 1 ∧ d ≠ 0)) →
    decodeFibre (uniWord park 0x34 f d a b) = none

/-- What `srd` reads from every register (R141-R143, 13 R281, 22 R388) and `time` (R144), in every lane of the group.
The registers that reading clears (02 R48, R49, R5): sr.wake and the notify registers.
Where the model had to choose a reading, that is its own: log 24. -/
def Obligations.SystemReads : Prop :=
  ((∀ (o : SysOp) (s : State) g (x : Machine.Group) b, Issues s g x → s.blockOf x = some b → o.reg.readClears = false →
    UniWrites x [o.d.toNat] →
    ∃ y, RegisterOnly (.srd o) s g y ∧ x.Stepped y (x.nextWord fun _ => 0) ∧
      x.Writes y (fun l r => decide (l < x.width) && r == o.d.toNat) fun l _ =>
        match o.reg, x.fibre? l with
        | .grp, _ => BitVec.ofNat 32 (x.first * 2 ^ 24 + x.wsize * 2 ^ 16 + x.wbase * 2 ^ 8 + x.width)
        | .tvec, _ => b.tvec
        | .tvecHi, _ => b.tvecHi
        | .fcause, _ => x.fcause
        | .fpc, _ => x.fpc
        | .fpcHi, _ => x.fpcHi
        | .ftime, _ => x.ftime
        | .ftimeHi, _ => x.ftimeHi
        | .fops i, _ => nth x.fops i.val 0
        | .rasthr, _ => (s.core x.core).rasthr
        | .clk, _ => s.power.word
        | .pred, some f => f.flags ||| 1 ||| (if (x.waitOf l).parks || (f.rewait && (x.waitOf l).enters) then 4 else 0)
        | .repc, some f => f.repc
        | .lnk, some f => f.link.setWidth 32
        | .lnkHi, some f => (f.link >>> 32).setWidth 32
        | .place, some _ => BitVec.ofNat 32 (x.core * 2 ^ 12 + x.part * 2 ^ 8 + x.row * 2 ^ 6 + (x.first + l))
        | .lvl k, some f => nth f.lvl k.val 0
        | _, _ => 0) ∧
  ∀ (o : RegD) (s : State) g (x : Machine.Group), Issues s g x → UniWrites x [o.d.toNat, o.d.toNat + 1] → x.wsize ≤ 128 →
    ∃ y, RegisterOnly (.time o) s g y ∧ x.Stepped y (x.nextWord fun _ => 0) ∧
      x.Writes y (fun l r => decide (l < x.width) && (r == o.d.toNat || r == o.d.toNat + 1)) fun _ r =>
        if r = o.d.toNat then s.tsc.setWidth 32 else (s.tsc >>> 32).setWidth 32) ∧
  (∀ (o : SysOp) (s : State) g (x : Machine.Group), Issues s g x → o.reg = .wake → UniWrites x [o.d.toNat] →
    ∃ (s' : State) (y : Machine.Group), Completes (.srd o) 4 o.park s g x s' ∧
      s' = { s with groups := s'.groups, cores := s'.cores } ∧ OnlyGroup s s' g y ∧ y = { x with regs := y.regs } ∧
      x.Writes y (fun l r => decide (l < x.width) && r == o.d.toNat)
        (fun _ _ => BitVec.ofNat 32 ((s.core x.core).wakeFrom.toNat * 2 ^ 20 + (s.core x.core).wakeBits.toNat)) ∧
      s'.core x.core = { s.core x.core with wakeFrom := 0, wakeBits := 0 } ∧ ∀ c, c ≠ x.core → s'.core c = s.core c) ∧
  ∀ (o : SysOp) (s : State) g (x : Machine.Group) i, Issues s g x → o.reg = .ny i → UniWrites x [o.d.toNat] →
    let key := 16 * x.core + i.val
    let v := Tab.getD s.notify key 0
    ∃ (s' : State) (y : Machine.Group), Completes (.srd o) 4 o.park s g x s' ∧
      s' = { s with groups := s'.groups, notify := s'.notify, ord := s'.ord } ∧ OnlyGroup s s' g y ∧
      y = { x with regs := y.regs, tags := y.tags } ∧
      x.Writes y (fun l r => decide (l < x.width) && r == o.d.toNat) (fun _ _ => v) ∧
      Tab.getD s'.notify key 0 = 0 ∧ (∀ k, k ≠ key → Tab.getD s'.notify k 0 = Tab.getD s.notify k 0) ∧
      (v = 0 → s'.ord = s.ord) ∧ (v ≠ 0 → y.tags = []) ∧ s'.ord.wb = s.ord.wb ∧ s'.ord.writes = s.ord.writes

/-- `swr` (R141-R143, 13 R281): registers that reading clears and a reserved bit that is set are illegal; a fibre's
register changes in the active fibres; the block's, the core's and the fault record's in their one place, the record in
the save area too (13 R291); read-only fields keep their values. -/
def Obligations.SystemWrites : Prop :=
  (∀ (o : SysOp) (s : State) g (x : Machine.Group), Issues s g x → UniReads x [o.d.toNat] →
    (o.reg.readClears = true ∨ x.uni o.d.toNat &&& reservedBits o.reg ≠ 0) →
    Raises (.swr o) s g { cause := .illegal, ops := [s.word] }) ∧
  (∀ o : SysOp, FibreResult (.swr o)
    (fun x => perFibre o.reg = true ∧ UniReads x [o.d.toNat] ∧ x.uni o.d.toNat &&& reservedBits o.reg = 0)
    fun x _ p =>
      let v := x.uni o.d.toNat
      match o.reg with
      | .pred => { p with pc := p.pc + 4, flags := (p.flags &&& ~~~0x1F00) ||| (v &&& 0x1F00) }
      | .repc => { p with pc := p.pc + 4, repc := v }
      | .lnk => { p with pc := p.pc + 4, link := BitVec.ofNat 48 (v.toNat + p.link.toNat / 2 ^ 32 * 2 ^ 32) }
      | .lnkHi => { p with pc := p.pc + 4, link := BitVec.ofNat 48 (p.link.toNat % 2 ^ 32 + v.toNat * 2 ^ 32) }
      | _ => { p with pc := p.pc + 4 }) ∧
  ∀ (o : SysOp) (s : State) g (x : Machine.Group) b, Issues s g x → s.blockOf x = some b → UniReads x [o.d.toNat] →
    perFibre o.reg = false → o.reg.readClears = false → x.uni o.d.toNat &&& reservedBits o.reg = 0 →
    let v := x.uni o.d.toNat
    ∃ (s' : State) (y : Machine.Group), Completes (.swr o) 4 o.park s g x s' ∧
      s' = { s with groups := s'.groups, blocks := s'.blocks, cores := s'.cores, mem := s'.mem, errors := s'.errors } ∧
      OnlyGroup s s' g y ∧ (∀ k, k ≠ x.block → s'.block? k = s.block? k) ∧
      (∀ c, s'.core c = if c = x.core ∧ o.reg = .rasthr then { s.core c with rasthr := v } else s.core c) ∧
      s'.block? x.block = some (match o.reg with
        | .tvec => { b with tvec := v }
        | .tvecHi => { b with tvecHi := v }
        | _ => b) ∧
      y = (match o.reg with
        | .fcause => { x with fcause := (v &&& 0xBFFFFFFF) ||| (x.fcause &&& 0x40000000) }
        | .fpc => { x with fpc := v }
        | .fpcHi => { x with fpcHi := v }
        | .ftime => { x with ftime := v }
        | .ftimeHi => { x with ftimeHi := v }
        | .fops i => { x with fops := x.fops.set i.val v }
        | _ => x) ∧
      (s.Plain (groupArea b x) (4 * (6 + x.fops.length)) →
        (o.reg ∉ [.tvec, .tvecHi, .rasthr] → x.fops.length = 8 → s'.words (groupArea b x) 14 = y.faultWords) ∧
        SameMemory s s' (groupArea b x) (4 * (6 + x.fops.length)))

/-! ### Banks (08) -/

/-- The loads of lanes from banks (R181, R182): which registers become pending, and what is on its way to them. -/
def Obligations.BankLoads : Prop :=
  ∀ (i : Instr) (sp : Space) (n d a b : Nat) (park : Bool),
    ((∃ o : MemOp, (i = .lds o ∧ sp = .scr ∨ i = .lda o ∧ sp = .act) ∧ n = sizeRegs o.size ∧ d = o.d.toNat ∧
        a = o.a.toNat ∧ b = o.b.toNat ∧ park = o.park) ∨
      ∃ o : Regs3, i = .ldw o ∧ sp = .wgt ∧ n = 4 ∧ d = o.d.toNat ∧ a = o.a.toNat ∧ b = o.b.toNat ∧ park = o.park) →
    ∀ (s : State) g (x : Machine.Group) (blk : Block) (key : Nat → Nat), Issues s g x → s.blockOf x = some blk → x.wsize ≤ 128 →
      LaneReady x (a :: (List.range n).map (d + ·)) → UniReads x [b] →
      (∀ l, x.active.getLsbD l = true → blk.checkAt sp (4 * n) (4 * n) (x.reg l a + x.uni b) = .ok (key l)) →
      (∀ u ∈ s.portUnits, u.org.group ≠ g) → s.errors = [] →
      ∃ (s' : State) (y : Machine.Group), Completes i 4 park s g x s' ∧
        s' = { s with groups := s'.groups, results := s'.results } ∧ OnlyGroup s s' g y ∧
        y = { x with pend := y.pend, tags := y.tags } ∧
        (∀ l r, r < 128 → y.isPending l r = (x.isPending l r || (x.active.getLsbD l && decide (d ≤ r) && decide (r < d + n)))) ∧
        s'.results = s.results ++ (lanesOf x.active).map fun l =>
          { group := g, lane := some l, reg := d, spec := false, bank := some (keyBank (key l))
            vals := wordsOfBytes (s.loadBytes x.core (some g) none (key l) (4 * n)).1 }

/-- The stores of lanes to banks (R181): nothing changes but what the group then finds at the bytes of each lane that
is no helper, where the highest lane wins; the homes keep their bytes until the writes move. -/
def Obligations.BankStores : Prop :=
  ∀ (i : Instr) (sp : Space) (o : MemOp), (i = .sts o ∧ sp = .scr ∨ i = .sta o ∧ sp = .act) →
    let n := sizeRegs o.size
    ∀ (s : State) g (x : Machine.Group) (blk : Block) (key : Nat → Nat), Issues s g x → s.blockOf x = some blk →
      LaneReady x (o.a.toNat :: (List.range n).map (o.d.toNat + ·)) → UniReads x [o.b.toNat] →
      let takes := fun (l : Nat) => x.active.getLsbD l && !x.isHelper l
      (∀ l, takes l = true → blk.checkAt sp (4 * n) (4 * n) (x.reg l o.a.toNat + x.uni o.b.toNat) = .ok (key l)) →
      (∀ u ∈ s.portUnits, u.org.group ≠ g) →
      ∃ s' : State, Completes i 4 o.park s g x s' ∧ s' = { s with ord := s'.ord } ∧
        s'.ord = { s.ord with wb := s'.ord.wb, seq := s'.ord.seq } ∧ s.ord.wb <+: s'.ord.wb ∧
        (∀ l, takes l = true → (∀ k, l < k → takes k = true → key k ≠ key l) →
          (s'.loadBytes x.core (some g) none (key l) (4 * n)).1 = bytesOfWords (x.regList l o.d.toNat n)) ∧
        ∀ core group k, (core ≠ x.core ∨ group ≠ some g ∨ ∀ l, takes l = true → ¬(key l ≤ k ∧ k < key l + 4 * n)) →
          s'.loadByte core group none k = s.loadByte core group none k

/-- The bounds of bank accesses (R180): the lowest lane whose address leaves its space raises BANKBOUND; when all
are inside, the lowest lane whose slot maps no bank raises DETACHED. A store or `ats` asks this of lanes that are no helpers.
How step 2 to 6 of R154 stop an access: an invalid record is ILLEGAL, a store or atomic to a read-only buffer is
PROTECT, a lane outside a trapping extent is BOUNDS at the lowest such lane.
Where the model had to choose a reading, that is its own: log 43 (the operands of that PROTECT). -/
def Obligations.AccessFaults : Prop :=
  (∀ (i : Instr) (sp : Space) (n : Nat) (o : Regs3) (helpers : Bool) (size : Size), n = sizeRegs size →
    (i = .lds { park := o.park, size := size, d := o.d, a := o.a, b := o.b } ∧ sp = .scr ∧ helpers = true ∨
      i = .lda { park := o.park, size := size, d := o.d, a := o.a, b := o.b } ∧ sp = .act ∧ helpers = true ∨
      i = .ldw o ∧ sp = .wgt ∧ size = .four ∧ helpers = true ∨
      i = .sts { park := o.park, size := size, d := o.d, a := o.a, b := o.b } ∧ sp = .scr ∧ helpers = false ∨
      i = .sta { park := o.park, size := size, d := o.d, a := o.a, b := o.b } ∧ sp = .act ∧ helpers = false ∨
      i = .atsAdd o ∧ sp = .scr ∧ size = .one ∧ helpers = false) →
    ∀ (s : State) g (x : Machine.Group) (blk : Block) (l : Nat), Issues s g x → s.blockOf x = some blk →
      LaneReady x (o.a.toNat :: (List.range n).map (o.d.toNat + ·)) → UniReads x [o.b.toNat] →
      let takes := fun (l : Nat) => x.active.getLsbD l && (helpers || !x.isHelper l)
      let addr := fun (l : Nat) => x.reg l o.a.toNat + x.uni o.b.toNat
      let out := fun (v : Word) => decide (2 ^ 24 ≤ v.toNat) || wbits v 23 22 == 3 || (wbits v 23 22 != 0 && sp != .act)
        || decide (blk.window sp ≤ wbits v 21 18) || wbits v 17 0 % (4 * n) != 0
        || decide ([262144, 16384, 32768][wbits v 23 22]?.getD 0 < wbits v 17 0 + 4 * n)
      takes l = true →
      (out (addr l) = true → (∀ k, k < l → takes k = true → out (addr k) = false) →
        Raises i s g { cause := .bankbound, lane := some l, ops := [s.word, addr l] }) ∧
      ((∀ k, takes k = true → out (addr k) = false) → blk.bank? sp (wbits (addr l) 21 18) = none →
        (∀ k, k < l → takes k = true → (blk.bank? sp (wbits (addr k) 21 18)).isSome = true) →
        Raises i s g { cause := .detached, lane := some l, ops := [s.word, addr l] })) ∧
  ∀ (i : Instr) (o : Regs3) (write : Bool) (width : Nat),
    (i = .ldb { park := o.park, size := .one, d := o.d, a := o.a, b := o.b } ∧ write = false ∧ width = 0 ∨
      i = .stb { park := o.park, size := .one, d := o.d, a := o.a, b := o.b } ∧ write = true ∧ width = 0 ∨
      i = .atbAdd o ∧ write = true ∧ width = 4 ∨ i = .redbAdd o ∧ write = true ∧ width = 4) →
    ∀ (s : State) g (x : Machine.Group), Issues s g x →
      (o.b.toNat % 4 ≠ 0 → Raises i s g { cause := .illegal, ops := [s.word] }) ∧
      (o.b.toNat % 4 = 0 → LaneReady x [o.a.toNat, o.d.toNat] → UniReads x ((List.range 4).map (o.b.toNat + ·)) →
        let r := x.record o.b.toNat
        let asks := r.2 = true ∧ if width = 0 then r.1.u2 ≤ 8 else r.1.u2 = 8
        let takes := fun (l : Nat) => x.active.getLsbD l && (!write || !x.isHelper l)
        (¬asks → Raises i s g { cause := .illegal, ops := [s.word] }) ∧
        (asks → write = true → r.1.ro = true →
          Raises i s g { cause := .protect, ops := [s.word, BitVec.ofNat 32 r.1.base, BitVec.ofNat 32 (r.1.base / 2 ^ 32)] }) ∧
        (asks → (write = true → r.1.ro = false) → r.1.tb = true → ∀ l, takes l = true →
          (r.1.place (x.reg l o.a.toNat)).1 = false →
          (∀ k, k < l → takes k = true → (r.1.place (x.reg k o.a.toNat)).1 = true) →
          Raises i s g { cause := .bounds, lane := some l, ops := [s.word, x.reg l o.a.toNat] }))

/-- Atomics on banks (R183): one unit on its way to each word touched, with every lane's operands; every active lane's
d is pending, and a helper's result, 0, is on its way.
What the atomic operations store (07 R169), and how a unit of `ats` (08 R183) and the lanes of an atomic on one line
(07 R170) are applied: one lane after the other, each finding what the one before it stored.
Where the model had to choose a reading, that is its own: logs 25 and 26. -/
def Obligations.BankAtomics : Prop :=
  (∀ (mk : Regs3 → Instr) (op : AtomOp), (mk, op) ∈ ([(.atsAdd, .add), (.atsExch, .exch), (.atsCas, .cas), (.atsAnd, .and),
      (.atsOr, .or), (.atsXor, .xor), (.atsMinU, .minU), (.atsMaxU, .maxU), (.atsMinS, .minS), (.atsMaxS, .maxS)] :
        List ((Regs3 → Instr) × AtomOp)) →
    ∀ (o : Regs3) (s : State) g (x : Machine.Group) (blk : Block) (key : Nat → Nat), Issues s g x → s.blockOf x = some blk →
      LaneReady x [o.a.toNat, o.d.toNat] → (op = .cas → LaneReady x [o.d.toNat + 1]) → UniReads x [o.b.toNat] →
      let takes := fun (l : Nat) => x.active.getLsbD l && !x.isHelper l
      (∀ l, takes l = true → blk.checkAt .scr 4 4 (x.reg l o.a.toNat + x.uni o.b.toNat) = .ok (key l)) →
      ∃ (s' : State) (y : Machine.Group) (us : List PortUnit), Completes (mk o) 4 o.park s g x s' ∧
        s' = { s with groups := s'.groups, results := s'.results, portUnits := s.portUnits ++ us, ord := s'.ord } ∧
        s'.ord = { s.ord with seq := s.ord.seq + 1 } ∧ OnlyGroup s s' g y ∧ y = { x with pend := y.pend } ∧
        (∀ l r, r < 128 → y.isPending l r = (x.isPending l r || (x.active.getLsbD l && r == o.d.toNat))) ∧
        s'.results = s.results ++ ((lanesOf x.active).filter x.isHelper).map (fun l =>
          { group := g, lane := some l, reg := o.d.toNat, vals := [0], spec := false }) ∧
        (us.map fun u => (u.bank, u.off)).Nodup ∧
        (∀ u ∈ us, u.org = s.origin g x ∧ ∃ ls, u.op = .atomic op o.d.toNat ls ∧ ls ≠ [] ∧
          ∀ p ∈ ls, takes p.lane = true ∧ p.key = key p.lane ∧ bankKey u.bank .data u.off = p.key) ∧
        ∀ l, takes l = true → ∃ u ∈ us, ∃ ls, u.op = .atomic op o.d.toNat ls ∧
          { lane := l, key := key l, comp := none, v := (x.reg l o.d.toNat).setWidth 64
            new := (x.reg l (o.d.toNat + 1)).setWidth 64 } ∈ ls) ∧
  (∀ (m v n : Word) (w : DWord → Word), (w = fun d => d.setWidth 32) →
    let f := fun (op : AtomOp) => w (op.apply false (m.setWidth 64) (v.setWidth 64) (n.setWidth 64))
    f .add = m + v ∧ f .exch = v ∧ f .cas = (if m = v then n else m) ∧ f .and = m &&& v ∧ f .or = m ||| v ∧
      f .xor = m ^^^ v ∧ f .minU = BitVec.ofNat 32 (min m.toNat v.toNat) ∧ f .maxU = BitVec.ofNat 32 (max m.toNat v.toNat) ∧
      f .minS = BitVec.ofInt 32 (min m.toInt v.toInt) ∧ f .maxS = BitVec.ofInt 32 (max m.toInt v.toInt) ∧
      f .fadd = (fAdd m v).1) ∧
  (∀ m v n : DWord, AtomOp.apply .add true m v n = m + v ∧ AtomOp.apply .exch true m v n = v ∧
    AtomOp.apply .cas true m v n = (if m = v then n else m) ∧
    AtomOp.apply .minU true m v n = BitVec.ofNat 64 (min m.toNat v.toNat) ∧
    AtomOp.apply .maxU true m v n = BitVec.ofNat 64 (max m.toNat v.toNat)) ∧
  (∀ (s : State) i (u : PortUnit) op d (ls : List AtomLane) key, s.portUnits[i]? = some u → u.op = .atomic op d ls →
    ((s.portUnits.take i).any fun v => v.precedes u) = false → s.ord.wb = [] → s.errors = [] →
    (∀ p ∈ ls, p.key = key) → (s.group? u.org.group).isSome = true →
    let word := fun (n : Nat) => (ls.take n).foldl (fun (m : DWord) p => ((op.apply false m p.v p.new).setWidth 32).setWidth 64)
      (BitVec.ofNat 64 (ofBytes (s.readHome key 4)))
    ∃ t, exec (.barrierUnitApply i) s = .next t ∧ t.portUnits = s.portUnits.eraseIdx i ∧
      t.readHome key 4 = bytesOf 4 (word ls.length).toNat ∧ SameMemory s t key 4 ∧
      t.results = s.results ++ (ls.zipIdx.map fun p =>
        { group := u.org.group, lane := some p.1.lane, reg := d, vals := [(word p.2).setWidth 32], spec := false
          bank := some u.bank })) ∧
  ∀ (s : State) i (q : SliceOp) d (p : AtomLane), s.sliceOps[i]? = some q → q.lanes = [p] → q.dest = some d → p.comp = none →
    (∀ k e, k < i → s.sliceOps[k]? = some e → e.precedes q = false) → (∀ r ∈ s.rays, r.2.precedesOp q = false) →
    s.ord.wb = [] → s.ord.writes = [] → s.errors = [] → (s.group? q.org.group).isSome = true →
    let n := if q.wide then 8 else 4
    let m := BitVec.ofNat 64 (ofBytes (s.readHome p.key n))
    ∃ t, exec (.sliceAtomicApply i) s = .next t ∧ t.sliceOps = s.sliceOps.eraseIdx i ∧
      t.readHome p.key n = bytesOf n (q.op.apply q.wide m p.v p.new).toNat ∧ SameMemory s t p.key n ∧
      t.results = s.results ++ [{ group := q.org.group, lane := some p.lane, reg := d, spec := false
                                  vals := if q.wide then [m.setWidth 32, (m >>> 32).setWidth 32] else [m.setWidth 32] }]

/-! ### Global memory (07) -/

/-- The loads of lanes from global memory through a buffer record (R151-R154, R158-R161, R167): lanes outside the extent
get zeros; the others what the group finds at their elements. -/
def Obligations.GlobalLoads : Prop :=
  ∀ (o : MemOp) (s : State) g (x : Machine.Group) (page : Nat → Page), Issues s g x → x.wsize ≤ 128 → o.b.toNat % 4 = 0 →
    let n := sizeRegs o.size
    let r := x.record o.b.toNat
    let inside := fun (l : Nat) => (r.1.place (x.reg l o.a.toNat)).1
    let els := fun (l : Nat) => r.1.elems l (x.reg l o.a.toNat) (if r.1.u2 ≤ 8 then n else 1)
    LaneReady x (o.a.toNat :: (List.range n).map (o.d.toNat + ·)) → UniReads x ((List.range 4).map (o.b.toNat + ·)) →
    r.2 = true → (r.1.u2 ≤ 8 ∨ n * 8 = r.1.u2) → (r.1.tb = true → ∀ l, x.active.getLsbD l = true → inside l = true) →
    (∀ l, x.active.getLsbD l = true → inside l = true → ∀ e ∈ els l,
      formatFault (page e.va) r.1 false (if r.1.u2 ≤ 8 then n else 1) e.va = false ∧
      ¬(fmtMarker (page e.va).fmt = true ∧ r.1.raw = false ∧ (page e.va).scl = true) ∧
      s.FindsWith (fun c => ∃ k f, f ∈ els k ∧ (page f.va).comp = some c) (s.rootOf x) e.va .read (page e.va)) →
    (∀ q ∈ s.sliceOps, q.org.group ≠ g) → (∀ r ∈ s.rays, r.2.updates = true → r.2.org.group ≠ g) → s.errors = [] →
    (∀ l, x.active.getLsbD l = true → inside l = true → ∀ e ∈ els l, ∀ j, (s.homeRead (page e.va).comp j).2 = false) →
    let locs := fun (l : Nat) => (els l).map fun e =>
      let typed := (page e.va).fmt != 0 && !r.1.raw
      ({ e := e, page := page e.va, typed := typed
         scale := if typed && fmtMarker (page e.va).fmt then some ((page e.va).at ((page e.va).scaleVa e.va e.hi)) else none } : Loc)
    ∃ (s' : State) (y : Machine.Group), Completes (.ldb o) 4 o.park s g x s' ∧
      s' = { s with groups := s'.groups, results := s'.results, cached := s'.cached, compPages := s'.compPages, free := s'.free } ∧
      OnlyGroup s s' g y ∧ y = { x with pend := y.pend, tags := y.tags } ∧
      (∀ l k, k < 128 → y.isPending l k =
        (x.isPending l k || (x.active.getLsbD l && decide (o.d.toNat ≤ k) && decide (k < o.d.toNat + n)))) ∧
      s'.results = s.results ++ (lanesOf x.active).map fun l =>
        { group := g, lane := some l, reg := o.d.toNat, spec := false
          vals := if inside l then ((locs l).flatMap fun q => (s.loadElem x.core (some g) r.1.u2 q).ws).take n
                  else List.replicate n 0 }

/-- The stores of lanes to untyped memory (R167, R168): helpers and lanes outside the extent store nothing; each other
lane's bytes are what its group then finds there; no register and no byte at home changes. -/
def Obligations.GlobalStores : Prop :=
  ∀ (o : MemOp) (s : State) g (x : Machine.Group) (page : Nat → Page), Issues s g x → o.b.toNat % 4 = 0 →
    let n := sizeRegs o.size
    let r := x.record o.b.toNat
    let takes := fun (l : Nat) => x.active.getLsbD l && !x.isHelper l && (r.1.place (x.reg l o.a.toNat)).1
    let els := fun (l : Nat) => r.1.elems l (x.reg l o.a.toNat) (if r.1.u2 ≤ 8 then n else 1)
    LaneReady x (o.a.toNat :: (List.range n).map (o.d.toNat + ·)) → UniReads x ((List.range 4).map (o.b.toNat + ·)) →
    r.2 = true → r.1.ro = false → (r.1.u2 ≤ 8 ∨ n * 8 = r.1.u2) →
    (r.1.tb = true → ∀ l, x.active.getLsbD l = true → x.isHelper l = false → takes l = true) →
    (∀ l, takes l = true → ∀ e ∈ els l, (page e.va).fmt = 0 ∧
      formatFault (page e.va) r.1 false (if r.1.u2 ≤ 8 then n else 1) e.va = false ∧
      s.FindsWith (fun c => ∃ k f, f ∈ els k ∧ (page f.va).comp = some c) (s.rootOf x) e.va .write (page e.va)) →
    let here := fun (e : Elem) (k : Nat) =>
      decide (((page e.va).at e.va).key ≤ k) && decide (k < ((page e.va).at e.va).key + (r.1.u2 + 1) / 2)
    ∃ s' : State, Completes (.stb o) 4 o.park s g x s' ∧
      s' = { s with ord := s'.ord, cached := s'.cached, compPages := s'.compPages, free := s'.free } ∧
      s'.ord = { s.ord with wb := s'.ord.wb, seq := s'.ord.seq } ∧ s.ord.wb <+: s'.ord.wb ∧
      (∀ l e, takes l = true → els l = [e] → 2 ≤ r.1.u2 →
        (∀ k f, takes k = true → f ∈ els k → (k = l ∧ f = e) ∨ ∀ j, ¬(here e j = true ∧ here f j = true)) →
        ∀ c, (s'.loadBytes x.core (some g) c ((page e.va).at e.va).key (r.1.u2 / 2)).1 =
          bytesOf (r.1.u2 / 2) (ofBytes (bytesOfWords (x.regList l o.d.toNat n)))) ∧
      ∀ core group c k, (core ≠ x.core ∨ group ≠ some g ∨ ∀ l e, takes l = true → e ∈ els l → here e k = false) →
        s'.loadByte core group c k = s.loadByte core group c k

/-- Atomics and reductions on global memory (R168-R171): their lanes, by line, are on their way to the slices with
their operands; where the word returns values every active lane's d is pending, and zeros are on their way to lanes
that take no part. -/
def Obligations.GlobalAtomics : Prop :=
  ∀ (mk : Regs3 → Instr) (op : AtomOp) (wide returns : Bool), (mk, op, wide, returns) ∈ ([
      (.atbAdd, .add, false, true), (.atbExch, .exch, false, true), (.atbCas, .cas, false, true), (.atbAnd, .and, false, true),
      (.atbOr, .or, false, true), (.atbXor, .xor, false, true), (.atbMinU, .minU, false, true), (.atbMaxU, .maxU, false, true),
      (.atbMinS, .minS, false, true), (.atbMaxS, .maxS, false, true), (.atb64Add, .add, true, true),
      (.atb64Exch, .exch, true, true), (.atb64Cas, .cas, true, true), (.atb64MinU, .minU, true, true),
      (.atb64MaxU, .maxU, true, true), (.redbAdd, .add, false, false), (.redbFadd, .fadd, false, false),
      (.redbAnd, .and, false, false), (.redbOr, .or, false, false), (.redbXor, .xor, false, false),
      (.redbMinU, .minU, false, false), (.redbMaxU, .maxU, false, false)] : List ((Regs3 → Instr) × AtomOp × Bool × Bool)) →
    ∀ (o : Regs3) (s : State) g (x : Machine.Group) (page : Nat → Page), Issues s g x → o.b.toNat % 4 = 0 → x.wsize ≤ 128 →
      let k := if wide then 2 else 1
      let r := x.record o.b.toNat
      let takes := fun (l : Nat) => x.active.getLsbD l && !x.isHelper l && (r.1.place (x.reg l o.a.toNat)).1
      let els := fun (l : Nat) => r.1.elems l (x.reg l o.a.toNat) 1
      LaneReady x (o.a.toNat :: (List.range (if op = .cas then 2 * k else k)).map (o.d.toNat + ·)) →
      UniReads x ((List.range 4).map (o.b.toNat + ·)) → r.2 = true → r.1.u2 = 8 * k → r.1.ro = false →
      (r.1.tb = true → ∀ l, x.active.getLsbD l = true → x.isHelper l = false → takes l = true) →
      (∀ l, takes l = true → ∀ e ∈ els l, formatFault (page e.va) r.1 true 1 e.va = false ∧ (page e.va).fmt = 0 ∧
        s.FindsWith (fun c => ∃ k f, f ∈ els k ∧ (page f.va).comp = some c) (s.rootOf x) e.va .write (page e.va)) →
      ∃ (s' : State) (y : Machine.Group) (qs : List SliceOp), Completes (mk o) 4 o.park s g x s' ∧
        s' = { s with groups := s'.groups, results := s'.results, sliceOps := s.sliceOps ++ qs, ord := s'.ord
                      cached := s'.cached, compPages := s'.compPages, free := s'.free } ∧
        s'.ord = { s.ord with seq := s.ord.seq + 1 } ∧ OnlyGroup s s' g y ∧ y = { x with pend := y.pend } ∧
        (∀ l j, j < 128 → y.isPending l j =
          (x.isPending l j || (returns && x.active.getLsbD l && decide (o.d.toNat ≤ j) && decide (j < o.d.toNat + k)))) ∧
        s'.results = s.results ++ (if returns then ((lanesOf x.active).filter fun l => !takes l).map fun l =>
          { group := g, lane := some l, reg := o.d.toNat, vals := List.replicate k 0, spec := false } else []) ∧
        (∀ q ∈ qs, q.org = s.origin g x ∧ q.op = op ∧ q.wide = wide ∧ q.dest = (if returns then some o.d.toNat else none) ∧
          ∀ p ∈ q.lanes, takes p.lane = true ∧ ∀ p' ∈ q.lanes, p'.key / 128 = p.key / 128) ∧
        ∀ l, takes l = true → ∀ e ∈ els l, ∃ q ∈ qs, ∃ p ∈ q.lanes, p.lane = l ∧ p.key = ((page e.va).at e.va).key ∧
          p.v.toNat = (x.reg l o.d.toNat).toNat + (if wide then (x.reg l (o.d.toNat + 1)).toNat * 2 ^ 32 else 0)

/-! ### Ordering (12) -/

/-- The moves of the ordering machine (R264-R266, R271). An element moves as a whole (07 R167). No move of a core's own write
and no copy taken or found changes what the storing group, or any load, finds at that moment; only a write performed at its
home changes memory, there.
Where the model had to choose a reading, that is its own: logs 3 and 42. -/
def Obligations.OrderingMoves : Prop :=
  (∀ (s : State) i e, s.ord.wb[i]? = some e → s.elementMoves i = true → isBankKey e.key = false →
    ∃ t, exec (.wbMove (.buffer i)) s = .next t ∧ t = { s with ord := t.ord } ∧
      t.ord.wb = s.ord.wb.filter (fun f => !e.together f) ∧
      t.ord.writes = s.ord.writes ++ (s.ord.wb.filter e.together).map (fun f => { point := e.core, entry := f }) ∧
      ∀ c k, (t.loadByte e.core (some e.group) c k).1 = (s.loadByte e.core (some e.group) c k).1) ∧
  (∀ (s : State) i e, s.ord.wb[i]? = some e → s.elementMoves i = true → isBankKey e.key = true →
    (∀ f ∈ s.ord.wb, e.together f = true → f.comp = none) →
    ∃ t, exec (.wbMove (.buffer i)) s = .next t ∧ t.ord.wb = s.ord.wb.filter (fun f => !e.together f) ∧
      SameMemory s t (e.key / 8 * 8) 8 ∧
      ∀ f ∈ s.ord.wb, e.together f = true → (∀ h ∈ s.ord.wb, e.together h = true → h.key = f.key → h = f) →
        Memory.read t.mem f.key = mixByte (Memory.read s.mem f.key) f.val f.lo f.hi) ∧
  (∀ (s : State) i w, s.ord.writes[i]? = some w → s.ord.elementMoves i = true → w.point < 192 →
    let same := fun (v : PointWrite) => w.point == v.point && w.entry.together v.entry
    ∃ t, exec (.wbMove (.point i)) s = .next t ∧ t = { s with ord := t.ord } ∧ t.ord.wb = s.ord.wb ∧
      t.ord.writes = s.ord.writes.filter (fun v => !same v) ++
        (s.ord.writes.filter same).map (fun v => { point := clusterPoint w.point, entry := v.entry })) ∧
  (∀ (s : State) i w, s.ord.writes[i]? = some w → s.ord.elementMoves i = true → 192 ≤ w.point →
    let same := fun (v : PointWrite) => w.point == v.point && w.entry.together v.entry
    (∀ v ∈ s.ord.writes, same v = true → v.entry.comp = none) →
    ∃ t, exec (.wbMove (.point i)) s = .next t ∧ t.ord.writes = s.ord.writes.filter (fun v => !same v) ∧
      SameMemory s t (w.entry.key / 8 * 8) 8 ∧
      ∀ v ∈ s.ord.writes, same v = true → (∀ u ∈ s.ord.writes, same u = true → u.entry.key = v.entry.key → u = v) →
        Memory.read t.mem v.entry.key = mixByte (Memory.read s.mem v.entry.key) v.entry.val v.entry.lo v.entry.hi) ∧
  (∀ (s : State) i, s.elementMoves i = false → exec (.wbMove (.buffer i)) s = .next s) ∧
  (∀ (s : State) i, s.ord.elementMoves i = false → exec (.wbMove (.point i)) s = .next s) ∧
  (∀ (s : State) point key, point < 208 → isBankKey key = false →
    (∀ j, j < 8 → (s.homeRead (s.compAt (key - key % 8 + j)) (key - key % 8 + j)).2 = false) →
    ∃ t, exec (.pointFill point key) s = .next t ∧ t = { s with ord := t.ord } ∧
      t.ord = { s.ord with copies := t.ord.copies } ∧
      (∀ j hi, j < 8 → t.ord.hasCopy point (halfLoc (key - key % 8 + j) hi) = true) ∧
      ∀ core group k, core < 192 → isBankKey k = false →
        (t.loadByte core group (s.compAt k) k).1 = (s.loadByte core group (s.compAt k) k).1) ∧
  (∀ (s : State) point key, ∃ t, exec (.pointDrop point key) s = .next t ∧ t = { s with ord := t.ord } ∧
    t.ord = { s.ord with copies := t.ord.copies } ∧
    ∀ p, p ∈ t.ord.copies ↔ p ∈ s.ord.copies ∧ (p.point = point → p.loc / 16 = key / 8 →
      ∃ w ∈ s.ord.writes, w.point = point ∧ w.entry.covers (p.loc / 2) (p.loc % 2 == 1) = true)) ∧
  ∀ (s : State) i p, s.ord.promotions[i]? = some p →
    let u := s.settleCore [] p.core p.before
    (u.storeKept p.core p.before = true → exec (.promotionServe i) s = .next u) ∧
    (u.storeKept p.core p.before = false → ∃ t, exec (.promotionServe i) s = .next t ∧ t = { u with ord := t.ord } ∧
      t.ord = { u.ord with promotions := u.ord.promotions.eraseIdx i, copies := t.ord.copies } ∧
      ∀ e ∈ t.ord.wb, e ∈ s.ord.wb ∧ (e.core = p.core → p.before ≤ e.seq))

/-- `fence` and `ntfy` (12 R269-R272, 02 R50): what the core's buffer held has left it; the release is its current tag;
the group's remembered tags are covered; a notify write is on its way, but for helpers alone; and its arrival (02 R49).
A `fence` holds its group, and a notify write waits, while a `gupd` of the group has not ended or keeps a store (R275).
Where the model had to choose a reading, that is its own: logs 18 and 25. -/
def Obligations.FenceAndNotify : Prop :=
  (∀ (o : FenceOp) (s : State) g (x : Machine.Group), Issues s g x → o.scope ≠ .grp → s.releaseWaits g x.core s.ord.seq = true →
    exec (.fence o) s = .next (s.settleBefore x.core s.ord.seq)) ∧
  (∀ (o : FenceOp) (s : State) g (x : Machine.Group), Issues s g x → (∀ e ∈ s.ord.wb, e.seq < s.ord.seq) →
    (o.scope = .grp ∨ s.releaseWaits g x.core s.ord.seq = false) →
    ∃ (s' : State) (y : Machine.Group), Completes (.fence o) 4 o.park s g x s' ∧ s'.group? g = some y ∧ y.tags = [] ∧ y.regs = x.regs ∧
      y.pend = x.pend ∧ (∃ r, Tab.get s'.ord.curTags x.core = some { core := x.core, scope := o.scope, rel := r }) ∧
      (o.scope ≠ .grp → ∀ e ∈ s'.ord.wb, e ∈ s.ord.wb ∧ e.core ≠ x.core)) ∧
  (∀ (o : RegsAB) (s : State) g (x : Machine.Group), Issues s g x → UniReads x [o.a.toNat, o.b.toNat] →
    let t := x.uni o.a.toNat
    (192 ≤ t.toNat % 256 ∨ 2 ^ 12 ≤ t.toNat → Raises (.ntfy o) s g { cause := .illegal, ops := [s.word] }) ∧
    (t.toNat % 256 < 192 → t.toNat < 2 ^ 12 → x.allHelpers = true → Completes (.ntfy o) 4 o.park s g x s) ∧
    (t.toNat % 256 < 192 → t.toNat < 2 ^ 12 → x.allHelpers = false → (∀ e ∈ s.ord.wb, e.seq < s.ord.seq) →
      ∃ s' : State, Completes (.ntfy o) 4 o.park s g x s' ∧
        s'.notifyWrites = s.notifyWrites ++ [{
          core := t.toNat % 256, reg := t.toNat / 256, value := x.uni o.b.toNat
          sent := if s.releaseWaits g x.core s.ord.seq then some (g, x.core, s.ord.seq) else none }] ∧
        (∀ e ∈ s'.ord.wb, e ∈ s.ord.wb ∧ (e.core = x.core → s'.updKeeps e = true)) ∧
        ∃ r, Tab.get s'.ord.curTags x.core = some { core := x.core, scope := .dev, rel := r })) ∧
  ∀ (s : State) i w (u : State), s.notifyWrites[i]? = some w →
    u = (match w.sent with
      | none => s
      | some (g, c, n) => s.settleCore [g] c n) →
    let waits := w.sent.any fun p => u.releaseWaits p.1 p.2.1 p.2.2
    (waits = true → exec (.notifyWriteArrival i) s = .next u) ∧
    (waits = false → ∃ t, exec (.notifyWriteArrival i) s = .next t ∧
      t = { u with notifyWrites := s.notifyWrites.eraseIdx i, notify := t.notify, cores := t.cores } ∧
      (∀ k, Tab.getD t.notify k 0 =
        if k = 16 * w.core + w.reg then Tab.getD s.notify k 0 ||| w.value else Tab.getD s.notify k 0) ∧
      ∀ c, t.core c = if c = w.core ∧ w.value ≠ 0 ∧ (u.core c).gate ≠ .running
        then { u.core c with due := (u.core c).due ||| 4 } else u.core c)

/-! ### Barriers and rings (09) -/

/-- The barrier words (R199-R203): a unit goes to the bank of the object; the words that return the phase make their
destination pending; `bwait` goes on as an acquire when the phase has moved, and else its subset waits for that.
Units at a barrier object (R196-R198, R204): what each stores, when the object completes its phase, when a unit is
refused and becomes an OVERRUN of its sender, and the phase an arrival returns; and the subsets that a phase wakes
(R201). An arrival, as a release, waits while a `gupd` of its group has not ended or keeps a store (log 18). -/
def Obligations.Barriers : Prop :=
  ((∀ (s : State) g (x : Machine.Group) (blk : Block) (a : Reg) (key : Nat), Issues s g x → s.blockOf x = some blk →
    UniReads x [a.toNat] → blk.checkAt .scr 16 16 (x.uni a.toNat) = .ok key →
    let sends := fun (i : Instr) (park : Bool) (op : PortOp) (y : Machine.Group) =>
      ∃ s' : State, Completes i 4 park s g x s' ∧
        s' = { s with groups := s'.groups, ord := { s.ord with seq := s.ord.seq + 1 }
                      portUnits := s.portUnits ++ [{ org := s.origin g x, bank := keyBank key, off := wbits (x.uni a.toNat) 17 0
                                                     op := op, pc := s.issuePc x, word := s.word, addr := x.uni a.toNat
                                                     seq := s.ord.seq, tag := Tab.get s.ord.curTags x.core }] } ∧
        OnlyGroup s s' g y
    (∀ o : RegsAB, o.a = a → UniReads x [o.b.toNat] →
      (0 < (x.uni o.b.toNat).toNat → (x.uni o.b.toNat).toNat < 2 ^ 16 →
        sends (.binit o) o.park (.binit (x.uni o.b.toNat).toNat) x) ∧
      ((x.uni o.b.toNat).toNat = 0 ∨ 2 ^ 16 ≤ (x.uni o.b.toNat).toNat →
        Raises (.binit o) s g { cause := .illegal, ops := [s.word] }) ∧
      sends (.bexp o) o.park (.expect (x.uni o.b.toNat).toNat) x) ∧
    ∀ o : Regs2, o.a = a → UniWrites x [o.d.toNat] →
      sends (.barr o) o.park (.arrive 1 (some o.d.toNat)) (x.setPendAll o.d.toNat 1 .port) ∧
      sends (.barrF o) o.park (.arrive (lanesOf x.active).length (some o.d.toNat)) (x.setPendAll o.d.toNat 1 .port)) ∧
  (∀ (o : RegsAB) (s : State) g (x : Machine.Group) (blk : Block) key, Issues s g x → s.blockOf x = some blk →
    UniReads x [o.a.toNat, o.b.toNat] → blk.checkAt .scr 16 16 (x.uni o.a.toNat) = .ok key →
    (∀ u ∈ s.portUnits, u.org.group ≠ g) →
    let off := wbits (x.uni o.a.toNat) 17 0
    (s.phaseAt (keyBank key) off ≠ x.uni o.b.toNat →
      ∃ (s' : State), Completes (.bwait o) 4 o.park s g x s' ∧ s' = { s with groups := s'.groups, ord := s'.ord } ∧
        OnlyGroup s s' g { x with tags := [] }) ∧
    (s.phaseAt (keyBank key) off = x.uni o.b.toNat → ∀ c, x.current = some c →
      exec (.bwait o) s = .next (s.setGroup g
        { x with current := none, issues := x.issues + 1
                 waiting := x.waiting ++ [newWaiting c.mask (.phase (keyBank key) off (x.uni o.b.toNat) o.park) (x.issues + 1)] }))) ∧
  ∀ (o : RegsAB) (s : State) g (x : Machine.Group) (blk : Block) c, Issues s g x → s.blockOf x = some blk →
    UniReads x [o.a.toNat, o.b.toNat] → blk.checkAt .scr 16 16 (x.uni o.a.toNat) = .error c →
    ∀ i ∈ [Instr.binit o, .bexp o, .bwait o], Raises i s g { cause := c, ops := [s.word, x.uni o.a.toNat] }) ∧
  (∀ (s : State) i (u : PortUnit), s.portUnits[i]? = some u → ((s.portUnits.take i).any fun v => v.precedes u) = false →
    (u.op.isArrival = true → (s.settleBefore u.org.core u.seq).releaseWaits u.org.group u.org.core u.seq = true →
      exec (.barrierUnitApply i) s = .next (s.settleBefore u.org.core u.seq)) ∧
    (s.ord.wb = [] → s.sliceOps = [] → s.ord.writes = [] → (∀ r ∈ s.rays, r.2.updates = false) →
    s.groups.all (fun p => p.2.waiting.isEmpty) = true →
    let old := s.bar u.bank u.off
    let done := fun (b : BarObj) =>
      if b.expa ≠ 0 ∧ b.arr = b.expa ∧ b.landed = b.expb then
        ({ phase := (b.phase + 1) % 2 ^ 32, expa := b.expa, arr := 0, expb := 0, landed := 0 } : BarObj) else b
    ∃ t, exec (.barrierUnitApply i) s = .next t ∧ t.portUnits = s.portUnits.eraseIdx i ∧
      ((∃ n, u.op = .binit n ∨ u.op = .expect n ∨ ∃ d, u.op = .arrive n d) → SameMemory s t (bankKey u.bank .data u.off) 16) ∧
      (∀ e, u.op = .binit e → e < 2 ^ 16 → t.bar u.bank u.off = { phase := 0, expa := e, arr := 0, expb := 0, landed := 0 }) ∧
      (∀ n, u.op = .expect n → old.expb + n < 2 ^ 32 →
        t.bar u.bank u.off = done { old with expb := old.expb + n } ∧ t.held = s.held) ∧
      (∀ n, u.op = .expect n → 2 ^ 32 ≤ old.expb + n → t.bar u.bank u.off = old ∧
        t.held.map (fun h => (h.org, h.f.cause, h.f.ops)) = s.held.map (fun h => (h.org, h.f.cause, h.f.ops)) ++
          [(u.org, .overrun, [u.word, u.addr])]) ∧
      ∀ k d, u.op = .arrive k (some d) →
        let refused := old.expa < old.arr + k ∨ (old.arr + k = old.expa ∧ old.expb < old.landed)
        let answer : Result := { group := u.org.group, lane := none, reg := d, vals := [BitVec.ofNat 32 old.phase], spec := false }
        (¬refused → t.bar u.bank u.off = done { old with arr := old.arr + k } ∧ t.held = s.held ∧
          t.results = s.results ++ [answer]) ∧
        (refused → t.bar u.bank u.off = old ∧ t.results = s.results ∧
          ∃ h, t.held = s.held ++ [h] ∧ h.org = u.org ∧ h.f.cause = .overrun ∧ h.result = some answer))) ∧
  ∀ (s : State) bank off h (x : Machine.Group), s.group? h = some x →
    let p := s.phaseAt bank off
    ∃ y, (s.wakePhase bank off).group? h = some y ∧ y.regs = x.regs ∧ y.current = x.current ∧
      (∀ l, y.fibre? l = (x.fibre? l).map fun f =>
        if x.waiting.any (fun u => u.wakes bank off p && u.mask.getLsbD l) then { f with pc := f.pc + 4 } else f) ∧
      y.waiting = x.waiting.map fun u =>
        if u.wakes bank off p then
          { u with wait := match u.wait with
              | .phase _ _ _ true => if x.maskPending u.mask then .park else .none
              | _ => .none }
        else u

/-- The ring words and their units at the port (R205, R206): a descriptor that is not valid is illegal; the unit goes to the
bank of the descriptor, and works on the objects that FREE and FILL name. `racq` answers EMPTY or the next filled slot;
`rdone` returns a slot, with an arrival at FREE; `rinit` refuses a ring that is in use, and else sets HEAD, ACQ and DONE to 0
and starts both objects with EXPA 1. No other byte of memory changes.
Where the model had to choose a reading, that is its own: log 46 (an `rdone` whose arrival is refused). -/
def Obligations.Rings : Prop :=
  (∀ (o : Regs2) (mk : Regs2 → Instr) (n : Nat) (op : Nat → PortOp),
    (mk, n, op) ∈ ([(.rinit, 1, .ringInit), (.racq, 3, .ringAcquire), (.rdone, 1, .ringDone)] :
      List ((Regs2 → Instr) × Nat × (Nat → PortOp))) →
    ∀ (s : State) g (x : Machine.Group) (blk : Block), Issues s g x → s.blockOf x = some blk → UniReads x [o.a.toNat] →
      UniWrites x ((List.range n).map (o.d.toNat + ·)) →
      (∀ c, blk.checkAt .scr 32 32 (x.uni o.a.toNat) = .error c →
        Raises (mk o) s g { cause := c, ops := [s.word, x.uni o.a.toNat] }) ∧
      ∀ key, blk.checkAt .scr 32 32 (x.uni o.a.toNat) = .ok key → (∀ u ∈ s.portUnits, u.org.group ≠ g) →
      let off := wbits (x.uni o.a.toNat) 17 0
      let d := ringDesc (s.loadBytes x.core (some g) none (bankKey (keyBank key) .data off) 32).1
      let valid := d.2 && blk.ringOk d.1
      (valid = false → Raises (mk o) s g { cause := .illegal, ops := [s.word] }) ∧
      (valid = true → ∃ (s' : State) (kr kf : Nat), Completes (mk o) 4 o.park s g x s' ∧
        blk.bankAt .scr d.1.free = some kr ∧ blk.bankAt .scr d.1.fill = some kf ∧
        OnlyGroup s s' g (x.setPendAll o.d.toNat n .port) ∧
        s' = { s with groups := s'.groups, ord := { s.ord with seq := s.ord.seq + 1 }
                      portUnits := s.portUnits ++ [{ org := s.origin g x, bank := keyBank key, off := off
                                                     op := op o.d.toNat, pc := s.issuePc x, word := s.word
                                                     addr := x.uni o.a.toNat, seq := s.ord.seq
                                                     tag := Tab.get s.ord.curTags x.core
                                                     also := [(kr, wbits d.1.free 17 0), (kf, wbits d.1.fill 17 0)] }] })) ∧
  ∀ (s : State) i (u : PortUnit) kr or kf of, s.portUnits[i]? = some u →
    ((s.portUnits.take i).any fun v => v.precedes u) = false → s.ord.wb = [] →
    s.groups.all (fun p => p.2.waiting.isEmpty) = true → u.also = [(kr, or), (kf, of)] →
    let key := bankKey u.bank .data u.off
    let fr := bankKey kr .data or
    let ff := bankKey kf .data of
    let d := (ringDesc (s.readHome key 32)).1
    let answer := fun (r : Nat) (ws : List Word) => ({ group := u.org.group, lane := none, reg := r, vals := ws, spec := false } : Result)
    let away := fun (a n : Nat) => a + 16 ≤ key + n ∨ key + 28 ≤ a
    ∃ t, exec (.barrierUnitApply i) s = .next t ∧ t.portUnits = s.portUnits.eraseIdx i ∧
      (∀ r, u.op = .ringAcquire r →
        let f := (s.bar kf of).phase
        if d.acq = f then t.mem = s.mem ∧ t.results = s.results ++ [answer r [1, 0, BitVec.ofNat 32 f]]
        else SameMemory s t (key + 20) 4 ∧ t.readHome (key + 20) 4 = bytesOf 4 ((d.acq + 1) % 2 ^ 32) ∧
          t.results = s.results ++
            [answer r [0, d.base + BitVec.ofNat 32 (d.acq % 2 ^ d.log2n * d.size), BitVec.ofNat 32 f]]) ∧
      (∀ r, u.op = .ringDone r → d.done = d.acq → t.mem = s.mem ∧ t.results = s.results ++ [answer r [4]]) ∧
      (∀ r, u.op = .ringDone r → d.done ≠ d.acq → away fr 24 →
        let b := s.bar kr or
        let refused := b.expa < b.arr + 1 ∨ (b.arr + 1 = b.expa ∧ b.expb < b.landed)
        let last := b.expa ≠ 0 ∧ b.arr + 1 = b.expa ∧ b.landed = b.expb
        t.readHome (key + 24) 4 = bytesOf 4 ((d.done + 1) % 2 ^ 32) ∧
        (∀ k, ¬(key + 24 ≤ k ∧ k < key + 28) → ¬(fr ≤ k ∧ k < fr + 16) → Memory.read t.mem k = Memory.read s.mem k) ∧
        (¬refused → t.results = s.results ++ [answer r [0]] ∧ t.held = s.held ∧
          t.bar kr or = if last then { phase := (b.phase + 1) % 2 ^ 32, expa := b.expa, arr := 0, expb := 0, landed := 0 }
            else { b with arr := b.arr + 1 }) ∧
        (refused → t.bar kr or = b ∧ t.results = s.results ∧
          ∃ h, t.held = s.held ++ [h] ∧ h.org = u.org ∧ h.f.cause = .overrun ∧ h.result = some (answer r [0]))) ∧
      (∀ r, u.op = .ringInit r → (d.head ≠ d.done ∨ ∃ c ∈ s.copies, c.2.ring = some key) →
        t.mem = s.mem ∧ t.results = s.results ++ [answer r [4]]) ∧
      (∀ r, u.op = .ringInit r → d.head = d.done → (∀ c ∈ s.copies, c.2.ring ≠ some key) → away fr 16 → away ff 16 →
        (fr = ff ∨ fr + 16 ≤ ff ∨ ff + 16 ≤ fr) →
        t.readHome (key + 16) 12 = List.replicate 12 0 ∧
        t.bar kr or = { phase := 0, expa := 1, arr := 0, expb := 0, landed := 0 } ∧
        t.bar kf of = { phase := 0, expa := 1, arr := 0, expb := 0, landed := 0 } ∧ t.results = s.results ++ [answer r [0]] ∧
        ∀ k, ¬(key + 16 ≤ k ∧ k < key + 28) → ¬(fr ≤ k ∧ k < fr + 16) → ¬(ff ≤ k ∧ k < ff + 16) →
          Memory.read t.mem k = Memory.read s.mem k)

/-! ### The bank switch (08) -/

/-- The words of the bank switch (R185-R188, R191, R192, R280): what each does to its slot, the pool, the reservation
table and the drains, what it answers, and the slot names that it refuses.
The events of the bank switch (R178, R188, R191): the end of a release puts the bank, with its next generation, to
be cleared; clearing makes every byte zero and frees the bank; the end of a give maps the bank, with its next
generation, into the reserved slot and arrives at the barrier; for a cancelled reservation it empties the slot, and the
bank is released. The arrival to a saved block waits for its restore (R194). -/
def Obligations.BankSwitching : Prop :=
  (∀ (s : State) g (x : Machine.Group) (b : Block) (a : Reg), Issues s g x → s.blockOf x = some b → UniReads x [a.toNat] →
    let v := x.uni a.toNat
    let sp := spaceOf (v.toNat / 16)
    let n := v.toNat % 16
    let pair := fun (i : Instr) (park : Bool) (d : Nat) (st w : Word) (f : State → State) =>
      ∃ s' : State, Completes i 4 park s g x s' ∧ OnlyGroup s s' g (x.setPendAll d 2 .bankSwitch) ∧
        s' = { f s with groups := s'.groups
                        results := s.results ++ [{ group := g, lane := none, reg := d, vals := [st, w], spec := false }] }
    (64 ≤ v.toNat → ∀ o : RegA, o.a = a → Raises (.brel o) s g { cause := .illegal, ops := [s.word] }) ∧
    (v.toNat < 64 → b.slot? sp n = none → ∀ o : RegA, o.a = a →
      Raises (.brel o) s g { cause := .bankbound, ops := [s.word, v] }) ∧
    ∀ q : Slot, v.toNat < 64 → b.slot? sp n = some q →
      (∀ o : Regs2, o.a = a → UniWrites x [o.d.toNat, o.d.toNat + 1] →
        (q.st ≠ .empty → pair (.batt o) o.park o.d.toNat 4 0 id) ∧
        (q.st = .empty → s.freeBanks b.cluster = [] → pair (.batt o) o.park o.d.toNat 2 0 id) ∧
        (∀ k ks, q.st = .empty → s.freeBanks b.cluster = k :: ks →
          pair (.batt o) o.park o.d.toNat 0 (BitVec.ofNat 32 ((s.gen k).toNat * 2 ^ 8 + k % 96))
            fun s => (s.setBankSt k .held).modBlock x.block fun t => t.setSlot q.space q.num (.mapped k)) ∧
        ∃ y, RegisterOnly (.bmap o) s g y ∧ x.Stepped y (x.nextWord fun _ => 0) ∧
          (x.wsize ≤ 128 → x.Writes y (fun l r => decide (l < x.width) && (r == o.d.toNat || r == o.d.toNat + 1)) fun _ r =>
            nth (s.mapWords b x.core q) (r - o.d.toNat) 0)) ∧
      (∀ o : Regs3, o.a = a → UniReads x [o.b.toNat] → UniWrites x [o.d.toNat, o.d.toNat + 1] →
        ∀ key, b.checkAt .scr 16 16 (x.uni o.b.toNat) = .ok key →
          (q.st ≠ .empty → pair (.bres o) o.park o.d.toNat 4 0 id) ∧
          (q.st = .empty → (∀ e, e < 192 → (s.entry b.cluster e).owner.isSome = true) →
            pair (.bres o) o.park o.d.toNat 2 0 id) ∧
          (∀ e, q.st = .empty → e < 192 → (s.entry b.cluster e).owner = none →
            (∀ f, f < e → (s.entry b.cluster f).owner.isSome = true) →
            let seq := (s.entry b.cluster e).seq + 1
            pair (.bres o) o.park o.d.toNat 0 (BitVec.ofNat 32 (seq.toNat * 2 ^ 8 + e)) fun s =>
              (s.setEntry b.cluster e { seq := seq, owner := some (x.block, q.space, q.num) }).modBlock x.block fun t =>
                t.setSlot q.space q.num (.reserved e (x.uni o.b.toNat) (keyBank key) (s.gen (keyBank key)) false false))) ∧
      (∀ o : RegA, o.a = a →
        let freed := fun (s : State) => s.modBlock x.block fun t => t.setSlot q.space q.num .empty
        (q.st = .empty → Completes (.brel o) 4 o.park s g x s) ∧
        (∀ k, q.st = .mapped k → ∃ s' : State, Completes (.brel o) 4 o.park s g x s' ∧
          s' = { (freed s).modBlock x.block (fun t => t.loseBank k) with drains := s'.drains } ∧
          ∃ d, s'.drains = s.drains ++ [d] ∧ d.bank = k ∧ d.give = none ∧ d.org = s.origin g x ∧ d.before = s.ord.seq) ∧
        (∀ e bar bb bg c, q.st = .reserved e bar bb bg false c → Completes (.brel o) 4 o.park s g x
          (freed (s.setEntry b.cluster e { s.entry b.cluster e with owner := none }))) ∧
        (∀ e bar bb bg c, q.st = .reserved e bar bb bg true c → Completes (.brel o) 4 o.park s g x
          (s.modBlock x.block fun t => t.setSlot q.space q.num (.reserved e bar bb bg true true)))) ∧
      (∀ o : RegsAB, o.a = a → UniReads x [o.b.toNat] →
        let ticket := x.uni o.b.toNat
        let e := ticket.toNat % 256
        let r := s.entry b.cluster e
        (q.bank? = none ∨ 191 < e ∨ r.seq.toNat ≠ ticket.toNat / 256 ∨ r.owner = none →
          Raises (.bgive o) s g { cause := .give, ops := [s.word, v, ticket] }) ∧
        ∀ k rb rn taker e' bar bb bg acc c, q.bank? = some k → e ≤ 191 → r.seq.toNat = ticket.toNat / 256 → s.block? rb = some taker →
          s.rootOfBlock taker = s.rootOfBlock b →
          (∀ rsp, r.owner = some (rb, rsp, rn) → rsp ≠ q.space →
            Raises (.bgive o) s g { cause := .spacekind, ops := [s.word, v] }) ∧
          (r.owner = some (rb, q.space, rn) → (taker.slot? q.space rn).map Slot.st = some (.reserved e' bar bb bg acc c) →
            ∃ s' : State, Completes (.bgive o) 4 o.park s g x s' ∧
              s' = { ((s.setEntry b.cluster e { r with owner := none }).modBlock rb fun t =>
                  t.setSlot q.space rn (.reserved e bar bb bg true c)).modBlock x.block
                    (fun t => (t.setSlot q.space q.num .empty).loseBank k) with
                drains := s'.drains } ∧
              ∃ d, s'.drains = s.drains ++ [d] ∧ d.bank = k ∧ d.give = some (rb, q.space, rn) ∧ d.bar = bar ∧
                d.barBank = bb ∧ d.barGen = bg ∧ d.org = s.origin g x ∧ d.before = s.ord.seq))) ∧
  (∀ (s : State) i (d : Drain), s.drains[i]? = some d → s.drained d = false →
    exec (.giveDrainComplete i) s = .next s ∧ exec (.releaseDrainComplete i) s = .next s) ∧
  (∀ (s : State) i (d : Drain), s.drains[i]? = some d → s.drained d = true → s.ord.wb = [] → s.portUnits = [] →
    s.sliceOps = [] → s.ord.writes = [] → (∀ r ∈ s.rays, r.2.updates = false) →
    (d.give = none → ∃ t, exec (.releaseDrainComplete i) s = .next t ∧
      t = { s with drains := s.drains.eraseIdx i, bankGen := t.bankGen, bankState := t.bankState } ∧
      t.gen d.bank = s.gen d.bank + 1 ∧ t.bankSt d.bank = .clearing ∧
      ∀ k, k ≠ d.bank → t.gen k = s.gen k ∧ t.bankSt k = s.bankSt k) ∧
    (∀ rb sp n b e bar bb bg acc c, d.give = some (rb, sp, n) → s.block? rb = some b → b.phase ≠ .saved →
      (b.slot? sp n).map Slot.st = some (.reserved e bar bb bg acc c) →
      ∃ t b', exec (.giveDrainComplete i) s = .next t ∧ t.block? rb = some b' ∧
        t.gen d.bank = s.gen d.bank + 1 ∧ (∀ k, k ≠ d.bank → t.gen k = s.gen k ∧ t.bankSt k = s.bankSt k) ∧
        (c = false → b'.bank? sp n = some d.bank ∧ t.bankSt d.bank = .held ∧ t.drains = s.drains.eraseIdx i) ∧
        (c = true → (b'.slot? sp n).map Slot.st = some .empty ∧ t.bankSt d.bank = s.bankSt d.bank ∧
          t.drains = s.drains.eraseIdx i ++ [{ d with give := none }]) ∧
        SameMemory s t (bankKey d.barBank .data (wbits d.bar 17 0)) 16 ∧
        (d.barBank ≠ d.bank → s.gen d.barBank ≠ d.barGen → t.mem = s.mem) ∧
        (d.barBank ≠ d.bank → s.gen d.barBank = d.barGen →
          let o := s.bar d.barBank (wbits d.bar 17 0)
          o.arr + 1 < o.expa → t.bar d.barBank (wbits d.bar 17 0) = { o with arr := o.arr + 1 })) ∧
    (∀ rb sp n b, d.give = some (rb, sp, n) → s.block? rb = some b → b.phase = .saved →
      ∃ t b', exec (.giveDrainComplete i) s = .next t ∧ t.block? rb = some b' ∧ b'.arrivals = b.arrivals ++ [d] ∧ t.mem = s.mem ∧
        t.gen d.bank = s.gen d.bank + 1)) ∧
  ∀ (s : State) bank, (s.bankSt bank ≠ .clearing → exec (.bankClearDone bank) s = .next s) ∧
    (s.bankSt bank = .clearing → ∃ t, exec (.bankClearDone bank) s = .next t ∧ t.bankSt bank = .free ∧
      (∀ k, Memory.read t.mem k =
        if 2 ^ 57 + bank * 2 ^ 19 ≤ k ∧ k < 2 ^ 57 + (bank + 1) * 2 ^ 19 then 0 else Memory.read s.mem k) ∧
      t.bankGen = s.bankGen ∧ ∀ k, k ≠ bank → t.bankSt k = s.bankSt k)

/-! ### The copy engine (09) -/

/-- The copy words (R208-R211, R207, R280): an operand record whose checks pass becomes a queued command of its core,
whose status register is pending; the seventeenth gets FULL; helpers alone get HELPER at once.
A linear `cpy` of untyped elements, and a ring fill of such (R207, R212, R215): some of the elements that are left,
at least one, move from their pages to their places in the bank, in order; the command ends, or the fill waits to be
counted, with the last; and the count of a fill completes its phase.
Where the model had to choose a reading, that is its own: logs 31, 38 and 40. -/
def Obligations.CopyEngine : Prop :=
  (∀ (mk : EngOp3 → Instr) (fn : CopyFn), (mk, fn) ∈ ([(.cpy, .cpy), (.cpyo, .cpyo), (.gath, .gath), (.mcast, .mcast)] :
      List ((EngOp3 → Instr) × CopyFn)) →
    ∀ (o : EngOp3) (s : State) g (x : Machine.Group) (b : Block) side, Issues s g x → s.blockOf x = some b →
      o.a.toNat % 4 = 0 → o.b.toNat % 4 = 0 →
      UniReads x ((List.range 4).map (o.a.toNat + ·) ++ (List.range 4).map (o.b.toNat + ·) ++ [o.c.toNat]) →
      UniWrites x [o.c.toNat] →
      let r := x.record o.a.toNat
      let t := (List.range 4).map fun j => x.uni (o.b.toNat + j)
      r.2 = true → 2 * (xfer t).len % r.1.u2 = 0 → (r.1.esz = 5 → fn = .cpy ∨ fn = .cpyo) → (fn = .cpyo → r.1.ro = false) →
      xferOk fn r.1 t (x.uni o.c.toNat) = true → (xfer t).ring = false → bankSide b fn r.1 (xfer t) = .ok side →
      (x.allHelpers = true → ∃ y, RegisterOnly (mk o) s g y ∧
        x.Writes y (fun l k => decide (l < x.width) && k == o.c.toNat) fun _ _ => 8) ∧
      (x.allHelpers = false → 16 ≤ (s.commandsOf x.core).length →
        ∃ s' : State, Completes (mk o) 4 o.park s g x s' ∧ OnlyGroup s s' g (x.setPendAll o.c.toNat 1 .copyEngine) ∧
          s' = { s with groups := s'.groups
                        results := s.results ++ [{ group := g, lane := none, reg := o.c.toNat, vals := [2], spec := false }] }) ∧
      (x.allHelpers = false → (s.commandsOf x.core).length < 16 →
        ∃ (s' : State) (q : CopyCmd), Completes (mk o) 4 o.park s g x s' ∧ OnlyGroup s s' g (x.setPendAll o.c.toNat 1 .copyEngine) ∧
          s' = { s with groups := s'.groups, copies := s'.copies, nextId := s.nextId + 1, deliveries := s'.deliveries
                        ord := { s.ord with seq := s.ord.seq + 1 } } ∧
          Tab.get s'.copies s.nextId = some q ∧ (∀ k, k ≠ s.nextId → Tab.get s'.copies k = Tab.get s.copies k) ∧
          q.fn = fn ∧ q.t = t ∧ q.record = (List.range 4).map (fun j => x.uni (o.a.toNat + j)) ∧ q.vc = x.uni o.c.toNat ∧
          q.c = o.c.toNat ∧ q.org = s.origin g x ∧ q.phase = .queued ∧ q.next = 0 ∧ q.bank = side.bank ∧
          q.bankOff = side.off ∧ q.barBank = side.barBank ∧ q.barOff = side.barOff ∧ q.seq = s.ord.seq ∧
          (fn ≠ .mcast → s'.deliveries = s.deliveries))) ∧
  (∀ (s : State) id (c : CopyCmd) (page : Nat → Page) (i : Instr), Tab.get s.copies id = some c → c.fn = .cpy →
    c.phase = .queued → c.next = 0 → c.c < 128 → c.area = 0 → s.ord.wb = [] → s.ord.writes = [] → s.portUnits = [] →
    s.sliceOps = [] → (∀ r ∈ s.rays, r.2.updates = false) → s.errors = [] →
    let r := (bufRec c.record).1
    let f := xfer c.t
    let total := 2 * f.len / r.u2
    let u := r.u2 / 2
    let va := fun (k : Nat) => (r.base + (f.start.toNat + k) * (if r.stride = 0 then r.u2 else 2 * r.stride) / 2) % 2 ^ 52
    let dst := bankKey c.bank .data c.bankOff
    (c.ring = none ∧ f.nobar = true ∧ i = .copyCommandComplete id ∨
      ∃ key n, c.ring = some key ∧ c.fill = some n ∧ i = .ringFillStart id ∧
        (n + 2 ^ 32 - (ringDesc (s.readHome key 32)).1.done) % 2 ^ 32 < c.slots) →
    s.earlierWrites id c = ([], []) →
    r.swz = 0 → r.u2 % 2 = 0 → 0 < r.u2 → f.scl = false → f.start.toNat + total ≤ r.ext → r.ext < 2 ^ 32 → 0 < total →
    (∀ k, k < total → (page k).fmt = 0 ∧ (page k).cmp = 0 ∧ (page k).key + u ≤ 2 ^ 57 ∧
      s.FindsWith (fun _ => False) c.root (va k) .read (page k)) →
    ∃ (t : State) (m : Nat), exec i s = .next t ∧ 0 < m ∧ m ≤ total ∧ SameMemory s t dst (m * u) ∧
      (∀ k, k < m → t.readHome (dst + k * u) u = s.readHome (page k).key u) ∧
      (m < total → Tab.get t.copies id = some { c with next := m }) ∧
      (m = total → c.ring.isSome = true → Tab.get t.copies id = some { c with next := m, phase := .filled }) ∧
      (m = total → c.ring = none → Tab.get t.copies id = none ∧ ∀ x, s.group? c.org.group = some x →
        ∃ y, t.group? c.org.group = some y ∧ ∀ l, l < x.width → y.reg l c.c = 0)) ∧
  ∀ (s : State) id (c : CopyCmd) n, Tab.get s.copies id = some c → c.phase = .filled → c.fill = some n → c.c < 128 →
    ((s.bar c.barBank c.barOff).phase ≠ n → exec (.ringFillCount id) s = .next s) ∧
    (s.bar c.barBank c.barOff = { phase := n, expa := 1, arr := 0, expb := 0, landed := 0 } → 0 < (xfer c.t).len →
      ∃ t, exec (.ringFillCount id) s = .next t ∧ Tab.get t.copies id = none ∧
        t.bar c.barBank c.barOff = { phase := (n + 1) % 2 ^ 32, expa := 1, arr := 0, expb := 0, landed := 0 } ∧
        SameMemory s t (bankKey c.barBank .data c.barOff) 16)

/-! ### The matrix engine (10) -/

/-- The words of the matrix engine (R228-R233, R235, R240-R242): a declaration, which a Closed register holds; a signature; the
accesses of lanes to accumulators, which a busy entry holds; and what each conversion of `cva` gives (R241). -/
def Obligations.MatrixWords : Prop :=
  (∀ (o : CvdeclOp) (s : State) g (x : Machine.Group) b, Issues s g x → s.blockOf x = some b →
    let key := 8 * x.core + o.cv.toNat
    (b.hasCv x.core o.cv.toNat = false → Raises (.cvdecl o) s g { cause := .illegal, ops := [s.word] }) ∧
    (b.hasCv x.core o.cv.toNat = true → Tab.get b.cvs key = none →
      ∃ s' : State, Completes (.cvdecl o) 4 o.park s g x s' ∧ s' = { s with blocks := s'.blocks } ∧
        (∀ k, k ≠ x.block → s'.block? k = s.block? k) ∧
        ∃ c' : CvSet, s'.block? x.block = some { b with cvs := Tab.put b.cvs key c' } ∧ c'.scope = o.scope ∧
          c'.count = o.count.toNat ∧ c'.sigs = [] ∧ c'.first = none ∧ c'.closed = none) ∧
    ∀ c, b.hasCv x.core o.cv.toNat = true → Tab.get b.cvs key = some c → c.closed = none →
      (c.scope = o.scope ∧ c.count = o.count.toNat → Completes (.cvdecl o) 4 o.park s g x s) ∧
      (¬(c.scope = o.scope ∧ c.count = o.count.toNat) → Raises (.cvdecl o) s g
        { cause := .converge
          ops := [s.word, BitVec.ofNat 32 (o.cv.toNat + scopeCode c.scope * 2 ^ 4 + c.count * 2 ^ 16)] })) ∧
  (∀ (o : CvdeclOp) (s : State) g (x : Machine.Group) b c u, Issues s g x → s.blockOf x = some b →
    b.hasCv x.core o.cv.toNat = true → Tab.get b.cvs (8 * x.core + o.cv.toNat) = some c → c.closed.isSome = true → x.current = some u →
    exec (.cvdecl o) s = .next (s.setGroup g { x with
      current := none, waiting := x.waiting ++ [newWaiting u.mask (.matrix { closed := some o.cv.toNat }) x.issues] })) ∧
  (∀ mk ∈ [Instr.mma, Instr.mmas], ∀ (o : MmaOp) (s : State) g (x : Machine.Group) b (c : CvSet), Issues s g x →
    s.blockOf x = some b → b.hasCv x.core o.cv.toNat = true → o.b.toNat % 4 = 0 →
    UniReads x ((List.range 4).map (o.b.toNat + ·)) → o.a.toNat < x.wsize →
    let ps := (List.range 4).map fun j => x.uni (o.b.toNat + j)
    let p := matParams ps
    let key := 8 * x.core + o.cv.toNat
    p.ok = true → Tab.get b.cvs key = some c →
    let n := matRegs c.scope p.fmt
    let at_ := (lanesOf x.active).map (signPos c.scope x)
    (c.closed.isSome = true → Raises (mk o) s g
      { cause := .converge, ops := [s.word, BitVec.ofNat 32 (o.cv.toNat + scopeCode c.scope * 2 ^ 4 + c.count * 2 ^ 16)] }) ∧
    ∀ ka regions bar, c.closed = none → o.a.toNat + n ≤ x.wsize → p.rows ≤ maxRows c.scope → checkA b p = .ok ka →
      checkC b p (matCols c.scope p.fmt) = .ok regions → checkBar b p = .ok bar →
      (c.first.isSome = true → c.word &&& 0xBFFFFFFF = s.word &&& 0xBFFFFFFF ∧ c.params = ps ∧ c.admits g x = true) →
      at_.Nodup → c.sigs.length + at_.length ≤ c.count → (∀ q ∈ at_, ∀ e ∈ c.sigs, e.pos ≠ q) →
      ∃ (s' : State) (b' : Block) (c' : CvSet), Completes (mk o) 4 o.park s g x s' ∧
        s' = { s with blocks := s'.blocks, cvClosed := s'.cvClosed, ord := { s.ord with seq := s.ord.seq + 1 } } ∧
        s'.block? x.block = some b' ∧ b' = { b with cvs := b'.cvs } ∧ Tab.get b'.cvs key = some c' ∧
        (∀ k, k ≠ key → Tab.get b'.cvs k = Tab.get b.cvs k) ∧ c'.scope = c.scope ∧ c'.count = c.count ∧
        c'.sigs = c.sigs ++ (lanesOf x.active).map (fun l =>
          { group := g, lane := l, pos := signPos c.scope x l, reg := o.a.toNat, regs := n }) ∧
        c'.closed = (if c'.sigs.length = c.count then some s.cvClosed else none) ∧
        (c.first = none → c'.first = some (s.origin g x, s.issuePc x, x.part) ∧ c'.word = s.word ∧
          c'.params = ps ∧ c'.regions = regions ∧ c'.aBank = keyBank ka ∧ c'.barBank = bar)) ∧
  (∀ (o : MemOp) (s : State) g (x : Machine.Group) b (key : Nat → Nat), Issues s g x → s.blockOf x = some b → x.wsize ≤ 128 →
    let c := sizeRegs o.size
    let w := x.uni (o.b.toNat + 1)
    let per := if wbits w 11 8 = 6 then 2 else 1
    LaneReady x (o.a.toNat :: (List.range (per * c)).map (o.d.toNat + ·)) → UniReads x [o.b.toNat, o.b.toNat + 1] →
    cvaOk w = true →
    (∀ l, x.active.getLsbD l = true → b.checkAt .acc 8 (8 * c) (x.reg l o.a.toNat + x.uni o.b.toNat) = .ok (key l)) →
    let entries := (lanesOf x.active).flatMap fun l => (List.range c).map fun j => key l + 8 * j
    (∀ u, x.current = some u → (∃ k ∈ entries, s.busyAt x.core k = true) → exec (.cva o) s = .next (s.setGroup g
      { x with current := none, waiting := x.waiting ++ [newWaiting u.mask (.matrix { entries := entries }) x.issues] })) ∧
    ((∀ l j, x.active.getLsbD l = true → j < c → s.busyAt x.core (key l + 8 * j) = false) →
    (∀ l k, x.active.getLsbD l = true → x.active.getLsbD k = true → l ≠ k → key l + 8 * c ≤ key k ∨ key k + 8 * c ≤ key l) →
    s.ord.wb = [] → s.ord.writes = [] → s.errors = [] →
    let entry := fun (l j : Nat) => ofBytes (s.readHome (key l + 8 * j) 8)
    let out := fun (l j : Nat) => cvaWords w (entry l j) (x.reg l (o.d.toNat + j))
    ∃ (s' : State) (y : Machine.Group), Completes (.cva o) 4 o.park s g x s' ∧ OnlyGroup s s' g y ∧
      s' = { s with groups := s'.groups, results := s'.results, mem := s'.mem, errors := s'.errors, ord := s'.ord } ∧
      y = { x with pend := y.pend, tags := y.tags, fibres := y.fibres } ∧
      (∀ l k, k < 128 → y.isPending l k =
        (x.isPending l k || (x.active.getLsbD l && decide (o.d.toNat ≤ k) && decide (k < o.d.toNat + per * c)))) ∧
      (∀ l, y.fibre? l = (x.fibre? l).map fun f =>
        if x.active.getLsbD l then
          { f with flags := (List.range c).foldl (fun v j =>
            v ||| (out l j).2 ||| BitVec.ofNat 32 (field (entry l j) 44 40 * 2 ^ 8)) f.flags }
        else f) ∧
      s'.results = s.results ++ (lanesOf x.active).map (fun l =>
        { group := g, lane := some l, reg := o.d.toNat, vals := (List.range c).flatMap fun j => (out l j).1, spec := false
          bank := some (keyBank (key l)) }) ∧
      let cleared := fun k =>
        wbit w 6 = true ∧ ∃ l, x.active.getLsbD l = true ∧ x.isHelper l = false ∧ key l ≤ k ∧ k < key l + 8 * c
      (∀ k, cleared k → Memory.read s'.mem k = 0) ∧ ∀ k, ¬cleared k → Memory.read s'.mem k = Memory.read s.mem k)) ∧
  -- the conversions of `cva`
  (∀ (w : Word) (e : Nat) (old : Word) (m : RMode), cvaOk w = true → [RMode.rn, .rz, .rd, .ru, .rs][wbits w 2 0]? = some m →
    let tgt := wbits w 11 8
    let i := sxNat e 40
    let read := if wbit w 12 then FNum.fin (decide (i < 0)) i.natAbs 0 else acc40.decode (e % 2 ^ 40)
    let v := if wbit w 7 = true ∧ read.neg? = true then FNum.fin false 0 0 else read
    let gives := fun (r : Nat × Word) => cvaWords w e old = ([BitVec.ofNat 32 r.1], r.2)
    let nv := if v.isSig then flagNV else 0
    (tgt = 6 → cvaWords w e old = ([BitVec.ofNat 32 e, BitVec.ofNat 32 (e / 2 ^ 32)], 0)) ∧
    (tgt = 5 → wbit w 12 = true →
      let z := if wbit w 7 then max 0 i else i
      let y := max (-(2 ^ 31)) (min (2 ^ 31 - 1) z)
      cvaWords w e old = ([BitVec.ofInt 32 y], if y = z then 0 else flagSAT)) ∧
    (tgt = 5 → wbit w 12 = false →
      let int := fun (y : Int) (f : Word) => cvaWords w e old = ([BitVec.ofInt 32 y], f)
      (v.isNan = true → int 0 flagNV) ∧
      (∀ n, v = .inf n → int (if n then -(2 ^ 31) else 2 ^ 31 - 1) (flagNV ||| flagSAT)) ∧
      (v.isFin = true → ∃ y, Integral m v.neg? v.mag y ∧
        (y < -(2 ^ 31) ∨ 2 ^ 31 - 1 < y → int (max (-(2 ^ 31)) (min (2 ^ 31 - 1) y)) (flagNV ||| flagSAT)) ∧
        (-(2 ^ 31) ≤ y → y ≤ 2 ^ 31 - 1 → int y (if (y : Rat) = v.rat then 0 else flagNX)))) ∧
    (∀ F, [f32, f16, bf16][tgt]? = some F →
      (v.isNan = true → gives (F.nanCode, nv)) ∧ (∀ n, v = .inf n → gives (F.signed n F.infCode, 0)) ∧
      (v.isFin = true → ∃ r, gives r ∧ F.RoundsTo m old v.rat v.neg? r)) ∧
    ∀ n, tgt = 3 ∧ n = 7 ∨ tgt = 4 ∧ n = 3 →
      (v.isNan = true → gives (2 ^ n, nv)) ∧
      (∀ neg, v = .inf neg → gives ((if neg then 2 ^ n else 0) + (2 ^ n - 1), flagSAT ||| flagNX)) ∧
      (∀ neg k q, v = .fin neg k q → (k = 0 → gives (0, 0)) ∧
        (k ≠ 0 → ∃ r, gives r ∧ MarkDelivers n m old neg (magOf k 1 q) r.1 r.2))) ∧
  ∀ (o : MemOp) (s : State) g (x : Machine.Group) b (key : Nat → Nat), Issues s g x → s.blockOf x = some b →
    let c := sizeRegs o.size
    let w := x.uni (o.b.toNat + 1)
    let per := if wbits w 3 0 = 0 then 2 else 1
    let takes := fun (l : Nat) => x.active.getLsbD l && !x.isHelper l
    LaneReady x (o.a.toNat :: (List.range (per * c)).map (o.d.toNat + ·)) → UniReads x [o.b.toNat, o.b.toNat + 1] →
    w.toNat ≤ 2 →
    (∀ l, takes l = true → b.checkAt .acc 8 (8 * c) (x.reg l o.a.toNat + x.uni o.b.toNat) = .ok (key l)) →
    let entries := ((lanesOf x.active).filter takes).flatMap fun l => (List.range c).map fun j => key l + 8 * j
    (∀ u, x.current = some u → (∃ k ∈ entries, s.busyAt x.core k = true) → exec (.acw o) s = .next (s.setGroup g
      { x with current := none, waiting := x.waiting ++ [newWaiting u.mask (.matrix { entries := entries }) x.issues] })) ∧
    ((∀ l j, takes l = true → j < c → s.busyAt x.core (key l + 8 * j) = false) →
    (∀ l k, takes l = true → takes k = true → l ≠ k → key l + 8 * c ≤ key k ∨ key k + 8 * c ≤ key l) →
    let entry := fun (l j : Nat) =>
      let v := fun k => x.reg l (o.d.toNat + k)
      if w = 0 then (v (2 * j)).toNat + (v (2 * j + 1)).toNat % 2 ^ 13 * 2 ^ 32
      else if w = 1 then (acc40.deliver .rn 0 (fval (v j))).1
      else ((v j).toInt % 2 ^ 40).toNat
    ∃ s' : State, Completes (.acw o) 4 o.park s g x s' ∧ s' = { s with ord := s'.ord } ∧
      s'.ord = { s.ord with wb := s'.ord.wb, seq := s'.ord.seq } ∧ s.ord.wb <+: s'.ord.wb ∧
      (∀ l j, takes l = true → j < c → (s'.loadBytes x.core (some g) none (key l + 8 * j) 8).1 = bytesOf 8 (entry l j)) ∧
      ∀ core group k, (core ≠ x.core ∨ group ≠ some g ∨ ∀ l, takes l = true → ¬(key l ≤ k ∧ k < key l + 8 * c)) →
        s'.loadByte core group none k = s.loadByte core group none k)

/-- A matrix operation (R225, R226, R234-R237): a closed set whose conditions hold starts, with the registers of its
signers captured and, under a fence, as an acquire of theirs (12 R273), and one that has lost a slot aborts. It waits for what
its signers have copied to A and for the promotions of their acquire. Each entry of C becomes its old value plus the exact sum
of the products of its row and column, rounded once to acc40 or clamped once; no other byte changes.
Where the model had to choose a reading, that is its own: logs 33, 40 and 46 (an uncorrectable error writes no entry). -/
def Obligations.MatrixEvents : Prop :=
  (∀ (s : State) block core cv (b : Block) (c : CvSet) o pc part, s.block? block = some b →
    Tab.get b.cvs (8 * core + cv) = some c → c.first = some (o, pc, part) →
    (b.hasCv core cv = false → exec (.mmaSetStart block core cv) s = .next s) ∧
    (b.hasCv core cv = true → c.lost = true → ∃ t b' h, exec (.mmaSetStart block core cv) s = .next t ∧ t.block? block = some b' ∧
      Tab.get b'.cvs (8 * core + cv) = none ∧ t.held = s.held ++ [h] ∧ h.org = o ∧ h.f.cause = .detached ∧ h.f.pc = pc ∧
      t.mem = s.mem) ∧
    (c.lost = false → (c.closed = none ∨ s.mayStart core (matParams c.params) c part = false) →
      exec (.mmaSetStart block core cv) s = .next s) ∧
    (c.lost = false → c.closed.isSome = true → b.hasCv core cv = true → s.mayStart core (matParams c.params) c part = true →
      ∃ t b' m, exec (.mmaSetStart block core cv) s = .next t ∧ t.block? block = some b' ∧
        Tab.get b'.cvs (8 * core + cv) = none ∧ t.matOps = s.matOps ++ [m] ∧ m.org = o ∧ m.params = c.params ∧
        m.regions = c.regions ∧ m.aBank = c.aBank ∧ t.mem = s.mem ∧
        (m.captured = c.sigs.map fun q => (q.pos, match s.group? q.group with
          | some x => x.regList q.lane q.reg q.regs
          | none => [])) ∧
        ((matParams c.params).nobar = false → ∀ q ∈ c.sigs, ∀ x, s.group? q.group = some x →
          (∃ y, t.group? q.group = some y ∧ y.tags = []) ∧
          ∀ r ∈ promotionsOf x.core q.group .clu x.tags, r ∈ t.ord.promotions))) ∧
  (∀ (s : State) i (o : MatOp), s.matOps[i]? = some o → s.copyPending o (matParams o.params) = true ∨ s.startWaits o = true →
    exec (.mmaOpComplete i) s = .next s) ∧
  (∀ (s : State) i (o : MatOp), s.matOps[i]? = some o →
    let p := matParams o.params
    let cols := matCols o.scope p.fmt
    s.copyPending o p = false → s.startWaits o = false → s.ord.wb = [] → s.ord.writes = [] →
    s.portUnits = [] → s.sliceOps = [] → (∀ r ∈ s.rays, r.2.updates = false) →
    (o.badReads s p = true → ∃ t h, exec (.mmaOpComplete i) s = .next t ∧ t.matOps = s.matOps.eraseIdx i ∧
      t.held = s.held ++ [h] ∧ h.org = o.org ∧ h.f.cause = .ecc ∧ h.f.pc = o.pc ∧ t.mem = s.mem) ∧
    (o.badReads s p = false →
    (∀ i j, i < j → j < p.rows * cols → o.entryKey i + 8 ≤ o.entryKey j ∨ o.entryKey j + 8 ≤ o.entryKey i) →
    ∃ t, exec (.mmaOpComplete i) s = .next t ∧ t.matOps = s.matOps.eraseIdx i ∧
      (∀ m n, m < p.rows → n < cols → t.readHome (o.entryKey (m * cols + n)) 8 =
        bytesOf 8 (newEntry p.fmt (if p.zero then 0 else ofBytes (s.readHome (o.entryKey (m * cols + n)) 8))
          (o.aFactors s p m) ((List.range (matK p.fmt)).map fun k => o.bAt p.fmt k n))) ∧
      ∀ k, (∀ i, i < p.rows * cols → ¬(o.entryKey i ≤ k ∧ k < o.entryKey i + 8)) → Memory.read t.mem k = Memory.read s.mem k)) ∧
  (∀ fmt w, (fmt, w) ∈ [(2, 8), (3, 4)] → ∀ old (a b : List Factor), old < 2 ^ 45 →
    let sum := (a.zip b).foldl (fun (t : Int) p => t + sxNat p.1.code w * sxNat p.2.code w) (sxNat old 40)
    let r := min (max sum (-(2 ^ 39 - 1))) (2 ^ 39 - 1)
    sxNat (newEntry fmt old a b) 40 = r ∧
      field (newEntry fmt old a b) 44 40 = field old 44 40 ||| (if r = sum then 0 else 16)) ∧
  -- mk8, mk4, binary16 and bfloat16
  ∀ fmt (value : Nat → FNum), fmt = 0 ∧ value = markDecode 7 ∨ fmt = 1 ∧ value = markDecode 3 ∨ fmt = 4 ∧ value = f16.decode ∨
      fmt = 5 ∧ value = bf16.decode → ∀ old (a b : List Factor), old < 2 ^ 45 →
    let c := acc40.decode (old % 2 ^ 40)
    let terms := (a.zip b).filter fun p => !(value p.1.code).isZero && !(value p.2.code).isZero
    let nan := fun (p : Factor × Factor) => (value p.1.code).isNan = true ∨ (value p.2.code).isNan = true ∨
      (fmt ≤ 1 ∧ (p.1.scale = 255 ∨ p.2.scale = 255))
    let inf := fun (neg : Bool) => c = .inf neg ∨ ∃ p ∈ terms,
      ((value p.1.code).isInf = true ∨ (value p.2.code).isInf = true) ∧ ((value p.1.code).neg? != (value p.2.code).neg?) = neg
    let invalid := c.isNan = true ∨ (∃ p ∈ terms, nan p) ∨ (inf false ∧ inf true)
    let sum := terms.foldl (fun (t : Rat) p => t + (value p.1.code).rat * (value p.2.code).rat *
      (if fmt ≤ 1 then magOf 1 1 ((p.1.scale : Int) + p.2.scale - 254) else 1)) c.rat
    let gives := fun (r : Nat × Word) => newEntry fmt old a b % 2 ^ 40 = r.1 ∧
      field (newEntry fmt old a b) 44 40 = field old 44 40 ||| wbits r.2 12 8
    (invalid → gives (acc40.nanCode, flagNV)) ∧
    (¬invalid → ∀ neg, inf neg → gives (acc40.signed neg acc40.infCode, 0)) ∧
    (¬invalid → ¬inf false → ¬inf true → ∃ r, gives r ∧ acc40.RoundsTo .rn 0 sum false r)

/-! ### Hardware queues (11) -/

/-- The queue words (R254-R256): a word or a register group that is not valid is illegal; helpers alone learn HELPER; a
queue that is not configured is a QUEUE fault of its sender; `enq` finds the queue full, or stores its record at TAIL as
a release, for which it is held while a `gupd` of its group has not ended or keeps a store; `deq` finds it empty, or takes the
record at HEAD as an acquire; `qarm` arms it with an object; `qstat` reads it.
Where the model had to choose a reading, that is its own: logs 18 and 31. -/
def Obligations.QueueWords : Prop :=
  ∀ (o : EngOp3) (s : State) g (x : Machine.Group) (b : Block), Issues s g x → s.blockOf x = some b →
    let a := o.a.toNat
    let c := o.c.toNat
    let w := x.uni o.b.toNat
    let n := wbits w 8 0
    let rs := (List.range 16).map (a + ·)
    let result := fun (reg : Nat) (vs : List Word) => ({ group := g, lane := none, reg := reg, vals := vs, spec := false } : Result)
    let pend := x.setPendAll c 1 .queueUnit
    let pends := fun (k : Nat) => (x.setPendAll a k .queueUnit).setPendAll c 1 .queueUnit
    let ends := fun (i : Instr) (y : Machine.Group) (s' : State) => Completes i 4 o.park s g x s' ∧ OnlyGroup s s' g y
    (a % 4 ≠ 0 → ∀ i ∈ [Instr.enq o, .deq o, .qstat o], Raises i s g { cause := .illegal, ops := [s.word] }) ∧
    (UniReads x [o.b.toNat] → UniWrites x [c] →
      (a % 4 = 0 → UniReads x rs → wbits w 31 11 ≠ 0 ∨ (wbit w 10 = true ∧ wbit w 9 = false) →
        Raises (.enq o) s g { cause := .illegal, ops := [s.word] }) ∧
      (a % 4 = 0 → UniWrites x rs → wbits w 31 11 ≠ 0 ∨ wbits w 10 9 ≠ 0 →
        Raises (.deq o) s g { cause := .illegal, ops := [s.word] }) ∧
      (a % 4 = 0 → UniReads x rs → wbits w 31 11 = 0 → (wbit w 10 = true → wbit w 9 = true) → x.allHelpers = true →
        ∃ y s', ends (.enq o) y s' ∧ s' = { s with groups := s'.groups } ∧ y = { x with regs := y.regs } ∧
          x.Writes y (fun l r => decide (l < x.width) && r == c) fun _ _ => stHELPER) ∧
      (a % 4 = 0 → UniReads x rs → wbits w 31 11 = 0 → wbits w 10 9 = 0 → x.allHelpers = false → Tab.get s.queues n = none →
        ∃ s' h, ends (.enq o) pend s' ∧ s' = { s with groups := s'.groups, held := s.held ++ [h] } ∧ h.org = s.origin g x ∧
          h.f.cause = .queue ∧ h.f.async = true ∧ h.f.ops = [w] ∧ h.result = some (result c [stREFUSED])) ∧
      ∀ q : Queue, Tab.get s.queues n = some q → q.root = s.rootOfBlock b →
        (∀ p, a % 4 = 0 → UniReads x rs → wbits w 31 11 = 0 → (wbit w 10 = true → wbit w 9 = true) → x.allHelpers = false →
          (wbit w 10 = false → q.full = true → ∃ s', ends (.enq o) pend s' ∧
            s' = { s with groups := s'.groups, results := s.results ++ [result c [stFULL]] }) ∧
          (wbit w 10 = true ∨ q.full = false → s.releaseWaits g x.core s.ord.seq = true →
            exec (.enq o) s = .next (s.settleBefore x.core s.ord.seq)) ∧
          (q.binding = 0 → q.armed = none → s.Quiet → wbit w 10 = false → q.full = false →
            s.Finds q.root (q.recordVa q.tail) .write p → p.cmp = 0 → ∃ s', ends (.enq o) pend s' ∧
              s' = { s with groups := s'.groups, results := s.results ++ [result c [stOK]], mem := s'.mem
                            errors := s'.errors, ord := s'.ord, cached := s'.cached, compPages := s'.compPages
                            free := s'.free, queues := Tab.put s.queues n { q with tail := q.tail + 1 } } ∧
              s'.readHome p.key 64 = bytesOfWords (rs.map x.uni) ∧ SameMemory s s' p.key 64 ∧
              Tab.get s'.ord.curTags x.core = some { core := x.core, scope := .dev, rel := s.ord.seq })) ∧
        (wbits w 31 9 = 0 → x.allHelpers = false → q.binding = 0 → a % 4 = 0 → UniWrites x rs →
          (q.head = q.tail → ∃ s', ends (.deq o) (pends 16) s' ∧
            s' = { s with groups := s'.groups
                          results := s.results ++ [result a (List.replicate 16 0), result c [stEMPTY]] }) ∧
          ∀ p, q.head ≠ q.tail → q.armed = none → x.tags = [] → s.Finds q.root (q.recordVa q.head) .write p → p.cmp = 0 →
            s.anyError p.key 64 = false →
            ∃ s', ends (.deq o) (pends 16) s' ∧
              s' = { s with groups := s'.groups, ord := { s.ord with copies := s'.ord.copies }, cached := s'.cached
                            compPages := s'.compPages, free := s'.free
                            results := s.results ++ [result a (s.words p.key 16), result c [stOK]]
                            queues := Tab.put s.queues n { q with head := q.head + 1, free := q.head + 1 } }) ∧
        (∀ key, wbits w 31 9 = 0 → x.allHelpers = false → q.binding = 0 → UniReads x [a] →
          b.checkAt .scr 16 16 (x.uni a) = .ok key →
          (q.armed.isSome = true → ∃ s', ends (.qarm o) pend s' ∧
            s' = { s with groups := s'.groups, results := s.results ++ [result c [stREFUSED]] }) ∧
          (q.armed = none → q.head = q.tail → ∃ s', ends (.qarm o) pend s' ∧
            s' = { s with groups := s'.groups, results := s.results ++ [result c [stOK]]
                          queues := Tab.put s.queues n { q with armed := some ({ bank := keyBank key, off := addrOff (x.uni a)
                                                                                 gen := s.gen (keyBank key)
                                                                                 org := s.origin g x, pc := s.issuePc x
                                                                                 word := s.word } : Arm) } })) ∧
        (wbits w 31 9 = 0 → a % 4 = 0 → UniWrites x ((List.range 8).map (a + ·)) →
          ∃ s', ends (.qstat o) (pends 8) s' ∧ s' = { s with groups := s'.groups, results := s.results ++ [result a
            [q.tail, q.head, q.free,
              BitVec.ofNat 32 ((if q.binding = 0 then 0 else 2 ^ 31) + (if q.armed.isSome then 2 ^ 30 else 0) +
                q.log2cap * 2 ^ 24 + q.batch),
              BitVec.ofNat 32 q.base, BitVec.ofNat 32 (q.base / 2 ^ 32), BitVec.ofNat 32 q.binding,
              BitVec.ofNat 32 (q.binding / 2 ^ 32)], result c [stOK]] }))

/-! ### Messages (20) -/

/-- The message words (R359-R365): with 16 commands in flight a command gets FULL; `send` releases and puts its payload
on its way; `recv` waits for a message, lands the oldest that it takes from the overflow queue and counts its bytes, or
cancels; `mstat` counts them.
Messages and landings (R362, R364, 08 R190): a message meets the oldest receive that takes it, else the overflow
queue of its cluster, else it is lost with REFUSED and MSGOVF; a delivery lands its bytes in its bank, waits while the
bank drains, and is dropped where the bank has changed.
Where the model had to choose a reading, that is its own: logs 18 (a release that a `gupd` holds back) and 19. -/
def Obligations.Messages : Prop :=
  ((∀ (o : EngOp2) (s : State) g (x : Machine.Group) (b : Block), Issues s g x → s.blockOf x = some b →
    let a := o.a.toNat
    let c := o.c.toNat
    let w := fun (i : Nat) => x.uni (a + i)
    let result := fun (reg : Nat) (vs : List Word) => ({ group := g, lane := none, reg := reg, vals := vs, spec := false } : Result)
    let ends := fun (i : Instr) (y : Machine.Group) (s' : State) => Completes i 4 o.park s g x s' ∧ OnlyGroup s s' g y
    (a % 4 ≠ 0 → ∀ i ∈ [Instr.send o, .mstat o], Raises i s g { cause := .illegal, ops := [s.word] }) ∧
    (a % 4 = 0 → UniReads x ((List.range 4).map (a + ·)) → UniWrites x [c] →
      let ok := wbits (w 0) 31 4 = 0 ∧ wbits (w 3) 31 13 = 0 ∧ 16 ≤ wbits (w 3) 12 0 ∧ wbits (w 3) 12 0 ≤ 4096 ∧
        wbits (w 3) 12 0 % 16 = 0
      (¬ok → Raises (.send o) s g { cause := .illegal, ops := [s.word] }) ∧
      (∀ e, ok → b.checkAt .scr 16 (wbits (w 3) 12 0) (w 2) = .error e → Raises (.send o) s g { cause := e, ops := [s.word, w 2] }) ∧
      ∀ key, ok → b.checkAt .scr 16 (wbits (w 3) 12 0) (w 2) = .ok key → x.allHelpers = false →
        (16 ≤ s.messageSlots x.core → ∃ s', ends (.send o) (x.setPendAll c 1 .message) s' ∧
          s' = { s with groups := s'.groups, results := s.results ++ [result c [stFULL]] }) ∧
        (s.messageSlots x.core < 16 → s.releaseWaits g x.core s.ord.seq = true →
          exec (.send o) s = .next (s.settleBefore x.core s.ord.seq)) ∧
        (s.messageSlots x.core < 16 → s.Quiet → s.errors = [] → ∃ s' m, ends (.send o) (x.setPendAll c 1 .message) s' ∧
          s' = { s with groups := s'.groups, ord := s'.ord, nextId := s.nextId + 1
                        fabric := { s.fabric with messages := Tab.put s.fabric.messages s.nextId m } } ∧
          m.org = s.origin g x ∧ m.c = c ∧ m.words = (List.range 4).map w ∧ m.dest = wbits (w 0) 3 0 ∧ m.tag = w 1 ∧
          m.data = s.readHome key (wbits (w 3) 12 0) ∧ m.root = s.rootOfBlock b ∧ m.flying = true ∧
          s'.ord = { s.ord with curTags := s'.ord.curTags, seq := s.ord.seq + 1 } ∧
          Tab.get s'.ord.curTags x.core = some { core := x.core, scope := .dev, rel := s.ord.seq })) ∧
    (a % 4 = 0 → UniWrites x (c :: (List.range 4).map (a + ·)) → x.allHelpers = false →
      let spilled := s.fabric.overflow.filter fun q => q.cluster == b.cluster && q.root == s.rootOfBlock b
      ∃ s', ends (.mstat o) ((x.setPendAll a 4 .message).setPendAll c 1 .message) s' ∧
        s' = { s with groups := s'.groups, results := s.results ++
          [result a ([BitVec.ofNat 32 (s.fabric.receives.filter fun r => r.block == x.block).length, BitVec.ofNat 32 spilled.length]
            ++ match spilled with
              | [] => [0, 0]
              | q :: _ => [BitVec.ofNat 32 (q.source + q.data.length * 2 ^ 16), q.tag]), result c [stOK]] })) ∧
  ∀ (o : EngOp3) (s : State) g (x : Machine.Group) (b : Block), Issues s g x → s.blockOf x = some b →
    let a := o.a.toNat
    let c := o.c.toNat
    let w := fun (i : Nat) => x.uni (a + i)
    a % 4 = 0 → UniReads x (o.b.toNat :: (List.range 4).map (a + ·)) → UniWrites x [c] → s.messageSlots x.core < 16 →
    x.allHelpers = false →
    let m : Message :=
      { org := s.origin g x, pc := s.issuePc x, c := c, words := (List.range 4).map w, dest := 0, tag := 0, data := []
        root := s.rootOfBlock b, flying := false }
    let ends := fun (s' : State) (v : Word) => Completes (.recv o) 4 o.park s g x s' ∧
      OnlyGroup s s' g (x.setPendAll c 1 .message) ∧ s'.results = s.results ++
        [{ group := g, lane := none, reg := c, vals := [v], spec := false, command := some s.nextId }] ∧
      s' = { s with groups := s'.groups, results := s'.results, fabric := s'.fabric, nextId := s.nextId + 1 } ∧
      s'.fabric.messages = Tab.put s.fabric.messages s.nextId m
    (wbits (w 0) 31 6 = 0 → wbit (w 0) 5 = true → (wbit (w 0) 4 = true → wbits (w 0) 3 0 = 0) → wbits (w 3) 31 13 = 0 →
      match s.fabric.receives.find? fun r =>
          r.block == x.block && r.any == wbit (w 0) 4 && r.scl == wbits (w 0) 3 0 && r.tag == w 1 with
      | some r => ∃ s', ends s' stOK ∧ s'.fabric.receives = s.fabric.receives.erase r ∧ s'.fabric.overflow = s.fabric.overflow
      | none => ∃ s', ends s' stEMPTY ∧ s'.fabric.receives = s.fabric.receives ∧ s'.fabric.overflow = s.fabric.overflow) ∧
    (∀ key bar, wbits (w 0) 31 5 = 0 → (wbit (w 0) 4 = true → wbits (w 0) 3 0 = 0) → wbits (w 3) 31 13 = 0 →
      16 ≤ wbits (w 3) 12 0 → wbits (w 3) 12 0 ≤ 4096 → wbits (w 3) 12 0 % 16 = 0 →
      b.checkAt .scr 16 (wbits (w 3) 12 0) (w 2) = .ok key → b.checkAt .scr 16 16 (x.uni o.b.toNat) = .ok bar →
      s.portUnits = [] → s.ord.wb = [] →
      let first := s.fabric.overflow.find? fun q => q.cluster == b.cluster && q.root == s.rootOfBlock b &&
        (wbit (w 0) 4 || q.source == wbits (w 0) 3 0) && q.tag == w 1 && decide (q.data.length ≤ wbits (w 3) 12 0)
      let waits := (s.fabric.receives.filter fun q => q.cluster == b.cluster).length
      (∀ q, first = some q → s.groups.all (fun p => p.2.waiting.isEmpty) = true →
        bar + 16 ≤ key ∨ key + q.data.length ≤ bar →
        let n := q.data.length
        let off := wbits (x.uni o.b.toNat) 17 0
        let old := s.bar (keyBank bar) off
        let new := { old with landed := (old.landed + n) % 2 ^ 32 }
        let full := new.expa ≠ 0 ∧ new.arr = new.expa ∧ new.landed = new.expb
        let refused := old.arr = old.expa ∧ old.expb < old.landed + n
        let answer := fun (v : Word) =>
          ({ group := g, lane := none, reg := c, vals := [v], spec := false, command := some s.nextId } : Result)
        ∃ s', Completes (.recv o) 4 o.park s g x s' ∧ OnlyGroup s s' g (x.setPendAll c 1 .message) ∧
          s' = { s with groups := s'.groups, results := s'.results, held := s'.held, fabric := s'.fabric, mem := s'.mem
                        errors := s'.errors, ord := s'.ord, nextId := s.nextId + 1 } ∧
          s'.fabric.overflow = s.fabric.overflow.erase q ∧ s'.fabric.receives = s.fabric.receives ∧
          s'.readHome key n = q.data ∧
          (∀ k, ¬(key ≤ k ∧ k < key + n) → ¬(bar ≤ k ∧ k < bar + 16) → Memory.read s'.mem k = Memory.read s.mem k) ∧
          (¬refused → s'.results = s.results ++ [answer 0x100] ∧ s'.held = s.held ∧
            s'.bar (keyBank bar) off = if full then
              { phase := (new.phase + 1) % 2 ^ 32, expa := new.expa, arr := 0, expb := 0, landed := 0 } else new) ∧
          (refused → s'.results = s.results ∧ s'.bar (keyBank bar) off = old ∧
            ∃ h, s'.held = s.held ++ [h] ∧ h.org = s.origin g x ∧ h.f.cause = .overrun ∧
              h.result = some (answer stREFUSED))) ∧
      (first = none → 64 ≤ waits →
        ∃ s', ends s' stFULL ∧ s'.fabric.receives = s.fabric.receives ∧ s'.fabric.overflow = s.fabric.overflow) ∧
      (first = none → waits < 64 → ∃ s', ends s' stOK ∧ s'.fabric.overflow = s.fabric.overflow ∧ s'.fabric.receives = s.fabric.receives ++
        [{ block := x.block, cluster := b.cluster, any := wbit (w 0) 4, scl := wbits (w 0) 3 0, tag := w 1
           cap := wbits (w 3) 12 0, slot := addrSlot (w 2), bank := keyBank key, gen := s.gen (keyBank key)
           off := addrOff (w 2), bar := (keyBank bar, addrOff (x.uni o.b.toNat), s.gen (keyBank bar)) }]))) ∧
  (∀ (s : State) id (m : Message), Tab.get s.fabric.messages id = some m →
    let waits := m.flying = true ∧ ∀ k n, Tab.get s.fabric.messages k = some n → k < id → n.flying = true →
      ¬(n.org.core = m.org.core ∧ n.dest = m.dest)
    let done := Tab.put s.fabric.messages id { m with flying := false }
    let status := fun (v : Word) =>
      ({ group := m.org.group, lane := none, reg := m.c, vals := [v], spec := false, command := some id } : Result)
    (Tab.sorted s.fabric.messages = true → ¬waits → exec (.messageArrival id) s = .next s) ∧
    (Tab.sorted s.fabric.messages = true → waits → ∀ r, s.fabric.receives.find? (fun r => r.takes s m) = some r →
      ∃ t d, exec (.messageArrival id) s = .next t ∧
        t = { s with deliveries := s.deliveries ++ [d]
                     fabric := { s.fabric with receives := s.fabric.receives.erase r, messages := done } } ∧
        d.of = .message id ∧ d.bank = r.bank ∧ d.gen = r.gen ∧ d.off = r.off ∧ d.data = m.data ∧ d.bar = some r.bar ∧
        d.count = m.data.length ∧ d.ready = true) ∧
    (Tab.sorted s.fabric.messages = true → waits → s.fabric.receives.find? (fun r => r.takes s m) = none →
      let held := (s.fabric.overflow.filter fun q => q.cluster == m.dest).length
      (held < 64 → ∃ t, exec (.messageArrival id) s = .next t ∧
        t = { s with results := s.results ++ [status 0x100]
                     fabric := { s.fabric with messages := done, overflow := s.fabric.overflow ++
                       [{ cluster := m.dest, root := m.root, source := m.org.core / 12, tag := m.tag, data := m.data }] } }) ∧
      (64 ≤ held → ∃ t, exec (.messageArrival id) s = .next t ∧
        t = { s with results := s.results ++ [status stREFUSED], fabric := { s.fabric with messages := done }
                     held := t.held, reports := t.reports } ∧
        (t.held.map (fun h => h.f.cause) = s.held.map (fun h => h.f.cause) ++ [.msgovf] ∧ t.reports = s.reports ∨
          t.held = s.held ∧ t.reports.map (fun r => r.f.cause) = s.reports.map (fun r => r.f.cause) ++ [.msgovf])))) ∧
  ∀ (s : State) k (d : Delivery), s.deliveries[k]? = some d → d.ready = true →
    let rest := s.deliveries.eraseIdx k
    let kept := s.gen d.bank = d.gen
    let drains := ∃ q ∈ s.drains, q.bank = d.bank
    let mapped := ∃ b, s.block? d.block = some b ∧ b.bank? d.space d.slot = some d.bank
    let barKept := ∀ q o n, d.bar = some (q, o, n) → s.gen q = n
    (kept → drains → exec (.deliveryLanding k) s = .next s) ∧
    (∀ id m, d.of = .message id → Tab.get s.fabric.messages id = some m → ¬kept ∨ ¬drains ∧ ¬(mapped ∧ barKept) →
      ∃ t, exec (.deliveryLanding k) s = .next t ∧ t.deliveries = rest ∧ t.mem = s.mem ∧ t.held = s.held ∧
        t.results = s.results ++ [{ group := m.org.group, lane := none, reg := m.c, vals := [stSTALE], spec := false
                                    command := some id }]) ∧
    (∀ id m, d.of = .message id → Tab.get s.fabric.messages id = some m → kept → ¬drains → mapped → d.bar = none →
      d.side = [] → ∃ t, exec (.deliveryLanding k) s = .next t ∧ t.deliveries = rest ∧
        t.readHome (bankKey d.bank .data d.off) d.data.length = d.data ∧
        SameMemory s t (bankKey d.bank .data d.off) d.data.length ∧
        t.results = s.results ++ [{ group := m.org.group, lane := none, reg := m.c, vals := [0], spec := false
                                    command := some id }])

/-! ### The fabric (20) -/

/-- The fabric words (R367-R373): a command that is not valid is illegal, the ninth in flight gets FULL; `coll` releases,
takes the next number of its group table entry, and sends its contribution, or gets REFUSED with reason 5 where its port
is not ready; `comp` releases and sends its packet, or gets REFUSED with the reason its header gives. A refused one still names
the entry of its GROUP while it holds its slot (R367).
Where the model had to choose a reading, that is its own: logs 18 (a release that a `gupd` holds back), 21 and 22. -/
def Obligations.FabricWords : Prop :=
  ∀ (o : EngOp2) (s : State) g (x : Machine.Group) (b : Block), Issues s g x → s.blockOf x = some b →
    let a := o.a.toNat
    let c := o.c.toNat
    let w := fun (i : Nat) => x.uni (a + i)
    let ends := fun (i : Instr) (s' : State) =>
      Completes i 4 o.park s g x s' ∧ OnlyGroup s s' g (x.setPendAll c 1 .fabric)
    let full := fun (i : Instr) => ∃ s', ends i s' ∧ s' = { s with groups := s'.groups, results := s.results ++
      [{ group := g, lane := none, reg := c, vals := [stFULL], spec := false }] }
    let status := fun (v : Word) =>
      ({ group := g, lane := none, reg := c, vals := [v], spec := false, command := some s.nextId } : Result)
    let released := fun (s' : State) => s'.ord = { s.ord with curTags := s'.ord.curTags, seq := s.ord.seq + 1 } ∧
      Tab.get s'.ord.curTags x.core = some { core := x.core, scope := .dom, rel := s.ord.seq }
    let waits := s.releaseWaits g x.core s.ord.seq = true
    let held := fun (i : Instr) => exec i s = .next (s.settleBefore x.core s.ord.seq)
    UniWrites x [c] →
    (a % 4 ≠ 0 → Raises (.coll o) s g { cause := .illegal, ops := [s.word] }) ∧
    (a % 4 = 0 → UniReads x ((List.range 4).map (a + ·)) →
      let op := wbits (w 2) 31 28
      let len := wbits (w 2) 19 0
      let k := wbits (w 3) 30 24
      let e := s.groupEntry k
      let ok := op ≤ 8 ∧ wbits (w 2) 27 20 = 0 ∧ 0 < len ∧ len % 16 = 0 ∧ e.valid = true
      (¬ok → Raises (.coll o) s g { cause := .illegal, ops := [s.word] }) ∧
      ∀ src dst (bar : Option (Nat × Nat × BitVec 8)), ok → addrArea (w 0) = 0 → addrArea (w 1) = 0 →
        b.checkAt .act 16 len (w 0) = .ok src →
        b.checkAt .act 16 (if op = 8 then e.nrank.toNat * len else len) (w 1) = .ok dst →
        (wbit (w 3) 31 = true ∧ bar = none ∨ wbit (w 3) 31 = false ∧ ∃ q,
          b.checkAt .scr 16 16 (BitVec.ofNat 32 (wbits (w 3) 23 0)) = .ok q ∧
          bar = some (keyBank q, wbits (w 3) 17 0, s.gen (keyBank q))) → x.allHelpers = false →
        (8 ≤ s.fabricSlots x.core → full (.coll o)) ∧ (s.fabricSlots x.core < 8 → waits → held (.coll o)) ∧
        (s.fabricSlots x.core < 8 → s.Quiet → s.errors = [] → ∃ s' m, ends (.coll o) s' ∧ released s' ∧
          s' = { s with groups := s'.groups, ord := s'.ord, free := s'.free, nextId := s.nextId + 1, fabric := s'.fabric
                        deliveries := s'.deliveries, results := s'.results } ∧
          s'.fabric = { s.fabric with table := s'.fabric.table, commands := Tab.put s.fabric.commands s.nextId m } ∧
          s'.groupEntry k = { e with seq := e.seq + 1 } ∧ (∀ j, j ≠ k → s'.groupEntry j = s.groupEntry j) ∧
          m.org = s.origin g x ∧ m.plane < 18 ∧ m.work = .coll k e.seq op (s.readHome src len) ∧
          m.flying = s.portReady m.plane ∧
          (m.flying = true → s'.results = s.results ∧ ∃ d, s'.deliveries = s.deliveries ++ [d] ∧ d.of = .collective s.nextId ∧
            d.bank = keyBank dst ∧ d.off = addrOff (w 1) ∧ d.gen = s.gen (keyBank dst) ∧ d.ready = false ∧ d.bar = bar) ∧
          (m.flying = false → s'.results = s.results ++ [status 0x504]))) ∧
    (UniReads x [a] →
      (addrArea (w 0) ≠ 0 → Raises (.comp o) s g { cause := .bankbound, ops := [s.word, w 0] }) ∧
      (∀ f, addrArea (w 0) = 0 → b.checkAt .act 64 3104 (w 0) = .error f → Raises (.comp o) s g { cause := f, ops := [s.word, w 0] }) ∧
      ∀ key, addrArea (w 0) = 0 → b.checkAt .act 64 3104 (w 0) = .ok key → x.allHelpers = false →
        (8 ≤ s.fabricSlots x.core → full (.comp o)) ∧ (s.fabricSlots x.core < 8 → waits → held (.comp o)) ∧
        (s.fabricSlots x.core < 8 → s.Quiet → s.errors = [] →
          let packet := s.readHome key 3104
          let h := tileHeader packet
          let sent := fun (v : Option Word) (work : FabricWork) => ∃ s' m, ends (.comp o) s' ∧ released s' ∧
            s' = { s with groups := s'.groups, ord := s'.ord, nextId := s.nextId + 1, deliveries := s'.deliveries
                          fabric := { s.fabric with commands := Tab.put s.fabric.commands s.nextId m }
                          results := s.results ++ (v.map status).toList } ∧
            m.org = s.origin g x ∧ m.plane = (h.key.tx + h.key.ty) % 18 ∧ m.work = work ∧ m.flying = v.isNone
          let bad := h.reserved = true ∨ 1 < h.mode ∨ 575 < h.ddev ∨ (h.dkind = 0 ∧ h.dpa % 64 ≠ 0)
          (bad → sent (some 0x104) (.refused (s.entryOf h.key.group))) ∧
          (¬bad → s.entryOf h.key.group = none → sent (some 0x204) (.refused none)) ∧
          ∀ k, ¬bad → s.entryOf h.key.group = some k →
            let n := (s.groupEntry k).nrank.toNat
            (n ≤ h.rank ∨ 64 < n → sent (some 0x204) (.refused (some k))) ∧
            (h.rank < n → n ≤ 64 → s.portReady ((h.key.tx + h.key.ty) % 18) = false → sent (some 0x504) (.refused (some k))) ∧
            (h.rank < n → n ≤ 64 → s.portReady ((h.key.tx + h.key.ty) % 18) = true → sent none (.comp k packet))))

/-- A collective's end (R371): REFUSED with reason 2 where the switches do not hold the group, 7 where a member is down,
3 where members disagree; else the result, in rank order, is ready to land.
The group table and the links (R357, R366, R367, R371, 22 R384): a write to an entry no command names, with SEQ and
LATECNT zero after it, and none after a thermal trip; a port that goes down refuses its collectives with reason 7; one that comes up is ready where its
switch gives the device the number of plane 0; the golden source of a die moves round its 52 places.
Where the model had to choose a reading, that is its own: logs 21, 27 and 36. -/
def Obligations.FabricEvents : Prop :=
  (∀ (s : State) entry (others : List CollPart) id (m : FabricCmd) k op data,
    s.fabric.commands.find? (fun p => p.2.flying && (match p.2.work with
      | .coll k _ _ _ => k == entry
      | _ => false)) = some (id, m) → m.work = .coll entry k op data →
    let e := s.groupEntry entry
    let ends := fun (v : Word) => ∃ t, exec (.collectiveComplete entry others) s = .next t ∧
      t = { s with fabric := { s.fabric with commands := Tab.put s.fabric.commands id { m with flying := false } }
                   deliveries := s.deliveries.filter fun d => d.of != .collective id
                   results := s.results ++ [{ group := m.org.group, lane := none, reg := m.c, vals := [v], spec := false
                                              command := some id }] }
    let mine : CollPart := { rank := e.myrank.toNat, op := BitVec.ofNat 4 op, len := data.length, data := data, down := false }
    match Config.switchGroup e.gid.toNat with
    | none => ends 0x204
    | some n =>
      (n ≠ e.nrank.toNat → ends 0x204) ∧
      (n = e.nrank.toNat → (∃ q ∈ others, q.down = true) → ends 0x704) ∧
      ∀ parts : List CollPart, n = e.nrank.toNat → (∀ q ∈ others, q.down = false) → parts.length = n →
        (∀ r q, parts[r]? = some q → if r = mine.rank then q = mine else others.find? (fun p => p.rank == r) = some q) →
        ((∃ q ∈ parts, q.op ≠ mine.op ∨ q.len ≠ mine.len) → ends 0x304) ∧
        ((∀ q ∈ parts, q.op = mine.op ∧ q.len = mine.len ∧ q.data.length = q.len) →
          ∃ t r, exec (.collectiveComplete entry others) s = .next t ∧
            t = { s with fabric := { s.fabric with commands := Tab.put s.fabric.commands id { m with flying := false } }
                         deliveries := s.deliveries.map fun d =>
                           if d.of = .collective id then { d with data := r, ready := true } else d } ∧
            (op = 8 → r = parts.flatMap CollPart.data) ∧
            (op = 1 → data.length % 4 = 0 → r.length = data.length ∧
              ∀ j, j < data.length / 4 → nth (wordsOfBytes r) j 0 =
                parts.foldl (fun v q => v + nth (wordsOfBytes q.data) j 0) 0))) ∧
  (∀ (s : State) k j (v : Word), k < 128 → j < 4 → s.power.trip = false → (∀ p ∈ s.fabric.commands, p.2.work.entry? ≠ some k) →
    ∃ t, exec (.groupTableWrite (0xA10 + 16 * k + 4 * j) v) s = .next t ∧
      t = { s with fabric := { s.fabric with table := t.fabric.table } } ∧ (∀ i, i ≠ k → t.groupEntry i = s.groupEntry i) ∧
      (j = 0 → t.groupEntry k = { s.groupEntry k with valid := wbit v 31, myrank := BitVec.ofNat 10 (wbits v 25 16)
                                                      gid := BitVec.ofNat 16 (wbits v 15 0), late := 0, seq := 0 }) ∧
      (j = 1 → t.groupEntry k = { s.groupEntry k with nrank := BitVec.ofNat 10 (wbits v 9 0), late := 0, seq := 0 }) ∧
      (2 ≤ j → t = s)) ∧
  (∀ (s : State) k j (v : Word), k < 128 → j < 4 → s.power.trip = true ∨ (∃ p ∈ s.fabric.commands, p.2.work.entry? = some k) →
    exec (.groupTableWrite (0xA10 + 16 * k + 4 * j) v) s = .next s) ∧
  (∀ (s : State) p, p < 18 → Tab.sorted s.fabric.commands = true →
    let lost := s.fabric.commands.filter fun q => q.2.flying && q.2.plane == p
    ∃ t, exec (.avmalLinkDown p) s = .next t ∧ (∀ j, t.portReady j = (s.portReady j && j != p)) ∧
      t = { s with status := { s.status with ports := t.status.ports }, free := s.free + lost.length
                   fabric := { s.fabric with commands := t.fabric.commands }, deliveries := t.deliveries
                   results := t.results } ∧
      (∀ id m, Tab.get s.fabric.commands id = some m → Tab.get t.fabric.commands id =
        some (if m.flying = true ∧ m.plane = p then { m with flying := false } else m)) ∧
      ∃ vs : List Word, vs.length = lost.length ∧ t.results = s.results ++ (lost.zip vs).map (fun q =>
          { group := q.1.2.org.group, lane := none, reg := q.1.2.c, vals := [q.2], spec := false, command := some q.1.1 }) ∧
        ∀ q ∈ lost.zip vs, q.2.toNat % 2 ^ 8 = 4 ∧ ∀ k n op d, q.1.2.work = .coll k n op d → q.2 = 0x704) ∧
  (∀ (s : State) p n, p < 18 → n < 576 →
    (s.power.trip = true → exec (.avmalLinkUp p n) s = .next s) ∧
    (s.power.trip = false → p = 0 → exec (.avmalLinkUp p n) s = .next ((s.setPort 0 true).modFabric fun f =>
      { f with fabid := some (BitVec.ofNat 10 n) })) ∧
    (s.power.trip = false → p ≠ 0 → s.fabric.fabid = some (BitVec.ofNat 10 n) →
      exec (.avmalLinkUp p n) s = .next (s.setPort p true)) ∧
    (s.power.trip = false → p ≠ 0 → s.fabric.fabid ≠ some (BitVec.ofNat 10 n) → exec (.avmalLinkUp p n) s = .next s)) ∧
  (∀ (s : State) p b j, p < 18 → (s.setPort p b).portReady j = if j = p then b else s.portReady j) ∧
  ∀ (s : State) die, die ≤ 2 → ∃ t, exec (.goldenSourceAdvance die) s = .next t ∧ t = { s with golden := t.golden } ∧
    ∀ d, Tab.getD t.golden d 0 = if d = die then (Tab.getD s.golden die 0 + 1) % 52 else Tab.getD s.golden d 0

/-- Compositing (R374-R376, 21 R379): a contribution is refused where its group or rank is unknown to the switch, LATE
after its deadline, refused where it does not fit, or joins its tile; a tile closes when it holds every rank, or from its
deadline on, with the nearest depth of every pixel in mode 0 and a bit of MISSING for each absent rank; a closed tile for
this device's memory lands there, and one for a head is written pixel by pixel, each at the place that its page then has; the
last pixel ends its delivery. The moments at one switch never go back.
Where the model had to choose a reading, that is its own: logs 22 and 35. What the switches hold of a group is the model's constant
Config.switchGroup: log 27. The pixel written next is a free choice: log 4. -/
def Obligations.Compositing : Prop :=
  (∀ (s : State) id (m : FabricCmd) k packet now, Tab.get s.fabric.commands id = some m → m.flying = true →
    m.work = .comp k packet →
    let timely := s.clockOf m.plane ≤ now.toNat ∧
      (s.portReady 0 = true → now.toNat ≤ s.tsc.toNat + 2 ∧ s.tsc.toNat ≤ now.toNat + 2)
    let h := tileHeader packet
    let e := s.groupEntry k
    let answers := fun (v : Word) (late : Bool) (tiles : Fabric → Prop) =>
      ∃ t f, exec (.compArrival (.own id) now) s = .next t ∧ tiles f ∧
        t = { s with fabric := t.fabric, deliveries := t.deliveries, results := s.results ++
                       [{ group := m.org.group, lane := none, reg := m.c, vals := [v], spec := false, command := some id }] } ∧
        t.fabric = { f with table := t.fabric.table, commands := Tab.put s.fabric.commands id { m with flying := false }
                            clocks := t.fabric.clocks } ∧
        t.clockOf m.plane = now.toNat ∧ (∀ p, p ≠ m.plane → t.clockOf p = s.clockOf p) ∧
        t.groupEntry k = (if late then { e with late := e.late + 1 } else e) ∧ ∀ j, j ≠ k → t.groupEntry j = s.groupEntry j
    let same := fun (f : Fabric) => f = s.fabric
    let others := s.fabric.open_.filter fun u => u.key != h.key
    let joined := fun (n : Nat) (u : OpenTile) (f : Fabric) =>
      (u.parts.length < n → f = { s.fabric with open_ := others ++ [u] }) ∧
      (n ≤ u.parts.length → ∃ c, u.ClosedAs n now c ∧
        f = { s.fabric with open_ := others, closed := s.fabric.closed ++ [h.key], shut := s.fabric.shut ++ [c] })
    (¬timely → exec (.compArrival (.own id) now) s = .next s) ∧
    (timely → Config.switchGroup e.gid.toNat ≠ some e.nrank.toNat → answers 0x204 false same) ∧
    (timely → Config.switchGroup e.gid.toNat = some e.nrank.toNat → match Config.switchGroup h.key.group with
      | none => answers 0x204 false same
      | some n =>
        (n ≤ h.rank → answers 0x204 false same) ∧
        (h.rank < n → h.deadline ≤ now.toNat → answers stLATE true same) ∧
        (h.rank < n → now.toNat < h.deadline →
          let tiles := s.fabric.open_.filter fun t =>
            (t.key.tx + t.key.ty) % 18 == (h.key.tx + h.key.ty) % 18 && decide (now.toNat < t.deadline)
          (∀ t, tiles.find? (fun t => t.key == h.key) = some t →
            let agrees := t.deadline = h.deadline ∧ t.mode = h.mode ∧ t.dkind = h.dkind ∧ t.ddev = h.ddev ∧
              (if h.dkind = 0 then t.dpa = h.dpa else t.dhead = h.dhead)
            (¬agrees → answers 0x304 false same) ∧
            (agrees → (Tab.get t.parts h.rank).isSome = true → answers 0x404 false same) ∧
            (agrees → Tab.get t.parts h.rank = none → answers 0 false
              (joined n { t with parts := Tab.put t.parts h.rank (packet.drop 32) }))) ∧
          ((∀ t ∈ tiles, t.key ≠ h.key) →
            let known := h.key ∈ s.fabric.closed ∨ ∃ t ∈ s.fabric.open_, t.key = h.key
            (known → answers 0x404 false same) ∧
            (¬known → 16384 ≤ tiles.length → answers 0x602 false same) ∧
            (¬known → tiles.length < 16384 → answers 0 false (joined n
              { key := h.key, deadline := h.deadline, mode := h.mode, dkind := h.dkind, ddev := h.ddev, dhead := h.dhead
                dpa := h.dpa, parts := [(h.rank, packet.drop 32)] })))))) ∧
  (∀ (s : State) plane packet now, ∃ t, exec (.compArrival (.other plane packet) now) s = .next t ∧
    (∀ p, s.clockOf p ≤ t.clockOf p) ∧
    t = { s with fabric := { s.fabric with open_ := t.fabric.open_, closed := t.fabric.closed, shut := t.fabric.shut
                                           clocks := t.fabric.clocks } }) ∧
  (∀ (s : State) i (t : OpenTile) now, s.fabric.open_[i]? = some t →
    let n := match Config.switchGroup t.key.group with
      | some n => n
      | none => 0
    let plane := (t.key.tx + t.key.ty) % 18
    let timely := s.clockOf plane ≤ now.toNat ∧
      (s.portReady 0 = true → now.toNat ≤ s.tsc.toNat + 2 ∧ s.tsc.toNat ≤ now.toNat + 2)
    (¬(timely ∧ t.deadline ≤ now.toNat) → exec (.tileClose i now) s = .next s) ∧
    (timely → t.deadline ≤ now.toNat → ∃ (v : State) (c : ClosedTile), t.ClosedAs n (BitVec.ofNat 64 t.deadline) c ∧
      exec (.tileClose i now) s = .next v ∧ v = { s with
        fabric := { s.fabric with open_ := s.fabric.open_.filter fun u => u.key != t.key
                                  closed := s.fabric.closed ++ [t.key], shut := s.fabric.shut ++ [c]
                                  clocks := v.fabric.clocks } } ∧
      v.clockOf plane = now.toNat ∧ ∀ p, p ≠ plane → v.clockOf p = s.clockOf p)) ∧
  (∀ (s : State) i (c : ClosedTile), s.fabric.shut[i]? = some c → c.pixels = none →
    let rest := { s with fabric := { s.fabric with shut := s.fabric.shut.eraseIdx i } }
    let here := s.portReady ((c.key.tx + c.key.ty) % 18) = true ∧ ∃ n, s.fabric.fabid = some n ∧ n.toNat = c.ddev
    (¬here → exec (.tileDelivery i) s = .next rest) ∧
    (here → c.dkind = 0 → c.dpa + 3104 ≤ 0x6000000000 →
      (s.stacksReady c.dpa 3104 = false → exec (.tileDelivery i) s = .next s) ∧
      (s.stacksReady c.dpa 3104 = true → s.compPages = [] → c.data.length = 3072 →
        ∃ t, exec (.tileDelivery i) s = .next t ∧
          t = { rest with mem := t.mem, errors := t.errors, ord := { s.ord with homeTags := t.ord.homeTags } } ∧
          t.readHome c.dpa 3104 = bytesOf 4 c.key.frame ++ bytesOf 2 c.key.tx ++ bytesOf 2 c.key.ty ++ bytesOf 8 c.missing ++
            bytesOf 8 c.closedAt.toNat ++ bytesOf 8 0 ++ c.data ∧ SameMemory s t c.dpa 3104)) ∧
    (here → c.dkind ≠ 0 → ∀ va root w h rgba8, (s.head c.dhead).image = some (va, root, w, h, rgba8) →
      w ≤ 16 * c.key.tx ∨ h ≤ 16 * c.key.ty →
      exec (.tileDelivery i) s = .next (rest.setHead c.dhead { s.head c.dhead with drop := true }))) ∧
  ∀ (s : State) i (c : ClosedTile) (l : List PixelWrite), s.fabric.shut[i]? = some c → c.pixels = some l → l ≠ [] →
    ∃ (j : Nat) (w : PixelWrite) (u : State), l[j]? = some w ∧ u = { s with free := u.free } ∧
      match u.plainPage w.root w.va .write with
      | (.error _, v) => exec (.tileDelivery i) s = .next { v with fabric := { s.fabric with shut := s.fabric.shut.eraseIdx i } }
      | (.ok q, v) =>
        (2 ≤ l.length → ∃ t, exec (.tileDelivery i) s = .next t ∧
          t = { v with fabric := { s.fabric with shut := s.fabric.shut.set i { c with pixels := some (l.eraseIdx j) } }
                       mem := t.mem, errors := t.errors, ord := { v.ord with homeTags := t.ord.homeTags } } ∧
          (q.comp = none → t.readHome q.key w.data.length = w.data ∧ SameMemory v t q.key w.data.length)) ∧
        (l.length = 1 → c.sig = none → ∃ t, exec (.tileDelivery i) s = .next t ∧ t.fabric.shut = s.fabric.shut.eraseIdx i ∧
          (q.comp = none → t.readHome q.key w.data.length = w.data ∧ SameMemory v t q.key w.data.length) ∧
          t.head c.dhead = { s.head c.dhead with missing := BitVec.ofNat 64 c.missing, lframe := BitVec.ofNat 32 c.key.frame } ∧
          ∀ h, h ≠ c.dhead → t.head h = s.head h)

/-! ### Traversal (16) -/

/-- The words of the traversal unit (R307, R317, R320-R322): a ray or handle that is not valid is illegal at the lowest
such lane; otherwise every lane but a helper has an operation in the unit, with the registers it captured and its
destination pending, and a helper gets HELPER.
Where the model had to choose a reading, that is its own: log 18. -/
def Obligations.TraversalWords : Prop :=
  (∀ (i : Instr) (park res : Bool) (d a b : Reg), (i = .trace { park := park, d := d, a := a } ∧ res = false ∧ b = a ∨
      i = .tres { park := park, d := d, a := a, b := b } ∧ res = true) →
    ∀ (s : State) g (x : Machine.Group) (blk : Block), Issues s g x → s.blockOf x = some blk → x.wsize ≤ 128 →
      let d := d.toNat
      let a := a.toNat
      let regs := fun (l : Nat) => x.regList l a 12
      let ok := fun (l : Nat) => (rayRec (regs l)).2 = true ∧ ∃ k, blk.checkAt .scr 64 64 (rayRec (regs l)).1.addr = .ok k
      (d % 4 ≠ 0 ∨ a % 4 ≠ 0 → Raises i s g { cause := .illegal, ops := [s.word] }) ∧
      (d % 4 = 0 → a % 4 = 0 →
        LaneReady x (b.toNat :: (List.range 12).map (a + ·) ++ (List.range 16).map (d + ·)) →
        (∀ l, x.active.getLsbD l = true → (∀ k, k < l → x.active.getLsbD k = true → ok k) →
          ((rayRec (regs l)).2 = false → Raises i s g { cause := .illegal, lane := some l, ops := [s.word] }) ∧
          (∀ c, (rayRec (regs l)).2 = true → blk.checkAt .scr 64 64 (rayRec (regs l)).1.addr = .error c →
            Raises i s g { cause := c, lane := some l, ops := [s.word, (rayRec (regs l)).1.addr] })) ∧
        let go := (lanesOf x.active).filter fun l => !x.isHelper l
        ((∀ l, x.active.getLsbD l = true → ok l) → s.raysOf x.core + go.length ≤ 256 →
          ∃ (s' : State) (y : Machine.Group), Completes i 4 park s g x s' ∧ OnlyGroup s s' g y ∧
            s' = { s with groups := s'.groups, rays := s'.rays, nextId := s.nextId + go.length
                          ord := { s.ord with seq := s.ord.seq + 1 } } ∧
            y = { x with regs := y.regs, pend := y.pend } ∧
            x.Writes y (fun l r => x.active.getLsbD l && x.isHelper l && decide (d ≤ r) && decide (r < d + 16))
              (fun _ r => if r = d then stHELPER else 0) ∧
            (∀ l r, r < 128 → y.isPending l r = (x.isPending l r ||
              (x.active.getLsbD l && !x.isHelper l && decide (d ≤ r) && decide (r < d + 16)))) ∧
            (∀ id, id < s.nextId → Tab.get s'.rays id = Tab.get s.rays id) ∧
            ∀ k l, go[k]? = some l → ∃ r, Tab.get s'.rays (s.nextId + k) = some r ∧ r.org = s.origin g x ∧ r.lane = l ∧
              r.op = .ray ∧ r.dest = d ∧ r.regs = regs l ∧ r.root = s.rootOf x ∧ r.phase = .queued ∧
              r.mode = (if res then .tres (x.reg l b.toNat) else .fresh) ∧
              blk.checkAt .scr 64 64 (rayRec (regs l)).1.addr = .ok r.record))) ∧
  ∀ (upd : Bool) (o : Regs3) (s : State) g (x : Machine.Group), Issues s g x → x.wsize ≤ 128 →
    let i := if upd then Instr.gupd o else .gframe o
    let n := if upd then 7 else 3
    let k := if upd then 1 else 8
    let h := fun (l j : Nat) => x.reg l (o.a.toNat + j)
    let ok := fun (l : Nat) => wbits (h l 2) 31 13 = 0 ∧ 1 ≤ wbits (h l 2) 12 8 ∧ wbits (h l 2) 12 8 ≤ 24 ∧
      ((h l 0).toNat + (h l 1).toNat * 2 ^ 32 + wbits (h l 2) 7 0 * 2 ^ 64) / 8 ^ wbits (h l 2) 12 8 = 0 ∧
      (upd = true → wbits (h l 3) 31 4 = 0) ∧ wbits (x.reg l o.b.toNat) 5 0 = 0
    (upd = true ∨ o.d.toNat % 4 = 0) →
    LaneReady x ((List.range n).map (o.a.toNat + ·) ++ [o.b.toNat, o.b.toNat + 1] ++ (List.range k).map (o.d.toNat + ·)) →
    (∀ l, x.active.getLsbD l = true → (∀ j, j < l → x.active.getLsbD j = true → ok j) → ¬ok l →
      Raises i s g { cause := .illegal, lane := some l, ops := [s.word] }) ∧
    ((∀ l, x.active.getLsbD l = true → ok l) →
      let go := (lanesOf x.active).filter fun l => !(upd && x.isHelper l)
      ∃ (s' : State) (y : Machine.Group), Completes i 4 o.park s g x s' ∧ OnlyGroup s s' g y ∧
        s' = { s with groups := s'.groups, rays := s'.rays, nextId := s.nextId + 1 + go.length
                      ord := { s.ord with seq := s.ord.seq + 1 }
                      results := s.results ++ ((lanesOf x.active).filter fun l => upd && x.isHelper l).map fun l =>
                        { group := g, lane := some l, reg := o.d.toNat, vals := [stHELPER], spec := false } } ∧
        y = { x with pend := y.pend } ∧
        (∀ l r, r < 128 → y.isPending l r =
          (x.isPending l r || (x.active.getLsbD l && decide (o.d.toNat ≤ r) && decide (r < o.d.toNat + k)))) ∧
        (∀ id, id ≤ s.nextId → Tab.get s'.rays id = Tab.get s.rays id) ∧
        ∀ j l, go[j]? = some l → ∃ r, Tab.get s'.rays (s.nextId + 1 + j) = some r ∧ r.org = s.origin g x ∧ r.lane = l ∧
          r.op = (if upd then .gupd else .gframe) ∧ r.dest = o.d.toNat ∧ r.root = s.rootOf x ∧ r.phase = .queued ∧
          r.unit = s.nextId ∧ r.regs = x.regList l o.a.toNat n ++ x.regList l o.b.toNat 2)

/-- The traversal unit at work (R314, R315, R317, R320-R322): a stale state record is REFUSED; a walk that ends leaves a
finished state record and returns HIT with the best hit or MISS; `gframe` returns the frame of its leaf; `gupd` writes
the nine half bytes of its vertex or says why not; the base dies change nothing.
Where the model had to choose a reading, that is its own: logs 16 and 18. -/
def Obligations.TraversalEvents : Prop :=
  (∀ (s : State) k, exec (.baseDieBoxTest k) s = .next s) ∧
  (∀ (s : State) id (r : Ray), Tab.get s.rays id = some r → (r.phase ≠ .queued ∨ s.isSaved r.org.group = true) →
    exec (.traceComplete id) s = .next s) ∧
  (∀ (s : State) id (r : Ray), Tab.sorted s.rays = true → Tab.get s.rays id = some r → r.phase = .queued →
    s.isSaved r.org.group = false → s.ord.wb = [] → s.ord.writes = [] → s.sliceOps = [] → s.portUnits = [] →
    (∀ e ∈ s.rays, e.1 ≠ id → e.2.updates = false) →
    let ends := fun (t : State) (vals : List Word) => exec (.traceComplete id) s = .next t ∧ Tab.get t.rays id = none ∧
      t.held = s.held ∧ t.results = s.results ++
        [{ group := r.org.group, lane := some r.lane, reg := r.dest, vals := vals, spec := false }]
    (r.op = .ray →
      let q := (rayRec r.regs).1
      let t0 := trailOf (ofBytes (s.readHome r.record 64))
      (∀ v, r.mode = .tres v → s.errors = [] → (t0.kind ≠ 2 ∨ t0.check ≠ q.check) →
        ∃ t, ends t (4 :: List.replicate 15 0) ∧ t.mem = s.mem) ∧
      (∀ j, r.mode = .fresh → j = Config.freeChoice s.free % 256 → ∀ w,
        (walkRay r.root q none { s := { s with free := s.free + 1 }, t := freshTrail q, offer := none
                                 left := if j = 0 then none else some j } = .ended w ∨
          walkRay r.root q none { s := { s with free := s.free + 1 }, t := freshTrail q, offer := none
                                  left := if j = 0 then none else some j } = .next w) →
        ∃ t, ends t (if w.t.hit then [11, w.t.tbest, w.t.bprim, w.t.bu, w.t.bv] ++ pathWords w.t.bpath w.t.bdepth ++
            List.replicate 8 0 else 10 :: List.replicate 15 0) ∧
          (trailOf (ofBytes (t.readHome r.record 64))).kind = 3 ∧ SameMemory s t r.record 64)) ∧
    (r.op = .gframe → ∀ leaf page va p s1, walkHandle r.root r.regs s = .leaf leaf page va p s1 →
      let sh := fun (i : Nat) => nth p.sh i 0
      ∃ t, ends t ([if p.org.all (fun v => v % 2 ^ 176 == 0) then 0 else 7] ++
        p.org.map (fun v => BitVec.ofNat 32 (v / 2 ^ 176)) ++
        [BitVec.ofNat 32 (sh 0 + sh 1 * 2 ^ 8 + sh 2 * 2 ^ 16), BitVec.ofNat 32 va,
          BitVec.ofNat 32 (va / 2 ^ 32 % 2 ^ 20), BitVec.ofNat 32 (wbits (nth r.regs 2 0) 12 8)]) ∧ t.mem = s.mem) ∧
    (r.op = .gupd → ∀ leaf page va p s1, walkHandle r.root r.regs s = .leaf leaf page va p s1 → page.w = true →
      let v := wbits (nth r.regs 3 0) 3 0
      let at_ := fun (i : Nat) =>
        (((nth r.regs (4 + i) 0).toNat : Int) * 2 ^ 176 - ((nth p.org i (0 : Nat) : Nat) : Int)) * 2 ^ nth p.sh i 0
      let inside := ∀ i, i < 3 → 0 ≤ at_ i ∧ at_ i < 65536 * 2 ^ 192
      (leaf.proc = true ∨ leaf.nv ≤ v → ∃ t, ends t [4] ∧ t.mem = s.mem) ∧
      (leaf.proc = false → v < leaf.nv → ¬inside → ∃ t, ends t [6] ∧ t.mem = s.mem) ∧
      (leaf.proc = false → v < leaf.nv → inside → (∃ i, i < 3 ∧ at_ i % (16 * 2 ^ 192) ≠ 0) → ∃ t, ends t [7] ∧ t.mem = s.mem) ∧
      (leaf.proc = false → v < leaf.nv → inside → (∀ i, i < 3 → at_ i % (16 * 2 ^ 192) = 0) → page.cmp = 0 →
        (∃ s2, walkHandle r.root r.regs s1 = .leaf leaf page va p s2) → ∃ t, ends t [0] ∧
          let half := fun (m : State) (h : Nat) =>
            let b := (Memory.read m.mem (page.key + h / 2)).toNat
            if h % 2 = 0 then b % 16 else b / 16
          ∀ h, half t h = if 16 + 9 * v ≤ h ∧ h < 16 + 9 * v + 9 then
              ((at_ 0 / (16 * 2 ^ 192)).toNat + (at_ 1 / (16 * 2 ^ 192)).toNat * 2 ^ 12 +
                (at_ 2 / (16 * 2 ^ 192)).toNat * 2 ^ 24) / 2 ^ (4 * (h - (16 + 9 * v))) % 16
            else half s h))) ∧
  ∀ (t : Trail) (tmin tr prim u v : Word) path depth,
    let r := t.offerHit tmin tr prim u v path depth
    (r.2 = false → r.1 = t) ∧
    (r.2 = true → wordLe tmin tr = true ∧ wordLe tr t.tbest = true ∧ r.1.hit = true ∧ r.1.tbest = tr ∧ r.1.bprim = prim ∧
      (t.hit = true → wordLt tr t.tbest = true ∨ prim.toNat < t.bprim.toNat))

/-! ### Images (18) -/

/-- The words of images (R348-R351): a record that is not valid is illegal; a sample is, channel by channel, the sum of
its taps in order, each rounded once; the weights of its taps add up to one; `ldimg` and `stimg` move one texel a lane,
with zeros outside the image and nothing stored there or by helpers.
Where the model had to choose a reading, that is its own: logs 14 and 15. -/
def Obligations.ImageWords : Prop :=
  (∀ (form : SmpForm) (mk : Regs3 → Instr), (form, mk) ∈ ([(.quad, .smp), (.deriv, .smpd), (.level, .smpl)] :
      List (SmpForm × (Regs3 → Instr))) →
    ∀ (o : Regs3) (s : State) g (x : Machine.Group) (page : Nat → Page), Issues s g x → x.wsize ≤ 128 →
      let d := o.d.toNat
      let a := o.a.toNat
      let img := imgRec ((List.range 4).map fun j => x.uni (o.b.toNat + j))
      let smp := smpRec ((List.range 4).map fun j => x.uni (o.b.toNat + 4 + j))
      let taps := fun (l : Nat) => tapsOf img.1 smp.1 (x.reg l a) (x.reg l (a + 1)) (lodFor s x form img.1 smp.1 a l)
      (o.b.toNat % 4 ≠ 0 → Raises (mk o) s g { cause := .illegal, ops := [s.word] }) ∧
      (o.b.toNat % 4 = 0 → LaneReady x ((List.range form.count).map (a + ·) ++ (List.range 4).map (d + ·)) →
        UniReads x ((List.range 8).map (o.b.toNat + ·)) →
        (img.2 = false ∨ smp.2 = false → Raises (mk o) s g { cause := .illegal, ops := [s.word] }) ∧
        (img.2 = true → smp.2 = true → smp.1.minLod ≤ min smp.1.maxLod (256 * img.1.lvl) →
          (∀ l, x.active.getLsbD l = true → ∀ t ∈ taps l, ∀ va, t.va = some va →
            s.FindsWith (fun _ => False) (s.rootOf x) va .read (page va) ∧ (page va).fmt = 0 ∧ (page va).cmp = 0) →
          s.errors = [] → (∀ q ∈ s.sliceOps, q.org.group ≠ g) → (∀ r ∈ s.rays, r.2.updates = true → r.2.org.group ≠ g) →
          ∃ (s' : State) (y : Machine.Group), Completes (mk o) 4 o.park s g x s' ∧ OnlyGroup s s' g y ∧
            s' = { s with groups := s'.groups, results := s'.results, cached := s'.cached, compPages := s'.compPages
                          free := s'.free } ∧
            y = { x with pend := y.pend, tags := y.tags } ∧
            (∀ l r, r < 128 → y.isPending l r =
              (x.isPending l r || (x.active.getLsbD l && decide (d ≤ r) && decide (r < d + 4)))) ∧
            s'.results = s.results ++ (lanesOf x.active).map fun l =>
              { group := g, lane := some l, reg := d, spec := false
                vals := (List.range 4).map fun c => BitVec.ofNat 32 ((taps l).foldl (fun v t => accumulate v
                  (match t.va with
                    | none => .fin false 0 0
                    | some va => nth (img.1.channels (ofBytes
                        (s.loadBytes x.core (some g) none ((page va).at va).key img.1.bpp).1)) c (.fin false 0 0)) t.omega) 0) }))) ∧
  (∀ img (r : SmpRec) (u v : Word) lod, ((tapsOf img r u v lod).map Tap.omega).foldl (· + ·) 0 = 2 ^ 24) ∧
  (∀ (img : ImgRec) i j, img.texelVa 0 i j = (img.base + j * img.pitch 0 + i * img.bpp) % 2 ^ 52) ∧
  (∀ (s : State) x form img (r : SmpRec) a l, r.minLod ≤ min r.maxLod (256 * img.lvl) →
    r.minLod ≤ lodFor s x form img r a l ∧ lodFor s x form img r a l ≤ min r.maxLod (256 * img.lvl)) ∧
  ∀ (o : MemOp) (s : State) g (x : Machine.Group) (page : Nat → Page), Issues s g x → x.wsize ≤ 128 →
    let n := sizeRegs o.size
    let d := o.d.toNat
    let a := o.a.toNat
    let img := imgRec ((List.range 4).map fun j => x.uni (o.b.toNat + j))
    let texel := fun (l : Nat) =>
      let i := wbits (x.reg l a) 15 0
      let j := wbits (x.reg l a) 31 16
      let lv := (x.reg l (a + 1)).toNat
      if lv < 16 ∧ lv ≤ img.1.lvl ∧ i < img.1.width lv ∧ j < img.1.height lv then some (img.1.texelVa lv i j) else none
    LaneReady x (a :: (a + 1) :: (List.range n).map (d + ·)) → UniReads x ((List.range 4).map (o.b.toNat + ·)) →
    (img.2 = false → ∀ i ∈ [Instr.ldimg o, .stimg o], Raises i s g { cause := .illegal, ops := [s.word] }) ∧
    (img.2 = true → 4 * n ≠ img.1.bpp → ∀ i ∈ [Instr.ldimg o, .stimg o], Raises i s g { cause := .format, ops := [s.word] }) ∧
    (img.2 = true → 4 * n = img.1.bpp →
      ((∀ l va, x.active.getLsbD l = true → texel l = some va →
          s.FindsWith (fun _ => False) (s.rootOf x) va .read (page va) ∧ (page va).fmt = 0 ∧ (page va).cmp = 0) →
        s.errors = [] → (∀ q ∈ s.sliceOps, q.org.group ≠ g) → (∀ r ∈ s.rays, r.2.updates = true → r.2.org.group ≠ g) →
        ∃ (s' : State) (y : Machine.Group), Completes (.ldimg o) 4 o.park s g x s' ∧ OnlyGroup s s' g y ∧
          s' = { s with groups := s'.groups, results := s'.results, cached := s'.cached, compPages := s'.compPages
                        free := s'.free } ∧
          y = { x with pend := y.pend, tags := y.tags } ∧
          (∀ l r, r < 128 → y.isPending l r =
            (x.isPending l r || (x.active.getLsbD l && decide (d ≤ r) && decide (r < d + n)))) ∧
          s'.results = s.results ++ (lanesOf x.active).map fun l =>
            { group := g, lane := some l, reg := d, spec := false
              vals := match texel l with
                | none => List.replicate n 0
                | some va => wordsOfBytes (s.loadBytes x.core (some g) none ((page va).at va).key (4 * n)).1 }) ∧
      ((∀ l va, x.active.getLsbD l = true → x.isHelper l = false → texel l = some va →
          s.FindsWith (fun _ => False) (s.rootOf x) va .write (page va) ∧ (page va).fmt = 0 ∧ (page va).cmp = 0) →
        let here := fun (l k : Nat) => x.active.getLsbD l && !x.isHelper l && match texel l with
          | none => false
          | some va => decide (((page va).at va).key ≤ k) && decide (k < ((page va).at va).key + 4 * n)
        ∃ s' : State, Completes (.stimg o) 4 o.park s g x s' ∧
          s' = { s with ord := s'.ord, cached := s'.cached, compPages := s'.compPages, free := s'.free } ∧
          s'.ord = { s.ord with wb := s'.ord.wb, seq := s'.ord.seq } ∧ s.ord.wb <+: s'.ord.wb ∧
          (∀ l va, x.active.getLsbD l = true → x.isHelper l = false → texel l = some va →
            (∀ j k, j ≠ l → ¬(here j k = true ∧ here l k = true)) → ∀ c,
            (s'.loadBytes x.core (some g) c ((page va).at va).key (4 * n)).1 = bytesOfWords (x.regList l d n)) ∧
          ∀ core group c k, (core ≠ x.core ∨ group ≠ some g ∨ ∀ l, here l k = false) →
            s'.loadByte core group c k = s.loadByte core group c k))

/-! ### The raster pipeline (18) -/

/-- The words of the raster pipeline (R332-R334, R345): an emit of a group that belongs to another launch or pass, whose
batch number is too large, or with an invalid record is illegal; otherwise the lanes that are not helpers write their
vertex or primitive slots in lane order, or count as dropped, and the first emit opens the pass; `export` keeps the last
colour and mask of every pixel fibre that is not a helper.
A pass is named by its root and its record's address: that is the model's reading, log 17. -/
def Obligations.RasterWords : Prop :=
  (∀ (vertex : Bool) (o : Regs3) (s : State) g (x : Machine.Group), Issues s g x →
    let i := if vertex then Instr.emitv o else .emitp o
    let d := o.d.toNat
    let a := o.a.toNat
    let hi := x.uni (o.b.toNat + 1)
    let va := (x.uni o.b.toNat).toNat + wbits hi 19 0 * 2 ^ 32
    let takes := (lanesOf x.active).filter fun l => !x.isHelper l
    let bad := fun (l : Nat) => if vertex then wbits (x.reg l (d + 4)) 31 16 ≠ 0 else wbits (x.reg l d) 31 24 ≠ 0
    let beta := s.batchNumber x
    let root := s.rootOf x
    LaneReady x (a :: (List.range (if vertex then 8 else 1)).map (d + ·)) → UniReads x [o.b.toNat, o.b.toNat + 1] →
    (∀ l, l ∈ takes → bad l → (∀ k ∈ takes, k < l → ¬bad k) →
      Raises i s g { cause := .illegal, lane := some l, ops := [s.word] }) ∧
    ((∀ l ∈ takes, ¬bad l) → wbits hi 31 20 ≠ 0 → Raises i s g { cause := .illegal, ops := [s.word] }) ∧
    ((∀ l ∈ takes, ¬bad l) → wbits hi 31 20 = 0 →
      let emits := fun (s' : State) id (p : Pass) =>
        let r := (passRec p.record).1
        let index := fun (l : Nat) => (x.reg l a).toNat
        let n := if vertex then r.nv else r.np
        let last := fun (k : Nat) => (takes.filter fun l => index l == k).getLast?
        let old := (Tab.get p.batches beta).getD { core := x.core, vtx := [], prim := [] }
        let dropped := (takes.filter fun l => decide (n ≤ index l) && (vertex || index l != 2 ^ 32 - 1)).length
        let c := if vertex then 0 else 1
        ∃ p' b, Completes i 4 o.park s g x s' ∧ Tab.get s'.passes id = some p' ∧
          p' = { p with batches := p'.batches, counts := p'.counts } ∧ Tab.get p'.batches beta = some b ∧
          (∀ k, k ≠ beta → Tab.get p'.batches k = Tab.get p.batches k) ∧ b = { old with vtx := b.vtx, prim := b.prim } ∧
          (∀ k, k < n → vertex = true → b.prim = old.prim ∧ Tab.get b.vtx k = match last k with
            | some l => some (x.regList l d 8)
            | none => Tab.get old.vtx k) ∧
          (∀ k, k < n → vertex = false → b.vtx = old.vtx ∧ Tab.get b.prim k = match last k with
            | some l => some (wbits (x.reg l d) 23 0)
            | none => Tab.get old.prim k) ∧
          (p.counts.length = 5 → (∀ k, k < 5 → nth p.counts k 0 < 2 ^ 32) → ∀ k, k < 5 →
            nth p'.counts k 0 = if k = c then (nth p.counts k 0 + dropped) % 2 ^ 32 else nth p.counts k 0)
      (∀ id p, s.passAt root va = some (id, p) →
        let other := ∃ q, x.rasterPass = some q ∧ q ≠ id
        (p.launch ≠ s.launchOf x ∨ other ∨ (passRec p.record).1.nbatch ≤ beta →
          Raises i s g { cause := .illegal, ops := [s.word] }) ∧
        (p.launch = s.launchOf x → ¬other → beta < (passRec p.record).1.nbatch →
          ∃ s', emits s' id p ∧ s' = { s with groups := s'.groups, passes := s'.passes } ∧
            (∀ k, k ≠ id → Tab.get s'.passes k = Tab.get s.passes k) ∧
            OnlyGroup s s' g { x with rasterPass := some id, rasterBatch := beta })) ∧
      (s.passAt root va = none →
        (va % 256 ≠ 0 → Raises i s g { cause := .illegal, ops := [s.word] }) ∧
        ∀ page, va % 256 = 0 → s.passes.length < 64 → s.Finds root va .read page → page.fmt = 0 → page.cmp = 0 →
          s.errors = [] → (∀ q ∈ s.sliceOps, q.org.group ≠ g) → (∀ r ∈ s.rays, r.2.updates = true → r.2.org.group ≠ g) →
          let ws := wordsOfBytes (s.loadBytes x.core (some g) none page.key 256).1
          ((passRec ws).2 = false ∨ nth ws 32 0 ≠ 0 ∨ nth ws 33 0 ≠ 0 → ∃ s1 : State,
            s1 = { s with cached := s1.cached, compPages := s1.compPages, free := s1.free } ∧
            exec i s = .next ((s1.modGroup g fun y => y.countIssues 1).raise g { cause := .illegal, ops := [s.word] })) ∧
          ((passRec ws).2 = true → nth ws 32 0 = 0 → nth ws 33 0 = 0 → x.rasterPass = none → beta < (passRec ws).1.nbatch →
            ∃ s', emits s' s.nextId (newPass va root (s.launchOf x) ws) ∧
              s' = { s with groups := s'.groups, passes := s'.passes, nextId := s.nextId + 1, cached := s'.cached
                            compPages := s'.compPages, free := s'.free } ∧
              (∀ k, k ≠ s.nextId → Tab.get s'.passes k = Tab.get s.passes k) ∧
              ∃ y, OnlyGroup s s' g y ∧ y = { x with rasterPass := some s.nextId, rasterBatch := beta, tags := y.tags })))) ∧
  ∀ (o : Regs2) (s : State) g (x : Machine.Group), Issues s g x →
    LaneReady x (o.a.toNat :: (List.range 4).map (o.d.toNat + ·)) →
    let mine := fun (l : Nat) => ∃ q ∈ x.pixels, q.index = x.width * x.num + l
    (∀ l, x.active.getLsbD l = true → ¬mine l → (∀ k, k < l → x.active.getLsbD k = true → mine k) →
      Raises (.exportPixel o) s g { cause := .illegal, lane := some l, ops := [s.word] }) ∧
    let shows := fun (q : PixelFibre) =>
      let l := q.index - x.width * x.num
      if x.active.getLsbD l = true ∧ q.helper = false then
        { q with shown := some (BitVec.ofNat 32 (wbits (x.reg l o.a.toNat) 7 0) &&& q.mask, x.regList l o.d.toNat 4) }
      else q
    ((∀ l, x.active.getLsbD l = true → mine l) →
      ∃ s', Completes (.exportPixel o) 4 o.park s g x s' ∧ s' = { s with groups := s'.groups } ∧
        OnlyGroup s s' g { x with pixels := x.pixels.map shows })

/-- The raster units at work (R341-R347, R399): a record of the software path enters its queue where there is room, and
after the last batch the queue is flushed; a tile of a complete pass is read, its visibility words are zeroed and its pixel blocks launched where some sample is
covered; a finished tile's bytes are written; the pass ends with its counters and DONE in its record.
Where the model had to choose a reading, that is its own: log 17. -/
def Obligations.RasterEvents : Prop :=
  (∀ (s : State) id (p : Pass) q bytes rest, Tab.get s.passes id = some p → p.soft = bytes :: rest →
    let r := (passRec p.record).1
    (s.softQueue p = false → p.status = 0 → ∃ t p', exec (.swPathEnqueue id) s = .next t ∧
      t = { s with passes := t.passes } ∧ Tab.get t.passes id = some p' ∧ p'.status = 4 ∧ p'.reason = 2 ∧ p'.soft = []) ∧
    (s.softQueue p = true → Tab.get s.queues r.swq = some q → q.full = true → exec (.swPathEnqueue id) s = .next s) ∧
    (∀ page, s.softQueue p = true → Tab.get s.queues r.swq = some q → q.full = false → q.armed = none →
      (q.tail + 1 - q.head).toNat < q.batch → s.Finds q.root (q.recordVa q.tail) .write page → page.cmp = 0 →
      ∃ t, exec (.swPathEnqueue id) s = .next t ∧ t.readHome page.key bytes.length = bytes ∧
        SameMemory s t page.key bytes.length ∧ Tab.get t.queues r.swq = some { q with tail := q.tail + 1 } ∧
        Tab.get t.passes id = some { p with soft := rest } ∧ t.launches = s.launches)) ∧
  (∀ (s : State) id (p : Pass) q, Tab.get s.passes id = some p → p.soft = [] → s.softQueue p = true →
    Tab.get s.queues (passRec p.record).1.swq = some q →
    (p.flushed = true ∨ p.closed ≠ (passRec p.record).1.nbatch → exec (.swPathEnqueue id) s = .next s) ∧
    (p.flushed = false → p.closed = (passRec p.record).1.nbatch → q.head = q.tail →
      exec (.swPathEnqueue id) s = .next { s with passes := Tab.put s.passes id { p with flushed := true } })) ∧
  (∀ (s : State) id tile (p : Pass), Tab.get s.passes id = some p →
    let r := (passRec p.record).1
    let n := 256 * r.samples
    (s.passReady id p = false ∨ r.tiles ≤ tile ∨ (Tab.get p.tiles tile).isSome = true → exec (.tileResolve id tile) s = .next s) ∧
    ∀ pr vis tgt s1 s2 vb tb, s.passReady id p = true → tile < r.tiles → Tab.get p.tiles tile = none → p.pix = some pr →
      findPieces p.root .write (pieces (r.vis + 8 * n * tile) (8 * n)) { s with passes := Tab.put s.passes id p } = (.ok vis, s1) →
      findPieces p.root .read (pieces (r.tgt + r.bpp * n * tile) (r.bpp * n)) s1 = (.ok tgt, s2) →
      s2.readPieces vis = some vb → s2.readPieces tgt = some tb →
      (∀ q ∈ vis, q.1.cmp = 0) →
      let words := (List.range n).map fun j => ofBytes ((vb.drop (8 * j)).take 8)
      ∃ t p' k, exec (.tileResolve id tile) s = .next t ∧ Tab.get t.passes id = some p' ∧
        p' = { p with tiles := Tab.put p.tiles tile k } ∧ k.bytes = tb ∧ k.finished = false ∧
        (k.launch.isSome = words.any (· != 0)) ∧ (∀ q ∈ vis, ∀ j, j < q.2 → Memory.read t.mem (q.1.key + j) = 0) ∧
        (∀ l, k.launch = some l → ∃ la, Tab.get t.launches l = some la ∧ la.pass = some (id, tile) ∧ la.record = pr)) ∧
  (∀ (s : State) id tile (p : Pass) (k : PassTile), Tab.get s.passes id = some p → Tab.get p.tiles tile = some k →
    let r := (passRec p.record).1
    (k.finished = true ∨ s.tileEnded k = false ∨ p.stop.isSome = true → exec (.tileFinish id tile) s = .next s) ∧
    ∀ q s1, k.finished = false → s.tileEnded k = true → p.stop = none → p.status = 0 → r.siga = 0 →
      findPieces p.root .write (pieces (r.tgt + r.tileBytes r.bpp * tile) (r.tileBytes r.bpp)) s =
        (.ok [(q, r.tileBytes r.bpp)], s1) → q.cmp = 0 → k.bytes.length = r.tileBytes r.bpp →
      ∃ t p', exec (.tileFinish id tile) s = .next t ∧ t.readHome q.key k.bytes.length = k.bytes ∧
        SameMemory s t q.key k.bytes.length ∧ Tab.get t.passes id = some p' ∧
        p' = { p with tiles := Tab.put p.tiles tile { k with finished := true, bytes := [] } }) ∧
  ∀ (s : State) id (p : Pass), Tab.get s.passes id = some p →
    let r := (passRec p.record).1
    let ready := p.stop = none ∧ p.closed = r.nbatch ∧ (∀ t ∈ p.tiles, t.2.finished = true) ∧
      (p.status = 0 → p.tiles.length = r.tiles) ∧ (∀ o ∈ s.sliceOps, o.pass ≠ some id) ∧
      ∀ l ∈ s.launches, l.2.pass.map Prod.fst ≠ some id
    (¬ready → exec (.passDone id) s = .next s) ∧
    ∀ page, ready → s.Finds p.root p.va .write page → page.fmt = 0 → page.cmp = 0 → p.va < 2 ^ 52 → p.counts.length = 5 →
      s.Quiet → ∃ t, exec (.passDone id) s = .next t ∧ Tab.get t.passes id = none ∧
        t.words (page.key + 136) 5 = p.counts.map (BitVec.ofNat 32) ∧
        t.readHome (page.key + 128) 8 = bytesOf 8 (2 ^ 31 + p.status + p.reason * 2 ^ 8 + p.sub * 2 ^ 16) ∧
        SameMemory s t (page.key + 128) 28

/-! ### Command rings and launches (11) -/

/-- The command rings (R258): a doorbell moves WPTR, and clearing ERR skips the command that stopped the ring; a ring
that is not served, or whose command must wait, does nothing; a bad command stops it; NOP, SIGNAL, INVAL, QCFG and QFLUSH
complete with their effects; after a thermal trip a doorbell and a clear of ERR change nothing (22 R389).
Where the model had to choose a reading, that is its own: logs 31 and 36. That SIGNAL beyond device memory leaves memory as
it was is log 32. -/
def Obligations.RingCommands : Prop :=
  (∀ (s : State) ring (v : Word), s.power.trip = true →
    exec (.ringDoorbell ring v) s = .next s ∧ exec (.ringErrClear ring) s = .next s) ∧
  (∀ (s : State) ring (v : Word), ring < 64 → s.power.trip = false →
    (∃ t, exec (.ringDoorbell ring v) s = .next t ∧ t = { s with rings := t.rings } ∧
      OnlyRing s t ring { s.ringAt ring with wptr := v }) ∧
    ∃ t, exec (.ringErrClear ring) s = .next t ∧ t = { s with rings := t.rings } ∧
      OnlyRing s t ring (if (s.ringAt ring).err then { s.ringAt ring with err := false, rptr := (s.ringAt ring).rptr + 1 }
        else s.ringAt ring)) ∧
  (∀ (s : State) ring op (ev : Instr), (op, ev) ∈ ([(1, .launch ring), (2, .qcfg ring), (3, .qflush ring), (4, .inval ring),
      (6, .signal ring), (7, .nopCommand ring), (8, .move ring)] : List (Nat × Instr)) →
    let r := s.ringAt ring
    (s.status.fe = false ∨ s.power.trip = true ∨ r.en = false ∨ r.err = true ∨ r.rptr = r.wptr → exec ev s = .next s) ∧
    ∀ bs, ring < 64 → s.ringServed r = true → s.commandBytes r = some bs → field (ofBytes bs) 7 0 = op →
      (s.ringWaits ring r (ofBytes bs) = true → exec ev s = .next s) ∧
      (s.ringWaits ring r (ofBytes bs) = false → commandBad (ofBytes bs) = true → ∃ t, exec ev s = .next t ∧
        t = { s with rings := t.rings } ∧ OnlyRing s t ring { r with err := true })) ∧
  (∀ v k, field v 7 0 = 7 → 9 ≤ k → v.testBit k = true → commandBad v = true) ∧
  (∀ (s : State) ring v, s.Commands ring 7 v → ∃ t, exec (.nopCommand ring) s = .next t ∧ t = { s with rings := t.rings } ∧
    OnlyRing s t ring (s.ringAt ring).passed) ∧
  (∀ (s : State) ring v, s.Commands ring 6 v →
    let host := (cmdWord v 1).testBit 63
    let pa := field (cmdWord v 1) 55 0
    ∃ t, exec (.signal ring) s = .next t ∧ OnlyRing s t ring (s.ringAt ring).passed ∧
      (host = false → 0x6000000000 < pa + 8 → t.mem = s.mem) ∧
      (host = true ∨ pa + 8 ≤ 0x6000000000 → s.compPages = [] → t.readHome (physKey host pa) 8 = bytesOf 8 (cmdWord v 2) ∧
        SameMemory s t (physKey host pa) 8)) ∧
  (∀ (s : State) ring v, s.Commands ring 4 v → s.passes = [] →
    let root := rootOperand (cmdWord v 1)
    let first := cmdWord v 2 % 2 ^ 52
    let len := cmdWord v 3
    ∃ t, exec (.inval ring) s = .next t ∧ OnlyRing s t ring (s.ringAt ring).passed ∧ t.mem = s.mem ∧
      t.cached = s.cached.map (fun c => if c.root = root then { c with gone := c.gone ++ [(first, len)] } else c) ∧
      ∀ c ∈ t.cached, ∀ a va, va / 2 ^ 16 * 2 ^ 16 < first + len → first < (va / 2 ^ 16 + 1) * 2 ^ 16 →
        c.serves root a va = false) ∧
  (∀ (s : State) ring v, s.Commands ring 2 v → cmdWord v 4 = 0 →
    let n := cmdWord v 1
    let lg := field (cmdWord v 5) 4 0
    let batch := field (cmdWord v 5) 27 16
    let ok := n < 512 ∧ (∀ q, Tab.get s.queues n = some q → q.tail = q.free) ∧ 4 ≤ lg ∧ lg ≤ 20 ∧ cmdWord v 2 % 64 = 0 ∧
      1 ≤ batch ∧ batch ≤ 2 ^ lg
    ∃ t, exec (.qcfg ring) s = .next t ∧ t = { s with rings := t.rings, queues := t.queues } ∧
      (¬ok → t.queues = s.queues ∧ OnlyRing s t ring { s.ringAt ring with err := true }) ∧
      (ok → OnlyRing s t ring (s.ringAt ring).passed ∧ (∀ k, k ≠ n → Tab.get t.queues k = Tab.get s.queues k) ∧
        Tab.get t.queues n = some
          { base := cmdWord v 2 % 2 ^ 52, root := cmdWord v 3 % 2 ^ 40 * 2 ^ 16, binding := 0, log2cap := lg, batch := batch, tail := 0
            head := 0, free := 0, armed := none, launched := 0, claims := [] })) ∧
  ∀ (s : State) ring v, s.Commands ring 3 v →
    let n := cmdWord v 1
    ((∀ q, Tab.get s.queues n = some q → q.binding = 0 ∨ q.tail = q.head) →
      ∃ t, exec (.qflush ring) s = .next t ∧ t = { s with rings := t.rings } ∧ OnlyRing s t ring (s.ringAt ring).passed) ∧
    ∀ q, Tab.get s.queues n = some q → q.binding ≠ 0 → q.head ≠ q.tail → (q.tail - q.head).toNat < q.batch →
      ∃ t l, exec (.qflush ring) s = .next t ∧ OnlyRing s t ring (s.ringAt ring).passed ∧
        Tab.get t.queues n = some { q with head := q.tail, launched := q.launched + if l.reason = 0 then 1 else 0
                                           claims := q.claims ++ [(q.head.toNat, (q.tail - q.head).toNat, false)] } ∧
        Tab.get t.launches s.nextId = some l ∧ l.source = 64 + n ∧
        l.queue = some (n, q.head.toNat, (q.tail - q.head).toNat)

/-- Launches, migrations and moves (R249, R250, R252, R259, 07 R166): an accepted LAUNCH leaves every block of its map
waiting, and a rejected one a launch with its reason; a MIGRATE sets MIG and ends the use of the page's cached entries, and
then copies the page, with every line as is where a compressed one goes to host memory, and writes its new leaf; a MOVE names
a block of a launch.
Where the model had to choose a reading, that is its own: log 32. The places of the operands of MIGRATE, and of the root
operand, are log 31's reading. -/
def Obligations.LaunchMigrateMove : Prop :=
  (∀ (s : State) ring v c s1, s.Commands ring 1 v → s.checkLaunch (cmdWord v 1) (field (cmdWord v 3) 15 0) false = (c, s1) →
    ∃ t l, exec (.launch ring) s = .next t ∧ Tab.get t.launches s.nextId = some l ∧ l.record = c.record ∧
      l.recPa = cmdWord v 1 ∧ l.comp = cmdWord v 2 ∧ l.rank = field (cmdWord v 3) 15 0 ∧ l.source = ring ∧ l.stamp = s.tsc ∧
      l.reason = c.reason ∧ l.place = c.place ∧ t.mem = s.mem ∧ t.groups = s.groups ∧
      (c.reason ≠ 0 → l.status = 4 ∧ l.left = 0 ∧ t.blocks = s.blocks ∧ OnlyRing s t ring (s.ringAt ring).fetched) ∧
      (c.reason = 0 → l.status = 0 ∧ l.left = c.map.length ∧ l.map = c.map ∧ OnlyRing s t ring (s.ringAt ring).passed ∧
        ∀ k e, c.map[k]? = some e → ∃ b, Tab.get t.blocks (l.first + k) = some b ∧ b.phase = .waiting ∧ b.num = k ∧
          b.entry = e ∧ b.launch = s.nextId)) ∧
  (∀ (s : State) ring v level a, s.Commands ring 5 v → (∀ m ∈ s.migrations, m.ring ≠ ring) → s.compPages = [] →
    let root := rootOperand (cmdWord v 1)
    let va := cmdWord v 2 % 2 ^ 52
    let n := levelSize level
    leafAt s va 4 0 root = some (level, a) →
    ∃ t m, exec (.migrate ring) s = .next t ∧ OnlyRing s t ring (s.ringAt ring).fetched ∧ t.migrations = s.migrations ++ [m] ∧
      m.ring = ring ∧ m.root = root ∧ m.va = va ∧ m.pa = field (cmdWord v 3) 55 16 * 2 ^ 16 ∧
      m.host = (cmdWord v 3).testBit 63 ∧ SameMemory s t a 8 ∧
      t.readHome a 8 = bytesOf 8 (ofBytes (s.readHome a 8) ||| 2 ^ 17) ∧
      t.cached = s.cached.map fun c => if c.root = root then { c with gone := c.gone ++ [(va - va % n, n)] } else c) ∧
  (∀ (s : State) ring v, s.Commands ring 5 v → (∀ m ∈ s.migrations, m.ring ≠ ring) →
    leafAt s (cmdWord v 2 % 2 ^ 52) 4 0 (rootOperand (cmdWord v 1)) = none →
    ∃ t, exec (.migrate ring) s = .next t ∧ t = { s with rings := t.rings } ∧ OnlyRing s t ring (s.ringAt ring).passed) ∧
  (∀ (s : State) ring (m : Migration) (r : Ring) level a, s.migrations.find? (fun m => m.ring == ring) = some m →
    Tab.get s.rings ring = some r → leafAt s m.va 4 0 m.root = some (level, a) → s.memOk = true → s.Quiet → s.compPages = [] → s.passes = [] →
    let e := ofBytes (s.readHome a 8)
    let n := levelSize level
    let src := physKey (e.testBit 16) (entryPa e)
    let cmp := field e 14 12
    let dst := physKey m.host m.pa
    m.pa < 2 ^ 56 → (m.host = false → m.pa + n ≤ 0x6000000000) → (src + n ≤ dst ∨ dst + n ≤ src) → (a + 8 ≤ dst ∨ dst + n ≤ a) →
    ∃ t, exec (.migrate ring) s = .next t ∧ t.migrations = s.migrations.erase m ∧
      OnlyRing s t ring { r with done := r.done + 1, late := r.late - 1 } ∧
      (let e' := ofBytes (t.readHome a 8)
       field e' 59 20 = m.pa / 2 ^ 16 ∧ e'.testBit 16 = m.host ∧ e'.testBit 17 = false ∧ e' / 2 ^ 60 = e / 2 ^ 60 ∧
       (m.host = false ∨ cmp = 0 → e' % 2 ^ 16 = e % 2 ^ 16 ∧
         ∀ i, i < n → Memory.read t.mem (dst + i) = Memory.read s.mem (src + i)) ∧
       (m.host = true → cmp ≠ 0 → e' % 2 ^ 16 = e % 2 ^ 16 - cmp * 2 ^ 12 ∧ ∀ k, k < (n - n / 256) / 128 →
         t.readHome (dst + 128 * k) 128 = (readLine s.mem { scheme := cmp, base := src, size := n } (src + 128 * k)).1)) ∧
      ∀ k, ¬(dst ≤ k ∧ k < dst + n) → ¬(a ≤ k ∧ k < a + 8) → Memory.read t.mem k = Memory.read s.mem k) ∧
  ∀ (s : State) ring v, s.Commands ring 8 v →
    let e := BitVec.ofNat 32 (cmdWord v 3)
    match s.launches.find? (fun l => l.2.ring.isSome && l.2.recPa == cmdWord v 1 && decide (0 < l.2.left)) with
    | none => ∃ t, exec (.move ring) s = .next t ∧ t = { s with rings := t.rings } ∧
        OnlyRing s t ring { s.ringAt ring with err := true }
    | some (id, l) => ∀ k b, s.blocks.find? (fun b => b.2.launch == id && b.2.num == field (cmdWord v 2) 31 0) = some (k, b) →
      Tab.get s.blocks k = some b →
      (moveEntryOk l.record l.map (field (cmdWord v 2) 31 0) e = false ∨ fitsEmpty l.record e = false →
        ∃ t, exec (.move ring) s = .next t ∧ t = { s with rings := t.rings } ∧
          OnlyRing s t ring { s.ringAt ring with err := true }) ∧
      (moveEntryOk l.record l.map (field (cmdWord v 2) 31 0) e = true → fitsEmpty l.record e = true →
        (b.moveTo.isSome = true ∨ b.moveRing.isSome = true → exec (.move ring) s = .next s) ∧
        (b.moveTo = none → b.moveRing = none → ∃ t, exec (.move ring) s = .next t ∧
          t = { s with rings := t.rings, blocks := t.blocks } ∧ OnlyRing s t ring (s.ringAt ring).fetched ∧
          (∀ j, j ≠ k → Tab.get t.blocks j = Tab.get s.blocks j) ∧
          Tab.get t.blocks k = some { b with moveTo := some (e, ring) }))

/-- Blocks start and launches end (R250, R252): a waiting block that fits starts on banks that were free, with its
groups at CODE and no subset current; a gang that does not fit and has NOWAIT ends with FULL; the last end of a launch
writes its completion word.
Pre-emption (R251, R291-R294): the victim stops and its run-aheads are to be rolled back; a stopped block whose units
have done their work leaves its cores, with the registers and the state of its fibres in its area, a subset that waits in
`bwait` at its `bwait`; it comes back as running on its new places, or is reported where its area is spoilt.
Where the model had to choose a reading, that is its own: logs 13, 33 and 34. -/
def Obligations.LaunchEventsAndPreemption : Prop :=
  ((∀ (s : State) id (b : Block) (l : Launch), s.block? id = some b → Tab.get s.launches b.launch = some l →
    b.phase = .waiting → l.gang = false →
    match s.reserve id b (s.firstOn id b) with
    | none => exec (.blockReserve id) s = .next s
    | some t => (∀ k, s.nextId ≤ k → s.group? k = none) → exec (.blockReserve id) s = .next t ∧ ∃ b', t.block? id = some b' ∧
        b'.phase = .running ∧ b'.launch = b.launch ∧ b'.issued = false ∧
        (∀ q ∈ b'.slots, ∃ k, q.st = .mapped k ∧ s.bankSt k = .free ∧ t.bankSt k = .held) ∧
        (∀ g ∈ b'.groups, s.nextId ≤ g ∧ ∀ x, t.group? g = some x → x.block = id ∧ x.current = none ∧ x.pend = [] ∧
          ∀ i f, x.fibre? i = some f → f.pc = BitVec.ofNat 48 l.record.code) ∧
        ∀ k, k < s.nextId → t.group? k = s.group? k) ∧
  (∀ (s : State) id (l : Launch), Tab.get s.launches id = some l →
    (l.gang = false → exec (.gangReserve id) s = .next s) ∧
    (l.gang = true → (∀ e ∈ s.earlierGangs id l, reserveAll e.blockIds s = none) →
      (∀ s1, reserveAll l.blockIds s = some s1 → ∃ t, exec (.gangReserve id) s = .next t ∧
        t = { s1 with launches := t.launches } ∧
        ∀ l', Tab.get s1.launches id = some l' → Tab.get t.launches id = some { l' with gang := false }) ∧
      (reserveAll l.blockIds s = none → l.record.nowait = false → exec (.gangReserve id) s = .next s) ∧
      (reserveAll l.blockIds s = none → l.record.nowait = true → ∃ t, exec (.gangReserve id) s = .next t ∧
        t = { s with blocks := t.blocks, launches := t.launches } ∧ (∀ k ∈ l.blockIds, Tab.get t.blocks k = none) ∧
        Tab.get t.launches id = some { l with gang := false, left := 0, status := 2, reason := 6, place := 0 }))) ∧
  ∀ (s : State) id (l : Launch), Tab.get s.launches id = some l →
    (l.left ≠ 0 ∨ l.word ≠ .due ∨ s.launchBusy l = true → exec (.launchCompletion id) s = .next s) ∧
    (l.left = 0 → l.word = .due → s.launchBusy l = false → l.flush = [] →
      (l.comp = 0 → ∃ t, exec (.launchCompletion id) s = .next t ∧ t = { s with launches := t.launches, rings := t.rings } ∧
        Tab.get t.launches id = none) ∧
      (∀ c, l.comp ≠ 0 → l.noRoot = some c → ∃ t r, exec (.launchCompletion id) s = .next t ∧ t.mem = s.mem ∧
        Tab.get t.launches id = none ∧ t.reports = s.reports ++ [r] ∧ r.kind = .completion ∧ r.f.cause = c) ∧
      ∀ p, l.comp ≠ 0 → l.noRoot = none → s.Finds l.record.root (l.comp % 2 ^ 52) .write p → p.fmt = 0 → p.cmp = 0 → l.comp < 2 ^ 52 →
        ∃ t, exec (.launchCompletion id) s = .next t ∧ Tab.get t.launches id = none ∧ SameMemory s t p.key 8 ∧
          t.readHome p.key 8 = bytesOf 8 (2 ^ 31 + l.status + l.reason * 2 ^ 8 + l.place * 2 ^ 32))) ∧
  (∀ (s : State) block victim (b v : Block) (l : Launch), s.block? block = some b → s.block? victim = some v →
    Tab.get s.launches b.launch = some l →
    let h := s.head l.record.head
    let go := b.phase = .waiting ∧ l.record.cls = 0 ∧ h.en = true ∧ h.deadline.toNat ≤ s.tsc.toNat + 300000 ∧
      s.tsc.toNat < h.deadline.toNat ∧ (∃ p ∈ s.victims b, p.1 = victim) ∧
      (∀ p ∈ s.victims b, p.1 = victim ∨ s.yieldsBefore p.2 v = false) ∧ s.willFit block b = false
    (¬go → exec (.preemptRequest block victim) s = .next s) ∧
    (go → ∃ t, exec (.preemptRequest block victim) s = .next t ∧ t = { s with blocks := t.blocks, groups := t.groups, cores := t.cores } ∧
      t.block? victim = some { v with phase := .stopping, yieldsTo := some block } ∧
      (∀ k, k ≠ victim → t.block? k = s.block? k) ∧
      ∀ g x, s.group? g = some x → t.group? g = some (if x.block = victim then x.stopRunAhead else x))) ∧
  (∀ (s : State) id (b : Block) (l : Launch), s.block? id = some b → Tab.get s.launches b.launch = some l →
    (b.phase ≠ .stopping ∨ s.blockStopped id = false ∨ s.savedFirst id b = true → exec (.preemptSave id) s = .next s) ∧
    (b.phase = .stopping → s.blockStopped id = true → s.savedFirst id b = false → b.reserved = [] → s.Quiet → b.cvs = [] →
      s.banksNeeded b = 0 → s.compPages = [] → (∀ p ∈ s.rays, p.2.org.block ≠ id) → (∀ p ∈ s.copies, p.2.org.block ≠ id) →
      let n := l.record.blockGroups
      let gs := (s.groups.filter fun p => p.2.block == id).map fun p => (p.1, p.2.atBwait)
      ∃ t b', exec (.preemptSave id) s = .next t ∧ t.block? id = some b' ∧
        b' = { b with phase := .saved, seats := [], saved := gs, yieldsTo := none } ∧ (∀ p ∈ t.groups, p.2.block ≠ id) ∧
        ∀ g x, gs = [(g, x)] → x.num < n → Tab.sorted x.fibres = true →
          (∀ i r, i < x.width → r < x.wsize → t.words (windowArea b n x i + 4 * r) 1 = [x.reg i r]) ∧
          (∀ i f, i < 64 → x.fibre? i = some f →
            t.words (stateArea b x i) 4 = [codeLo f.pc, codeHi f.pc, x.predWord i, f.repc]) ∧
          t.crcOk b' x = true)) ∧
  ∀ (s : State) id (b : Block) (l : Launch), s.block? id = some b → Tab.get s.launches b.launch = some l →
    (b.phase ≠ .saved ∨ s.restorePlaces id b l = none → exec (.blockRestore id) s = .next s) ∧
    ∀ fit, b.phase = .saved → s.restorePlaces id b l = some fit → s.slotsForReissue id fit = true → b.images = [] →
      b.moveTo = none → b.newBanks = [] → s.compPages = [] →
      ((∃ p ∈ b.saved, s.crcOk b p.2 = false) → ∃ t r, exec (.blockRestore id) s = .next t ∧ t.groups = s.groups ∧
        t.mem = s.mem ∧ t.block? id = some { b with phase := .failed } ∧ t.reports = s.reports ++ [r] ∧
        r.kind = .blockEnded ∧ r.block = id ∧ r.f.cause = .ecc) ∧
      ((∀ p ∈ b.saved, s.crcOk b p.2 = true) → b.arrivals = [] → (∀ p ∈ s.copies, p.2.org.block ≠ id) →
        ∃ t b', exec (.blockRestore id) s = .next t ∧ t.block? id = some b' ∧ b'.phase = .running ∧ b'.saved = [] ∧
          b'.seats = fit.map Prod.fst ∧ b'.bs = s.words b.area 16)

/-! ### Front-end harts (11) -/

/-- The harts' extension (R260): each instruction writes rd (x0 stays zero) and moves on by 4 bytes, or takes its
exception with rd as it was; a `rfetch` waits while its ring's line is not ready, and the host may have no translation of
a host ring; `swait` waits while no line of its mask is set, until one is set or its time is over.
Where the model had to choose a reading, that is its own: logs 4, 10, 11 and 33. -/
def Obligations.HartWords : Prop :=
  (∀ (o : HartOp) (s : State) n (h : Hart), s.hart = some n → Tab.get s.harts n = some h →
    let a := h.reg o.rs1
    let b := h.reg o.rs2
    let writes := fun (h' : Hart) (v : DWord) => h' = { h with regs := h'.regs, pc := h.pc + 4, local_ := h'.local_ } ∧
      ∀ r, h'.reg r = if r = o.rd ∧ r ≠ 0 then v else h.reg r
    let only := fun (t : State) (h' : Hart) => Tab.get t.harts n = some h' ∧ ∀ k, k ≠ n → Tab.get t.harts k = Tab.get s.harts k
    let enters := fun (t : State) (c : Nat) => ∃ h', only t h' ∧
      h' = { h with mepc := h.pc, mcause := BitVec.ofNat 64 c, mtval := 0, mstatus := h'.mstatus, pc := h.mtvec &&& ~~~3 } ∧
      ∀ k, k < 64 → h'.mstatus.getLsbD k = if k = 3 then false else if k = 7 then h.mstatus.getLsbD 3 else h.mstatus.getLsbD k
    let traps := fun (i : Instr) (c : Nat) => ∃ t, exec i s = .next t ∧ t = { s with harts := t.harts } ∧ enters t c
    let lost := fun (t : State) => t = { s with harts := t.harts, free := t.free } ∧ enters t 25
    (b &&& ~~~(0x7F3F : DWord) ≠ 0 → traps (.xbfx o) 27) ∧
    (b &&& ~~~(0x7F3F : DWord) = 0 → ∃ t h', exec (.xbfx o) s = .next t ∧ t = { s with harts := t.harts } ∧ only t h' ∧
      h'.local_ = h.local_ ∧ writes h' (BitVec.ofNat 64 (a.toNat / 2 ^ (b.toNat % 64) %
        2 ^ min (b.toNat / 2 ^ 8) (64 - b.toNat % 64)))) ∧
    (64 ≤ a.toNat → traps (.rfetch o) 24) ∧
    (a.toNat < 64 → b.toNat % 64 ≠ 0 → traps (.rfetch o) 26) ∧
    (a.toNat < 64 → b.toNat % 64 = 0 → if Config.hartLocalSize < b.toNat + 64 then traps (.rfetch o) 26 else
      let r := s.ringAt a.toNat
      (r.rptr = r.wptr → ∃ t h', exec (.rfetch o) s = .next t ∧ t = { s with harts := t.harts } ∧ only t h' ∧
        h'.local_ = h.local_ ∧ writes h' 1) ∧
      (r.rptr ≠ r.wptr → s.commandReady r = false → exec (.rfetch o) s = .next s) ∧
      (r.rptr ≠ r.wptr → s.commandReady r = true → s.commandBytes r = none → ∃ t, exec (.rfetch o) s = .next t ∧ lost t) ∧
      ∀ bs, r.rptr ≠ r.wptr → s.commandReady r = true → s.commandBytes r = some bs → ∃ t, exec (.rfetch o) s = .next t ∧
        let reads := ∃ h', t = { s with harts := t.harts, rings := t.rings, free := t.free } ∧ only t h' ∧ writes h' 0 ∧
          h'.local_ = Memory.writeBytes h.local_ b.toNat bs ∧ OnlyRing s t a.toNat { r with rptr := r.rptr + 1 }
        (r.host = false → reads ∧ t.free = s.free) ∧ (r.host = true → reads ∨ lost t)) ∧
    (a = 0 → traps (.swait o) 28) ∧
    (s.signals &&& a ≠ 0 → ∃ t h', exec (.swait o) s = .next t ∧ t = { s with harts := t.harts } ∧ only t h' ∧
      h'.local_ = h.local_ ∧ writes h' (s.signals &&& a)) ∧
    (a ≠ 0 → s.signals &&& a = 0 → ∃ t, exec (.swait o) s = .next t ∧ t = { s with harts := t.harts } ∧
      only t { h with waiting := some (o.rd, a) }) ∧
    (16 ≤ a.toNat → traps (.disp o) 29) ∧
    (a.toNat < 16 → b.toNat % 32 ≠ 0 → traps (.disp o) 30) ∧
    (a.toNat < 16 → b.toNat % 32 = 0 → if Config.hartLocalSize < b.toNat + 96 then traps (.disp o) 30 else
      let q := Tab.getD s.clusterInputs a.toNat []
      ∃ t h', exec (.disp o) s = .next t ∧ t = { s with harts := t.harts, clusterInputs := t.clusterInputs } ∧ only t h' ∧
        h'.local_ = h.local_ ∧
        (64 ≤ q.length → writes h' 2 ∧ t.clusterInputs = s.clusterInputs) ∧
        (q.length < 64 → writes h' 0 ∧ Tab.getD t.clusterInputs a.toNat [] = q ++ [Memory.readBytes h.local_ b.toNat 96] ∧
          ∀ k, k ≠ a.toNat → Tab.get t.clusterInputs k = Tab.get s.clusterInputs k))) ∧
  (∀ (s : State) n (h : Hart) rd m, Tab.get s.harts n = some h → h.waiting = some (rd, m) →
    ∃ t h', exec (.swaitTimeout n) s = .next t ∧ t = { s with harts := t.harts } ∧ Tab.get t.harts n = some h' ∧
      (∀ k, k ≠ n → Tab.get t.harts k = Tab.get s.harts k) ∧ h' = { h with regs := h'.regs, pc := h.pc + 4, waiting := none } ∧
      ∀ r, h'.reg r = if r = rd then 0 else h.reg r) ∧
  (∀ (s : State) n (h : Hart), Tab.get s.harts n = some h → h.waiting = none →
    ∃ t, exec (.swaitTimeout n) s = .next t ∧ ∀ k, Tab.get t.harts k = Tab.get s.harts k) ∧
  ∀ (s : State) line, line < 64 → ∃ t, exec (.signalLineSet line) s = .next t ∧
    t = { s with signals := t.signals, harts := t.harts } ∧
    (∀ k, k < 64 → t.signals.getLsbD k = (s.signals.getLsbD k || k == line)) ∧
    ∀ n h, Tab.get s.harts n = some h → ∃ h', Tab.get t.harts n = some h' ∧ (h.waiting = none → h' = h) ∧
      ∀ rd m, h.waiting = some (rd, m) →
        (t.signals &&& m = 0 → h' = h) ∧
        (t.signals &&& m ≠ 0 → h' = { h with regs := h'.regs, pc := h.pc + 4, waiting := none } ∧
          ∀ r, h'.reg r = if r = rd ∧ r ≠ 0 then t.signals &&& m else h.reg r)

/-! ### The host's side (22, 18) -/

/-- The host's accesses (R5, R6, R258, R263, R289, R352, R367, R381, R382, R385): one line of device memory while its stack
and CXL are ready; a line of host memory; the notify aperture and CAP, which keep nothing after a thermal trip (R389); reads
that latch or clear; register writes by offset;
and what every register reads as: reserved fields, write-only fields and the aperture read as zero.
Where the model had to choose a reading, that is its own: logs 29, 30, 36, 43 and 44. -/
def Obligations.HostAccesses : Prop :=
  (∀ (s : State) pa bs, s.compPages = [] →
    let n := bs.length
    let ready := s.status.cxl = true ∧ pa + n ≤ 0x6000000000 ∧ n ≠ 0 ∧ pa / 128 = (pa + n - 1) / 128 ∧
      s.status.hbm.getLsbD (stackOf pa) = true
    (¬ready → exec (.hostMemAccess (.write pa bs)) s = .next s ∧ exec (.hostMemAccess (.read pa n)) s = .next s) ∧
    (ready → (∃ t, exec (.hostMemAccess (.write pa bs)) s = .next t ∧ t.readHome pa n = bs ∧ SameMemory s t pa n) ∧
      exec (.hostMemAccess (.read pa n)) s = .next { s with hostSaw := s.readHome pa n })) ∧
  (∀ (s : State) a bs, s.compPages = [] → bs ≠ [] → a / 128 = (a + bs.length - 1) / 128 → a + bs.length ≤ 2 ^ 56 →
    ∃ t, exec (.hostWriteToHostLine a bs) s = .next t ∧ t.readHome (2 ^ 56 + a) bs.length = bs ∧
      SameMemory s t (2 ^ 56 + a) bs.length) ∧
  (∀ (s : State) offset (v : Word), s.power.trip = true →
    exec (.hostNotifyWrite offset v) s = .next s ∧ exec (.capWrite v) s = .next s) ∧
  (∀ (s : State) core reg (v : Word), s.power.trip = false → core < 192 → reg < 16 →
    ∃ t, exec (.hostNotifyWrite (0x4000 + 64 * core + 4 * reg) v) s = .next t ∧
      t = { s with notify := t.notify, cores := t.cores } ∧
      ∀ k, Tab.getD t.notify k 0 = if k = 16 * core + reg then Tab.getD s.notify k 0 ||| v else Tab.getD s.notify k 0) ∧
  (∀ (s : State) (v : Word), s.power.trip = false → ∃ t, exec (.capWrite v) s = .next t ∧ t = { s with power := t.power } ∧ t.power =
    if wbits v 9 0 % 50 = 0 ∧ 200 ≤ wbits v 9 0 ∧ wbits v 9 0 ≤ 600 then { s.power with cap := BitVec.ofNat 10 (wbits v 9 0) }
    else s.power) ∧
  (∀ (s : State), ∃ t, exec .tslRead s = .next t ∧ t = { s with hostSaw := t.hostSaw, status := { s.status with tsh := t.status.tsh } } ∧
    ofBytes t.hostSaw + t.status.tsh.toNat * 2 ^ 32 = s.tsc.toNat ∧ t.hostSaw.length = 4) ∧
  (∀ (s : State) c, ∃ t, exec (.correctedErrorCountRead c) s = .next t ∧
    t = { s with hostSaw := bytesOf 4 (s.status.counter c).toNat, status := t.status } ∧ t.status.counter c = 0 ∧
    ∀ d, d ≠ c → t.status.counter d = s.status.counter d) ∧
  (∀ (s : State) offset v, s.power.trip = true ∨ offset % 4 ≠ 0 → exec (.registerWrite offset v) s = .next s) ∧
  (∀ (s : State) (v : Word), s.power.trip = false →
    exec (.registerWrite 0x14 v) s = exec (.capWrite v) s ∧
    (∀ i, i < 64 → exec (.registerWrite (0x100 + 32 * i + 0xC) v) s = exec (.ringDoorbell i v) s ∧
      (∃ t, exec (.registerWrite (0x100 + 32 * i) v) s = .next t ∧ t = { s with rings := t.rings } ∧
        OnlyRing s t i { s.ringAt i with base := v }) ∧
      (∃ t, exec (.registerWrite (0x100 + 32 * i + 4) v) s = .next t ∧ t = { s with rings := t.rings } ∧
        OnlyRing s t i { s.ringAt i with host := wbit v 31, baseH := BitVec.ofNat 24 (wbits v 23 0) }) ∧
      (wbit v 30 = false → ∃ t, exec (.registerWrite (0x100 + 32 * i + 8) v) s = .next t ∧ t = { s with rings := t.rings } ∧
        OnlyRing s t i { s.ringAt i with
          en := wbit v 31
          log2n := if 4 ≤ wbits v 4 0 ∧ wbits v 4 0 ≤ 16 then BitVec.ofNat 5 (wbits v 4 0) else (s.ringAt i).log2n })) ∧
    (∀ h, h < 4 →
      (∃ t, exec (.registerWrite (0x900 + 64 * h + 0x10) v) s = .next t ∧ t = { s with heads := t.heads } ∧
        t.head h = { s.head h with size := v } ∧ ∀ k, k ≠ h → t.head k = s.head k) ∧
      (∃ t, exec (.registerWrite (0x900 + 64 * h + 0x14) v) s = .next t ∧ t = { s with heads := t.heads } ∧
        (∀ k, k ≠ h → t.head k = s.head k) ∧
        t.head h = { s.head h with
          en := wbit v 31, fmt := wbit v 30, bpc10 := wbit v 29, lanes := BitVec.ofNat 2 (wbits v 5 4)
          rate := BitVec.ofNat 3 (wbits v 2 0), linkUp := false
          deadline := if wbit v 31 && !(s.head h).en then s.tsc else (s.head h).deadline }) ∧
      (∃ t, exec (.registerWrite (0x900 + 64 * h + 0x1C) v) s = .next t ∧ t = { s with heads := t.heads } ∧
        (∀ k, k ≠ h → t.head k = s.head k) ∧
        t.head h = { s.head h with under := (s.head h).under && !wbit v 0, drop := (s.head h).drop && !wbit v 1 })) ∧
    exec (.registerWrite 0x64 v) s = exec (.flack v) s ∧
    (∀ k j, k < 128 → j < 4 → exec (.registerWrite (0xA10 + 16 * k + 4 * j) v) s = exec (.groupTableWrite (0xA10 + 16 * k + 4 * j) v) s) ∧
    ∀ core reg, core < 192 → reg < 16 → exec (.registerWrite (0x4000 + 64 * core + 4 * reg) v) s =
      exec (.hostNotifyWrite (0x4000 + 64 * core + 4 * reg) v) s) ∧
  ∀ (s : State), let saw := fun (offset n : Nat) => exec (.hostMemAccess (.register offset)) s = .next { s with hostSaw := bytesOf 4 n }
    let k := s.status
    let l := s.log
    (saw 0x00 (k.hbm.toNat + k.clusters.toNat * 2 ^ 8 + k.heads.toNat * 2 ^ 24 + k.cxl.toNat * 2 ^ 28 + k.fe.toNat * 2 ^ 29) ∧
      saw 0x04 k.ports.toNat ∧ saw 0x0C k.tsh.toNat ∧ saw 0x10 s.power.word.toNat ∧ saw 0x14 s.power.cap.toNat ∧
      saw 0x24 k.boot.toNat ∧
      exec (.hostMemAccess (.register 0x08)) s = exec .tslRead s ∧
      exec (.hostMemAccess (.register 0x18)) s = exec (.correctedErrorCountRead .bank) s ∧
      exec (.hostMemAccess (.register 0x1C)) s = exec (.correctedErrorCountRead .slice) s ∧
      exec (.hostMemAccess (.register 0x20)) s = exec (.correctedErrorCountRead .hbm) s) ∧
    (saw 0x40 l.saveBase.toNat ∧ saw 0x44 l.saveBaseH.toNat ∧ saw 0x48 l.saveLen.toNat ∧ saw 0x50 l.base.toNat ∧
      saw 0x54 (l.baseH.toNat + l.host.toNat * 2 ^ 31) ∧ saw 0x58 (l.log2n.toNat + l.en.toNat * 2 ^ 31) ∧
      saw 0x5C l.wptr.toNat ∧ saw 0x60 l.rptr.toNat ∧ saw 0x64 0) ∧
    (∀ i, i < 64 → let r := s.ringAt i
      let at_ := fun (o : Nat) => saw (0x100 + 32 * i + o)
      at_ 0x00 r.base.toNat ∧ at_ 0x04 (r.baseH.toNat + r.host.toNat * 2 ^ 31) ∧
      at_ 0x08 (r.log2n.toNat + r.err.toNat * 2 ^ 30 + r.en.toNat * 2 ^ 31) ∧ at_ 0x0C r.wptr.toNat ∧
      at_ 0x10 r.rptr.toNat ∧ at_ 0x14 r.done.toNat ∧ at_ 0x18 0 ∧ at_ 0x1C 0) ∧
    (∀ h, h < 4 → let x := s.head h
      let at_ := fun (o : Nat) => saw (0x900 + 64 * h + o)
      at_ 0x00 x.base.toNat ∧ at_ 0x04 x.baseH.toNat ∧ at_ 0x08 x.root.toNat ∧ at_ 0x0C x.rootH.toNat ∧ at_ 0x10 x.size.toNat ∧
      at_ 0x14 (x.rate.toNat + x.lanes.toNat * 2 ^ 4 + x.bpc10.toNat * 2 ^ 29 + x.fmt.toNat * 2 ^ 30 + x.en.toNat * 2 ^ 31) ∧
      at_ 0x18 x.period.toNat ∧ at_ 0x1C (x.under.toNat + x.drop.toNat * 2 + x.linkUp.toNat * 2 ^ 31) ∧
      at_ 0x20 (x.deadline.toNat % 2 ^ 32) ∧ at_ 0x24 (x.deadline.toNat / 2 ^ 32) ∧ at_ 0x28 x.frames.toNat ∧
      at_ 0x2C x.siga.toNat ∧ at_ 0x30 x.sigaH.toNat ∧ at_ 0x34 (x.missing.toNat % 2 ^ 32) ∧
      at_ 0x38 (x.missing.toNat / 2 ^ 32) ∧ at_ 0x3C x.lframe.toNat) ∧
    saw 0xA00 (match s.fabric.fabid with
      | some n => n.toNat + 2 ^ 31
      | none => 0) ∧
    (∀ i, i < 128 → let e := s.groupEntry i
      let at_ := fun (o : Nat) => saw (0xA10 + 16 * i + o)
      at_ 0x0 (e.gid.toNat + e.myrank.toNat * 2 ^ 16 + e.valid.toNat * 2 ^ 31) ∧ at_ 0x4 e.nrank.toNat ∧
      at_ 0x8 e.late.toNat ∧ at_ 0xC e.seq.toNat) ∧
    ∀ o, (0x28 ≤ o ∧ o < 0x40) ∨ o = 0x4C ∨ (0x68 ≤ o ∧ o < 0x100) ∨ (0xA04 ≤ o ∧ o < 0xA10) ∨ 0x4000 ≤ o ∨ o % 4 ≠ 0 → saw o 0

/-- The display heads (R352, R379): at DEADLINE a head that is ready and enabled latches its image and DEADLINE advances by
PERIOD; its link comes up where its settings are legal and is lost; a frame scans each line once, pixel by pixel, one
line at a time; a line is sent with a pixel for each column, black and with UNDER where it was not read in time.
Where the model had to choose a reading, that is its own: logs 29 (a line that was not sent when the next frame starts sets
UNDER) and 36. -/
def Obligations.DisplayHeads : Prop :=
  ∀ (s : State) h, h < 4 →
    let x := s.head h
    let only := fun (t : State) (y : Head) => t = { s with heads := t.heads } ∧ t.head h = y ∧ ∀ k, k ≠ h → t.head k = s.head k
    let ready := s.status.heads.getLsbD h = true ∧ x.en = true
    (¬(ready ∧ x.deadline.toNat ≤ s.tsc.toNat) → exec (.frameStart h) s = .next s) ∧
    (ready → x.deadline.toNat ≤ s.tsc.toNat → ∃ t, exec (.frameStart h) s = .next t ∧ only t
      { x with
        deadline := x.deadline + BitVec.ofNat 64 x.period.toNat, frames := x.frames + 1
        image := some (x.base.toNat + x.baseH.toNat * 2 ^ 32, (x.root.toNat + x.rootH.toNat * 2 ^ 32) * 2 ^ 16,
          wbits x.size 15 0, wbits x.size 31 16, x.fmt)
        under := (t.head h).under, lines := [], line := none } ∧
      ((t.head h).under = true ↔ x.under = true ∨ (x.linkUp = true ∧ ∃ va root w ht rgba8, x.image = some (va, root, w, ht, rgba8) ∧
        0 < w ∧ (x.lines.length < ht ∨ x.line.isSome = true)))) ∧
    (¬(ready ∧ x.lanes ≠ 3 ∧ x.rate ≠ 7) → exec (.headLinkUp h) s = .next s) ∧
    (ready → x.lanes ≠ 3 → x.rate ≠ 7 → ∃ t, exec (.headLinkUp h) s = .next t ∧ only t { x with linkUp := true }) ∧
    (∃ t, exec (.headLinkLost h) s = .next t ∧ only t { x with linkUp := false }) ∧
    ∀ va root w ht rgba8 y late, x.image = some (va, root, w, ht, rgba8) →
      (¬(ready ∧ x.linkUp = true ∧ y < ht) → exec (.scanOutLine h y late) s = .next s) ∧
      ((∃ z l, x.line = some (z, l) ∧ z ≠ y) ∨ (x.line = none ∧ y ∈ x.lines) → exec (.scanOutLine h y late) s = .next s) ∧
      ∀ l, ready → x.linkUp = true → y < ht → (x.line = some (y, l) ∨ (x.line = none ∧ y ∉ x.lines ∧ l = [])) →
        ∃ t px, exec (.scanOutLine h y late) s = .next t ∧ (∀ k, k ≠ h → t.head k = s.head k) ∧
          t = { s with heads := t.heads, free := t.free, cached := t.cached, compPages := t.compPages } ∧
          (∀ z, z ∈ (t.head h).lines ↔ z = y ∨ z ∈ x.lines) ∧
          (late = true ∨ w ≤ l.length → px = l ++ List.replicate (w - l.length) none) ∧
          (late = false → l.length < w → ∃ c, px = l ++ [c]) ∧
          (px.length < w → t.head h = { x with lines := (t.head h).lines, line := some (y, px) }) ∧
          (w ≤ px.length → t.head h = { x with
            lines := (t.head h).lines, line := none, under := x.under || px.any Option.isNone
            sent := some (y, px.map fun c => c.getD (0, 0, 0)) })

/-! ### Power, reset and attestation (22) -/

/-- Readiness, clock, reset and boot (R383-R389): a bit sets only after what it needs; the clock steps by 50 MHz within
200 MHz and its cap; the counter is disciplined by one tick; reset and a trip lose all but device memory (a trip CAP
too, R389); a verified image extends measurement register 0 and starts four harts.
Attestation (R387): what the boot ROM answers to each SPDM request; every request enters the transcript, which
GET_VERSION begins anew, and nothing else changes.
Where the model had to choose a reading, that is its own: logs 12, 30 and 35. -/
def Obligations.PowerBootAttestation : Prop :=
  ((∀ (s : State) f, let base := s.status.cxl = true ∧ s.status.hbm = BitVec.allOnes 8
    let may := s.power.trip = false ∧ match f with
      | .hbm _ => True
      | .cxl => True
      | .cluster _ => base
      | .head _ => base
      | .frontEnd => base ∧ s.status.boot = 1
    let k := s.status
    (¬may → exec (.functionReady f) s = .next s) ∧
    let after := match f with
      | .hbm i => { k with hbm := k.hbm ||| BitVec.twoPow 8 i }
      | .cxl => { k with cxl := true }
      | .cluster i => { k with clusters := k.clusters ||| BitVec.twoPow 16 i }
      | .head i => { k with heads := k.heads ||| BitVec.twoPow 4 i }
      | .frontEnd => { k with fe := true }
    (may → exec (.functionReady f) s = .next { s with status := after })) ∧
  (∀ (s : State) ahead, let ok := s.status.ports.getLsbD 0 = true ∧ 1023 ≤ s.status.sinceAdjust
    (¬ok → exec (.timeStampDiscipline ahead) s = .next s) ∧
    (ok → exec (.timeStampDiscipline ahead) s = .next { s with
      tsc := if ahead then s.tsc else s.tsc + 2, status := { s.status with sinceAdjust := 0 } })) ∧
  (∀ (s : State) r, exec (.powerThermalLimit r) s = .next { s with power := { s.power with
    overPower := r.overPower, hot := r.overTemp, low := r.powerBelowStepUp && !r.overPower
    cool := r.tempBelowStepUp && !r.overTemp } }) ∧
  (∀ (s : State), let p := s.power
    let down := (p.overPower = true ∨ p.hot = true ∨ p.cap.toNat < p.mhz.toNat) ∧ 200 < p.mhz.toNat ∧ p.trip = false
    let up := p.low = true ∧ p.cool = true ∧ p.mhz.toNat < p.cap.toNat ∧ p.trip = false
    (¬down → exec .clockStepDown s = .next s) ∧ (¬up → exec .clockStepUp s = .next s) ∧
    (down → ∃ t, exec .clockStepDown s = .next t ∧ t = { s with power := { p with mhz := t.power.mhz } } ∧
      t.power.mhz.toNat = p.mhz.toNat - 50) ∧
    (up → p.cap.toNat ≤ 600 → ∃ t, exec .clockStepUp s = .next t ∧ t = { s with power := { p with mhz := t.power.mhz } } ∧
      t.power.mhz.toNat = p.mhz.toNat + 50)) ∧
  (∀ (s : State), ∃ t, exec .deviceReset s = .next t ∧
    t = { State.reset with
      schedule := s.schedule, free := s.free, nextId := s.nextId, compPages := s.compPages, mem := t.mem, errors := t.errors } ∧
    (∀ k, k < 2 ^ 57 → Memory.read t.mem k = Memory.read s.mem k) ∧ ∀ k, 2 ^ 57 ≤ k → Memory.read t.mem k = 0) ∧
  (∀ (s : State), ∃ t, exec .thermalTrip s = .next t ∧ t.power = { State.reset.power with trip := true } ∧ t.tsc = s.tsc ∧
    t.status = { State.reset.status with cxl := s.status.cxl } ∧ t.groups = [] ∧ t.blocks = [] ∧ t.launches = [] ∧
    t.rings = [] ∧ t.harts = [] ∧ (∀ k, k < 2 ^ 57 → Memory.read t.mem k = Memory.read s.mem k) ∧
    ∀ k, 2 ^ 57 ≤ k → Memory.read t.mem k = 0) ∧
  ∀ (s : State) image, (s.status.boot ≠ 0 ∨ s.power.trip = true → exec (.bootVerify image) s = .next s) ∧
    (s.status.boot = 0 → s.power.trip = false → ∃ t, exec (.bootVerify image) s = .next t ∧
      t = { s with status := { s.status with boot := t.status.boot, measures := t.status.measures }, harts := t.harts } ∧
      match image with
      | none => t.status.boot = 3 ∧ t.status.measures = s.status.measures ∧ t.harts = s.harts
      | some bs =>
        (Config.imageVerifies bs = false → t.status.boot = 2 ∧ t.status.measures = s.status.measures ∧ t.harts = s.harts) ∧
        (Config.imageVerifies bs = true → t.status.boot = 1 ∧
          (0 < s.status.measures.length → nth t.status.measures 0 [] = sha512 (nth s.status.measures 0 [] ++ sha512 bs)) ∧
          (∀ k, 0 < k → nth t.status.measures k [] = nth s.status.measures k []) ∧
          ∀ n, (Tab.get t.harts n).isSome = decide (n < 4)))) ∧
  ∀ (s : State),
    let answers := fun (i : Instr) (a : SpdmAnswer) => ∃ t req, exec i s = .next t ∧ t = { s with free := t.free, spdm := t.spdm } ∧
      t.spdm.answer = some a ∧ t.spdm.transcript = (if i = .getVersion then [] else s.spdm.transcript) ++ req ∧ req ≠ []
    let chain := Config.certificateChain 0
    let m := fun (i : Nat) => (i, nth s.status.measures (i - 1) [])
    answers .getVersion (.versions [(1, 2), (1, 3)]) ∧ answers .getCapabilities (.capabilities true true true false) ∧
    answers .negotiateAlgorithms (.algorithms "SHA-512" "RSASSA-PSS 4096") ∧
    answers .getDigests (.digests [(0, sha512 chain)]) ∧
    (∀ slot o n, if slot = 0 ∧ o < chain.length then
        ∃ p rest, answers (.getCertificate slot o n) (.certificate p rest) ∧ p = (chain.drop o).take n ∧ o + p.length + rest = chain.length
      else answers (.getCertificate slot o n) .error) ∧
    (∀ slot nonce, slot ≠ 0 → answers (.challenge slot nonce) .error) ∧
    (∀ nonce, ∃ own req, own.length = 32 ∧ answers (.challenge 0 nonce) (.challengeAuth (sha512 chain) own
      (Config.identitySignature (s.spdm.transcript ++ req ++ sha512 chain ++ own))) ∧ ∃ p, req = p ++ bytesOf 32 nonce.toNat) ∧
    answers (.getMeasurements 0) (.measurements [(8, [])]) ∧
    (∀ i, 1 ≤ i → i ≤ 8 → answers (.getMeasurements i) (.measurements [m i])) ∧
    answers (.getMeasurements 255) (.measurements [m 1, m 2, m 3, m 4, m 5, m 6, m 7, m 8]) ∧
    ∀ i, 8 < i → i ≠ 255 → answers (.getMeasurements i) .error

/-! ### Results and faults on their way (02, 13, 07) -/

/-- Results and asynchronous faults (02 R35, R36, R46-R48; 07 R164; 13 R283, R284, R288, R289): a result is written to its
registers, which are no longer pending; a fault enters its group's queue in the order of time stamps and sources, or goes
to the front end; a run-ahead that stops gives back its checkpoint, and waits for a migration only where a walk still
finds one (R288); a report is written while the log has room, and the
host's answer lets its work go on; cores gate and wake.
Where the model had to choose a reading, that is its own: logs 34 and 41. -/
def Obligations.ResultsAndFaults : Prop :=
  (∀ (s : State) k (r : Result), s.results[k]? = some r →
    (s.isSaved r.group = true → exec (.resultReturn k) s = .next s) ∧
    (∀ x : Machine.Group, s.isSaved r.group = false → s.group? r.group = some x → x.runAhead = none → r.reg + r.vals.length ≤ 128 →
      let n := r.vals.length
      let takes := fun (l : Nat) => match r.lane with
        | none => decide (l < x.width)
        | some i => l == i
      ∃ (t : State) (y : Machine.Group), exec (.resultReturn k) s = .next t ∧ OnlyGroup s t r.group y ∧
        t = { s with groups := t.groups, results := s.results.eraseIdx k, cores := t.cores, fabric := t.fabric } ∧
        y = { x with regs := y.regs, pend := y.pend, bad := y.bad, waiting := y.waiting } ∧
        x.Writes y (fun l j => takes l && (r.lane.isNone || (x.fibre? l).isSome) && decide (r.reg ≤ j) && decide (j < r.reg + n))
          (fun _ j => nth r.vals (j - r.reg) 0) ∧
        (∀ l j, j < 128 → y.isPending l j =
          (x.isPending l j && !(takes l && decide (r.reg ≤ j) && decide (j < r.reg + n)))) ∧
        y.waiting = x.waiting.map fun u =>
          if u.wait = .park ∧ y.maskPending u.mask = false then { u with wait := .none } else u)) ∧
  (∀ (s : State) k (h : HeldFault), s.held[k]? = some h →
    (s.isSaved h.org.group = true → exec (.asyncFaultEnqueue k) s = .next s) ∧
    (s.isSaved h.org.group = false → s.liveGroup h.org.group = none → h.result = none →
      ∃ t r, exec (.asyncFaultEnqueue k) s = .next t ∧ t.held = s.held.eraseIdx k ∧ t.groups = s.groups ∧
        t.reports = s.reports ++ [r] ∧ r.kind = .endedGroup ∧ r.f = h.f ∧ r.block = h.org.block) ∧
    ∀ x, s.isSaved h.org.group = false → s.liveGroup h.org.group = some x →
      (64 ≤ x.faults.length → exec (.asyncFaultEnqueue k) s = .next s) ∧
      (x.faults.length < 64 → h.result = none → h.command = none → s.rays = [] →
        (x.current.isSome = true ∨ x.anyTrap = true) → ∃ (t : State) (y : Machine.Group), exec (.asyncFaultEnqueue k) s = .next t ∧
        OnlyGroup s t h.org.group y ∧ t = { s with groups := t.groups, cores := t.cores, held := s.held.eraseIdx k } ∧
        y.regs = x.regs ∧ y.fibres = x.fibres ∧ y.current = x.current ∧ ∃ a b, x.faults = a ++ b ∧ y.faults = a ++ h.f :: b ∧
          (∀ f ∈ a, f.time.toNat < h.f.time.toNat ∨ (f.time = h.f.time ∧ f.src ≤ h.f.src)) ∧
          ∀ f ∈ b.head?, ¬(f.time.toNat < h.f.time.toNat ∨ (f.time = h.f.time ∧ f.src ≤ h.f.src)))) ∧
  (∀ (s : State) g (x : Machine.Group) b (c : RunAhead), s.group? g = some x → s.blockOf x = some b → x.runAhead = some c →
    (c.stop = false → exec (.runAheadStop g) s = .next s) ∧
    (c.stop = true → ∃ (t : State) (y : Machine.Group), exec (.runAheadStop g) s = .next t ∧ OnlyGroup s t g y ∧ y.runAhead = none ∧
      y.regs = c.regs ∧ y.pend = c.pend ∧ y.fibres = c.fibres ∧ y.current = c.current ∧ y.tags = c.tags ∧
      t.results = s.results.filter (fun r => !(r.group == g && r.spec)) ∧
      (b.phase = .stopping → t.reports = s.reports ∧ t.mem = s.mem) ∧
      let ops := c.fault.ops ++ [BitVec.ofNat 32 c.batch.length]
      let va := (nth ops 0 0).toNat + (nth ops 1 0).toNat * 2 ^ 32
      (b.phase ≠ .stopping → y.fpc = codeLo c.fault.pc ∧ (∃ more, y.fcause = c.fault.causeWord more) ∧
        (c.fault.cause = .migrate → t.reports = s.reports ∧
          y.hold = if t.foundMig (s.rootOf x) va then some (.migrating va) else x.hold) ∧
        (c.fault.cause ≠ .migrate → y.hold.isSome = true ∧ ∃ r, t.reports = s.reports ++ [r] ∧ r.kind = .pageService ∧ r.f.cause = c.fault.cause)))) ∧
  (∀ (s : State) k (r : Report), s.reports[k]? = some r →
    let l := s.log
    let key := physKey l.host (l.base.toNat + l.baseH.toNat * 2 ^ 32 + 64 * (l.wptr.toNat % 2 ^ l.log2n.toNat))
    (r.index.isSome = true ∨ l.en = false ∨ 2 ^ l.log2n.toNat ≤ (l.wptr - l.rptr).toNat → exec (.faultLogWrite k) s = .next s) ∧
    (r.index = none → l.en = true → (l.wptr - l.rptr).toNat < 2 ^ l.log2n.toNat → r.kind ≠ .blockEnded → s.compPages = [] →
      ∃ t, exec (.faultLogWrite k) s = .next t ∧ t.log = { l with wptr := l.wptr + 1 } ∧ SameMemory s t key 64 ∧
        t.groups = s.groups ∧
        (r.kind = .pageService → t.reports = s.reports.set k { r with index := some l.wptr.toNat }) ∧
        (r.kind ≠ .pageService → t.reports = s.reports.eraseIdx k) ∧
        t.words key 16 = [r.f.causeWord (s.reportMore r), codeLo r.f.pc, codeHi r.f.pc, r.f.xops,
          BitVec.ofNat 32 r.f.time.toNat, BitVec.ofNat 32 (r.f.time.toNat / 2 ^ 32)] ++ pad8 r.f.ops ++
          [BitVec.ofNat 32 (r.core % 256 + r.resident % 512 * 2 ^ 8 + r.group % 1024 * 2 ^ 17), BitVec.ofNat 32 (r.kind.code * 2 ^ 28)])) ∧
  (∀ (s : State) (n : Word) (r : Report), s.reports.find? (fun r => r.kind == .pageService && r.index == some n.toNat) = some r →
    s.compPages = [] →
    let l := s.log
    let key := physKey l.host (l.base.toNat + l.baseH.toNat * 2 ^ 32 + 64 * (n.toNat % 2 ^ l.log2n.toNat))
    let ack := field (ofBytes (Memory.readBytes s.mem (key + 60) 4)) 31 30
    (ack ≠ 1 → ack ≠ 2 → exec (.flack n) s = .next s) ∧
    (∀ g x, ack = 1 → r.of = .group g → s.group? g = some x → ∃ (t : State), exec (.flack n) s = .next t ∧
      t.reports = s.reports.erase r ∧ OnlyGroup s t g { x with hold := none }) ∧
    ∀ g x b, ack = 2 → r.of = .group g → s.isSaved g = false → s.group? g = some x → s.blockOf x = some b → b.tvec.getLsbD 0 = false →
      ∃ t r', exec (.flack n) s = .next t ∧ t.reports = s.reports.erase r ++ [r'] ∧ r'.kind = .blockEnded ∧ r'.f = r.f ∧
        r'.block = x.block ∧ OnlyGroup s t g { x with hold := some .report }) ∧
  (∀ (s : State) (n : Word), (∀ r ∈ s.reports, ¬(r.kind = .pageService ∧ r.index = some n.toNat)) → exec (.flack n) s = .next s) ∧
  ∀ (s : State) c, let k := s.core c
    let only := fun (t : State) (y : Core) => t = { s with cores := t.cores } ∧ t.core c = y ∧ ∀ j, j ≠ c → t.core j = s.core j
    (k.gate = .running ∨ k.due = 0 → exec (.coreWake c) s = .next s) ∧
    (k.gate ≠ .running → k.due ≠ 0 → ∃ t, exec (.coreWake c) s = .next t ∧ only t
      { k with gate := .running, wakeFrom := if k.gate = .power then 2 else 1, wakeBits := k.wakeBits ||| k.due, due := 0 }) ∧
    (192 ≤ c ∨ (∃ p ∈ s.blocks, ∃ e ∈ p.2.seats, e.core = c) → exec (.corePowerGate c) s = .next s) ∧
    (c < 192 → (∀ p ∈ s.blocks, ∀ e ∈ p.2.seats, e.core ≠ c) → ∃ t, exec (.corePowerGate c) s = .next t ∧
      only t { k with gate := .power }) ∧
    (192 ≤ c ∨ k.gate ≠ .running ∨ (∃ p ∈ s.groups, p.2.core = c ∧ p.2.current.isSome = true) →
      exec (.coreClockGate c) s = .next s) ∧
    (c < 192 → k.gate = .running → s.ord.promotions = [] →
      (∀ p ∈ s.groups, p.2.core = c → p.2.current = none ∧ p.2.hold = none ∧ p.2.runAhead = none ∧
        ∀ u ∈ p.2.waiting, (u.wait = .park ∨ (∃ h, u.wait = .matrix h) ∨ ∃ bank off v m, u.wait = .phase bank off v m) ∧
          ∀ q ∈ p.2.pend, u.mask.getLsbD (q.1 / 128) = true →
            q.2 = .copyEngine ∨ q.2 = .traversal ∨ q.2 = .message ∨ q.2 = .fabric) →
      ∃ t, exec (.coreClockGate c) s = .next t ∧ only t { k with gate := .clock, due := 0 })

/-! ### The machine as a whole -/

/-- Device reset: the counter starts at 0 (22 R385), the status block and CLKSTAT hold their reset values (R381, R388),
nothing is ready or resident, every measurement register is 64 zero bytes (R387), and the fault log is off and empty
(13 R289). Which bytes memory holds is the model's choice (log 1).
Where the model had to choose a reading, that is its own: log 2. -/
def Obligations.ResetState : Prop :=
  let s := State.reset
  s.memOk = true ∧ s.tsc = 0 ∧ s.power.word = 0x258 ∧ s.power.cap = 600 ∧ s.power.mhz = 600 ∧ s.power.trip = false ∧
  s.status.fe = false ∧ s.status.cxl = false ∧ s.status.heads = 0 ∧ s.status.clusters = 0 ∧ s.status.hbm = 0 ∧
  s.status.ports = 0 ∧ s.status.tsh = 0 ∧ s.status.ceBank = 0 ∧ s.status.ceSlice = 0 ∧ s.status.ceHbm = 0 ∧
  s.status.boot = 0 ∧ s.status.measures = List.replicate 8 (List.replicate 64 0) ∧
  s.groups = [] ∧ s.blocks = [] ∧ s.launches = [] ∧ s.log.en = false ∧ s.log.wptr = 0 ∧ s.log.rptr = 0 ∧
  (∀ g, exec (.subsetYield g) s = .next s) ∧
  ∀ g rest, step { s with schedule := .issue g :: rest } = .next { s with schedule := rest }

/-- The canonical form of memory (log 1, a choice of the model) is kept by every step. -/
def Obligations.MemoryStaysCanonical : Prop :=
  ∀ (s t : State), s.memOk = true → step s = .next t → t.memOk = true

/-- No state stops the machine: every step, whatever its turn, answers a next state.
Where the model had to choose a reading, that is its own: log 8. -/
def Obligations.StepNeverStops : Prop := ∀ s : State, Runs s

/-- A turn of a group runs the word at its PC (03 R51, 07 R163): the instruction that the word decodes to, or the fate of an
unassigned word (03 R67); the first turn in which a group of a moved block issues completes the MOVE (11 R259). A turn of a
hart runs its custom-0 word, a turn of an event runs that event, and without a
schedule the turn is a free one (log 3). A word that carries an uncorrectable memory error is taken as it is stored (log 40). -/
def Obligations.StepRunsDecodedWord : Prop :=
  (∀ (s s1 : State) g rest w, s.schedule = .issue g :: rest → State.prepare { s with schedule := rest } g = .word w s1 →
    (∀ i, decodeFibre w = some i → step s = s1.afterTurn g (exec i s1)) ∧
    (decodeFibre w = none → step s = s1.afterTurn g (execUnassignedWord w s1))) ∧
  (∀ (s : State) g o, s.moveRingOf g = none → s.afterTurn g o = o) ∧
  (∀ (s t : State) g r (x y : Machine.Group), s.moveRingOf g = some r → s.group? g = some x → t.group? g = some y →
    s.afterTurn g (.next t) = .next
      (if x.issues = y.issues then t else (t.modBlock x.block fun b => { b with moveRing := none }).commandDone r)) ∧
  (∀ (s : State) g rest (x : Machine.Group) (b : Block) (p : Page), s.schedule = .issue g :: rest → s.canIssue g = true →
    s.group? g = some x → s.blockOf x = some b → x.current.isSome = true → x.waiting = [] → x.hold = none →
    x.runAhead = none → b.issued = true → b.moveRing = none → s.Finds (s.rootOf x) x.pc.toNat .fetch p → p.cmp = 0 →
    let w := toWord (ofBytes (Memory.readBytes s.mem p.key 4))
    ∃ s1, s1 = { s with
        schedule := rest, cur := some g, word := w, wordOff := 0, free := s1.free, cached := s1.cached
        compPages := s1.compPages, groups := s1.groups } ∧
      (∀ h, s1.group? h = s.group? h) ∧
      (∀ i, decodeFibre w = some i → step s = exec i s1) ∧ (decodeFibre w = none → step s = execUnassignedWord w s1)) ∧
  (∀ (s : State) h rest (x : Hart), s.schedule = .hart h :: rest → Tab.get s.harts h = some x → x.waiting = none →
    ∀ i, decodeHart (toWord (ofBytes (Memory.readBytes x.local_ x.pc.toNat 4))) = some i →
      step s = exec i { s with schedule := rest, hart := some h }) ∧
  (∀ (s : State) i rest, s.schedule = .event i :: rest → isEvent i = true → step s = exec i { s with schedule := rest }) ∧
  ∀ s : State, s.schedule = [] → step s = step { s with schedule := [Config.freeTurn s.free], free := s.free + 1 }

/-- Decoding the word of a well-formed instruction gives it back, with every operand as it was (03 R54-R61, R70, R71,
11 R260). -/
def Obligations.DecodeEncode : Prop :=
  ∀ i w, i.wf = true → encode i = some w → (if i.onHart then decodeHart w else decodeFibre w) = some i

/-- A word that decodes to an instruction is the word of that instruction, and the instruction is well-formed: decoding
ignores no bit of a word (03 R67, R68). -/
def Obligations.DecodeIsCanonical : Prop :=
  (∀ w i, decodeFibre w = some i → i.onHart = false ∧ i.wf = true ∧ encode i = some w) ∧
  ∀ w i, decodeHart w = some i → i.onHart = true ∧ i.wf = true ∧ encode i = some w

/-- Words that the spec spells out: 05 R113, R121, 04 R103, 06 R139, R140, R144, R147, 10 R230, R231, 02 R45, R49,
22 R388, 11 R260; and lane opcodes 0x00, 0x26 and 0x27, which are unassigned (03 R70). -/
def Obligations.DecodeKnownWords : Prop :=
  decodeFibre 0x0D007FFF = some (.movi ⟨false, .none, 1, -1⟩) ∧
  decodeFibre 0x2B230480 = some (.qdxF ⟨false, 12, 9⟩) ∧
  decodeFibre 0x25010134 = some (.cvt ⟨false, .none, 4, 2, 6, .rs⟩) ∧
  decodeFibre 0x2E000000 = some (.fend ⟨false⟩) ∧
  decodeFibre 0x2E214082 = some (.fspawn ⟨false, 5, 1, 2⟩) ∧
  decodeFibre 0x2F00C808 = some (.mma ⟨false, 3, 16, 8⟩) ∧
  decodeFibre 0x9A40C400 = some (.cvdecl ⟨false, .core, 3, 1024⟩) ∧
  decodeFibre 0x9A204100 = some (.cvdecl ⟨false, .quad, 1, 256⟩) ∧
  decodeFibre 0x9A000040 = some (.cvdecl ⟨false, .group, 0, 64⟩) ∧
  decodeFibre 0xB440C202 = some (.bsadd ⟨false, 3, 4, 2⟩) ∧
  decodeFibre 0xB8014060 = some (.srd ⟨false, 5, .clk⟩) ∧
  decodeFibre 0xB9018000 = some (.time ⟨false, 6⟩) ∧
  decodeFibre 0xBA200007 = some (.trap ⟨false, 7⟩) ∧
  decodeFibre 0xBA400001 = some (.brk ⟨false, 1⟩) ∧
  decodeFibre 0xBB000082 = some (.ntfy ⟨false, 1, 2⟩) ∧
  decodeHart 0x00C5850B = some (.rfetch ⟨10, 11, 12⟩) ∧
  decodeHart 0x00C5950B = some (.xbfx ⟨10, 11, 12⟩) ∧
  decodeHart 0x00C5A50B = some (.swait ⟨10, 11, 12⟩) ∧
  decodeHart 0x00C5B50B = some (.disp ⟨10, 11, 12⟩) ∧
  decodeFibre 0x00000000 = none ∧ decodeFibre 0x26000000 = none ∧ decodeFibre 0x27000000 = none
end

