-- ==== Sys2Proof/Laws/State.lean ====
section
/-!
SUPPORT. What each named update of the machine, of a group and of a block leaves of every field: one lemma for each
field and update, true by unfolding, so that no later proof unfolds a record update.
-/
namespace Sys2Proof.Machine

/-! ### The machine -/

@[simp] theorem State.setGroup_schedule (s : State) (g : Nat) (x : Group) : (s.setGroup g x).schedule = s.schedule := rfl
@[simp] theorem State.setGroup_free (s : State) (g : Nat) (x : Group) : (s.setGroup g x).free = s.free := rfl
@[simp] theorem State.setGroup_cur (s : State) (g : Nat) (x : Group) : (s.setGroup g x).cur = s.cur := rfl
@[simp] theorem State.setGroup_hart (s : State) (g : Nat) (x : Group) : (s.setGroup g x).hart = s.hart := rfl
@[simp] theorem State.setGroup_word (s : State) (g : Nat) (x : Group) : (s.setGroup g x).word = s.word := rfl
@[simp] theorem State.setGroup_wordOff (s : State) (g : Nat) (x : Group) : (s.setGroup g x).wordOff = s.wordOff := rfl
@[simp] theorem State.setGroup_tsc (s : State) (g : Nat) (x : Group) : (s.setGroup g x).tsc = s.tsc := rfl
@[simp] theorem State.setGroup_nextId (s : State) (g : Nat) (x : Group) : (s.setGroup g x).nextId = s.nextId := rfl
@[simp] theorem State.setGroup_mem (s : State) (g : Nat) (x : Group) : (s.setGroup g x).mem = s.mem := rfl
@[simp] theorem State.setGroup_errors (s : State) (g : Nat) (x : Group) : (s.setGroup g x).errors = s.errors := rfl
@[simp] theorem State.setGroup_ord (s : State) (g : Nat) (x : Group) : (s.setGroup g x).ord = s.ord := rfl
@[simp] theorem State.setGroup_cached (s : State) (g : Nat) (x : Group) : (s.setGroup g x).cached = s.cached := rfl
@[simp] theorem State.setGroup_compPages (s : State) (g : Nat) (x : Group) : (s.setGroup g x).compPages = s.compPages := rfl
@[simp] theorem State.setGroup_groups (s : State) (g : Nat) (x : Group) : (s.setGroup g x).groups = Tab.put s.groups g x := rfl
@[simp] theorem State.setGroup_blocks (s : State) (g : Nat) (x : Group) : (s.setGroup g x).blocks = s.blocks := rfl
@[simp] theorem State.setGroup_launches (s : State) (g : Nat) (x : Group) : (s.setGroup g x).launches = s.launches := rfl
@[simp] theorem State.setGroup_results (s : State) (g : Nat) (x : Group) : (s.setGroup g x).results = s.results := rfl
@[simp] theorem State.setGroup_held (s : State) (g : Nat) (x : Group) : (s.setGroup g x).held = s.held := rfl
@[simp] theorem State.setGroup_reports (s : State) (g : Nat) (x : Group) : (s.setGroup g x).reports = s.reports := rfl
@[simp] theorem State.setGroup_log (s : State) (g : Nat) (x : Group) : (s.setGroup g x).log = s.log := rfl
@[simp] theorem State.setGroup_sliceOps (s : State) (g : Nat) (x : Group) : (s.setGroup g x).sliceOps = s.sliceOps := rfl
@[simp] theorem State.setGroup_portUnits (s : State) (g : Nat) (x : Group) : (s.setGroup g x).portUnits = s.portUnits := rfl
@[simp] theorem State.setGroup_bankGen (s : State) (g : Nat) (x : Group) : (s.setGroup g x).bankGen = s.bankGen := rfl
@[simp] theorem State.setGroup_bankState (s : State) (g : Nat) (x : Group) : (s.setGroup g x).bankState = s.bankState := rfl
@[simp] theorem State.setGroup_resTable (s : State) (g : Nat) (x : Group) : (s.setGroup g x).resTable = s.resTable := rfl
@[simp] theorem State.setGroup_drains (s : State) (g : Nat) (x : Group) : (s.setGroup g x).drains = s.drains := rfl
@[simp] theorem State.setGroup_deliveries (s : State) (g : Nat) (x : Group) : (s.setGroup g x).deliveries = s.deliveries := rfl
@[simp] theorem State.setGroup_copies (s : State) (g : Nat) (x : Group) : (s.setGroup g x).copies = s.copies := rfl
@[simp] theorem State.setGroup_matOps (s : State) (g : Nat) (x : Group) : (s.setGroup g x).matOps = s.matOps := rfl
@[simp] theorem State.setGroup_rays (s : State) (g : Nat) (x : Group) : (s.setGroup g x).rays = s.rays := rfl
@[simp] theorem State.setGroup_passes (s : State) (g : Nat) (x : Group) : (s.setGroup g x).passes = s.passes := rfl
@[simp] theorem State.setGroup_heads (s : State) (g : Nat) (x : Group) : (s.setGroup g x).heads = s.heads := rfl
@[simp] theorem State.setGroup_cvClosed (s : State) (g : Nat) (x : Group) : (s.setGroup g x).cvClosed = s.cvClosed := rfl
@[simp] theorem State.setGroup_queues (s : State) (g : Nat) (x : Group) : (s.setGroup g x).queues = s.queues := rfl
@[simp] theorem State.setGroup_rings (s : State) (g : Nat) (x : Group) : (s.setGroup g x).rings = s.rings := rfl
@[simp] theorem State.setGroup_harts (s : State) (g : Nat) (x : Group) : (s.setGroup g x).harts = s.harts := rfl
@[simp] theorem State.setGroup_signals (s : State) (g : Nat) (x : Group) : (s.setGroup g x).signals = s.signals := rfl
@[simp] theorem State.setGroup_clusterInputs (s : State) (g : Nat) (x : Group) : (s.setGroup g x).clusterInputs = s.clusterInputs := rfl
@[simp] theorem State.setGroup_cores (s : State) (g : Nat) (x : Group) : (s.setGroup g x).cores = s.cores := rfl
@[simp] theorem State.setGroup_notify (s : State) (g : Nat) (x : Group) : (s.setGroup g x).notify = s.notify := rfl
@[simp] theorem State.setGroup_notifyWrites (s : State) (g : Nat) (x : Group) : (s.setGroup g x).notifyWrites = s.notifyWrites := rfl
@[simp] theorem State.setGroup_power (s : State) (g : Nat) (x : Group) : (s.setGroup g x).power = s.power := rfl
@[simp] theorem State.setGroup_status (s : State) (g : Nat) (x : Group) : (s.setGroup g x).status = s.status := rfl
@[simp] theorem State.setGroup_migrations (s : State) (g : Nat) (x : Group) : (s.setGroup g x).migrations = s.migrations := rfl
@[simp] theorem State.setGroup_fabric (s : State) (g : Nat) (x : Group) : (s.setGroup g x).fabric = s.fabric := rfl
@[simp] theorem State.setGroup_golden (s : State) (g : Nat) (x : Group) : (s.setGroup g x).golden = s.golden := rfl
@[simp] theorem State.setGroup_hostSaw (s : State) (g : Nat) (x : Group) : (s.setGroup g x).hostSaw = s.hostSaw := rfl
@[simp] theorem State.setGroup_spdm (s : State) (g : Nat) (x : Group) : (s.setGroup g x).spdm = s.spdm := rfl

@[simp] theorem State.modGroup_schedule (s : State) (g : Nat) (f : Group → Group) : (s.modGroup g f).schedule = s.schedule := rfl
@[simp] theorem State.modGroup_free (s : State) (g : Nat) (f : Group → Group) : (s.modGroup g f).free = s.free := rfl
@[simp] theorem State.modGroup_cur (s : State) (g : Nat) (f : Group → Group) : (s.modGroup g f).cur = s.cur := rfl
@[simp] theorem State.modGroup_hart (s : State) (g : Nat) (f : Group → Group) : (s.modGroup g f).hart = s.hart := rfl
@[simp] theorem State.modGroup_word (s : State) (g : Nat) (f : Group → Group) : (s.modGroup g f).word = s.word := rfl
@[simp] theorem State.modGroup_wordOff (s : State) (g : Nat) (f : Group → Group) : (s.modGroup g f).wordOff = s.wordOff := rfl
@[simp] theorem State.modGroup_tsc (s : State) (g : Nat) (f : Group → Group) : (s.modGroup g f).tsc = s.tsc := rfl
@[simp] theorem State.modGroup_nextId (s : State) (g : Nat) (f : Group → Group) : (s.modGroup g f).nextId = s.nextId := rfl
@[simp] theorem State.modGroup_mem (s : State) (g : Nat) (f : Group → Group) : (s.modGroup g f).mem = s.mem := rfl
@[simp] theorem State.modGroup_errors (s : State) (g : Nat) (f : Group → Group) : (s.modGroup g f).errors = s.errors := rfl
@[simp] theorem State.modGroup_ord (s : State) (g : Nat) (f : Group → Group) : (s.modGroup g f).ord = s.ord := rfl
@[simp] theorem State.modGroup_cached (s : State) (g : Nat) (f : Group → Group) : (s.modGroup g f).cached = s.cached := rfl
@[simp] theorem State.modGroup_compPages (s : State) (g : Nat) (f : Group → Group) : (s.modGroup g f).compPages = s.compPages := rfl
@[simp] theorem State.modGroup_groups (s : State) (g : Nat) (f : Group → Group) : (s.modGroup g f).groups = Tab.modify s.groups g f := rfl
@[simp] theorem State.modGroup_blocks (s : State) (g : Nat) (f : Group → Group) : (s.modGroup g f).blocks = s.blocks := rfl
@[simp] theorem State.modGroup_launches (s : State) (g : Nat) (f : Group → Group) : (s.modGroup g f).launches = s.launches := rfl
@[simp] theorem State.modGroup_results (s : State) (g : Nat) (f : Group → Group) : (s.modGroup g f).results = s.results := rfl
@[simp] theorem State.modGroup_held (s : State) (g : Nat) (f : Group → Group) : (s.modGroup g f).held = s.held := rfl
@[simp] theorem State.modGroup_reports (s : State) (g : Nat) (f : Group → Group) : (s.modGroup g f).reports = s.reports := rfl
@[simp] theorem State.modGroup_log (s : State) (g : Nat) (f : Group → Group) : (s.modGroup g f).log = s.log := rfl
@[simp] theorem State.modGroup_sliceOps (s : State) (g : Nat) (f : Group → Group) : (s.modGroup g f).sliceOps = s.sliceOps := rfl
@[simp] theorem State.modGroup_portUnits (s : State) (g : Nat) (f : Group → Group) : (s.modGroup g f).portUnits = s.portUnits := rfl
@[simp] theorem State.modGroup_bankGen (s : State) (g : Nat) (f : Group → Group) : (s.modGroup g f).bankGen = s.bankGen := rfl
@[simp] theorem State.modGroup_bankState (s : State) (g : Nat) (f : Group → Group) : (s.modGroup g f).bankState = s.bankState := rfl
@[simp] theorem State.modGroup_resTable (s : State) (g : Nat) (f : Group → Group) : (s.modGroup g f).resTable = s.resTable := rfl
@[simp] theorem State.modGroup_drains (s : State) (g : Nat) (f : Group → Group) : (s.modGroup g f).drains = s.drains := rfl
@[simp] theorem State.modGroup_deliveries (s : State) (g : Nat) (f : Group → Group) : (s.modGroup g f).deliveries = s.deliveries := rfl
@[simp] theorem State.modGroup_copies (s : State) (g : Nat) (f : Group → Group) : (s.modGroup g f).copies = s.copies := rfl
@[simp] theorem State.modGroup_matOps (s : State) (g : Nat) (f : Group → Group) : (s.modGroup g f).matOps = s.matOps := rfl
@[simp] theorem State.modGroup_rays (s : State) (g : Nat) (f : Group → Group) : (s.modGroup g f).rays = s.rays := rfl
@[simp] theorem State.modGroup_passes (s : State) (g : Nat) (f : Group → Group) : (s.modGroup g f).passes = s.passes := rfl
@[simp] theorem State.modGroup_heads (s : State) (g : Nat) (f : Group → Group) : (s.modGroup g f).heads = s.heads := rfl
@[simp] theorem State.modGroup_cvClosed (s : State) (g : Nat) (f : Group → Group) : (s.modGroup g f).cvClosed = s.cvClosed := rfl
@[simp] theorem State.modGroup_queues (s : State) (g : Nat) (f : Group → Group) : (s.modGroup g f).queues = s.queues := rfl
@[simp] theorem State.modGroup_rings (s : State) (g : Nat) (f : Group → Group) : (s.modGroup g f).rings = s.rings := rfl
@[simp] theorem State.modGroup_harts (s : State) (g : Nat) (f : Group → Group) : (s.modGroup g f).harts = s.harts := rfl
@[simp] theorem State.modGroup_signals (s : State) (g : Nat) (f : Group → Group) : (s.modGroup g f).signals = s.signals := rfl
@[simp] theorem State.modGroup_clusterInputs (s : State) (g : Nat) (f : Group → Group) : (s.modGroup g f).clusterInputs = s.clusterInputs := rfl
@[simp] theorem State.modGroup_cores (s : State) (g : Nat) (f : Group → Group) : (s.modGroup g f).cores = s.cores := rfl
@[simp] theorem State.modGroup_notify (s : State) (g : Nat) (f : Group → Group) : (s.modGroup g f).notify = s.notify := rfl
@[simp] theorem State.modGroup_notifyWrites (s : State) (g : Nat) (f : Group → Group) : (s.modGroup g f).notifyWrites = s.notifyWrites := rfl
@[simp] theorem State.modGroup_power (s : State) (g : Nat) (f : Group → Group) : (s.modGroup g f).power = s.power := rfl
@[simp] theorem State.modGroup_status (s : State) (g : Nat) (f : Group → Group) : (s.modGroup g f).status = s.status := rfl
@[simp] theorem State.modGroup_migrations (s : State) (g : Nat) (f : Group → Group) : (s.modGroup g f).migrations = s.migrations := rfl
@[simp] theorem State.modGroup_fabric (s : State) (g : Nat) (f : Group → Group) : (s.modGroup g f).fabric = s.fabric := rfl
@[simp] theorem State.modGroup_golden (s : State) (g : Nat) (f : Group → Group) : (s.modGroup g f).golden = s.golden := rfl
@[simp] theorem State.modGroup_hostSaw (s : State) (g : Nat) (f : Group → Group) : (s.modGroup g f).hostSaw = s.hostSaw := rfl
@[simp] theorem State.modGroup_spdm (s : State) (g : Nat) (f : Group → Group) : (s.modGroup g f).spdm = s.spdm := rfl

@[simp] theorem State.modBlock_schedule (s : State) (b : Nat) (f : Block → Block) : (s.modBlock b f).schedule = s.schedule := rfl
@[simp] theorem State.modBlock_free (s : State) (b : Nat) (f : Block → Block) : (s.modBlock b f).free = s.free := rfl
@[simp] theorem State.modBlock_cur (s : State) (b : Nat) (f : Block → Block) : (s.modBlock b f).cur = s.cur := rfl
@[simp] theorem State.modBlock_hart (s : State) (b : Nat) (f : Block → Block) : (s.modBlock b f).hart = s.hart := rfl
@[simp] theorem State.modBlock_word (s : State) (b : Nat) (f : Block → Block) : (s.modBlock b f).word = s.word := rfl
@[simp] theorem State.modBlock_wordOff (s : State) (b : Nat) (f : Block → Block) : (s.modBlock b f).wordOff = s.wordOff := rfl
@[simp] theorem State.modBlock_tsc (s : State) (b : Nat) (f : Block → Block) : (s.modBlock b f).tsc = s.tsc := rfl
@[simp] theorem State.modBlock_nextId (s : State) (b : Nat) (f : Block → Block) : (s.modBlock b f).nextId = s.nextId := rfl
@[simp] theorem State.modBlock_mem (s : State) (b : Nat) (f : Block → Block) : (s.modBlock b f).mem = s.mem := rfl
@[simp] theorem State.modBlock_errors (s : State) (b : Nat) (f : Block → Block) : (s.modBlock b f).errors = s.errors := rfl
@[simp] theorem State.modBlock_ord (s : State) (b : Nat) (f : Block → Block) : (s.modBlock b f).ord = s.ord := rfl
@[simp] theorem State.modBlock_cached (s : State) (b : Nat) (f : Block → Block) : (s.modBlock b f).cached = s.cached := rfl
@[simp] theorem State.modBlock_compPages (s : State) (b : Nat) (f : Block → Block) : (s.modBlock b f).compPages = s.compPages := rfl
@[simp] theorem State.modBlock_groups (s : State) (b : Nat) (f : Block → Block) : (s.modBlock b f).groups = s.groups := rfl
@[simp] theorem State.modBlock_blocks (s : State) (b : Nat) (f : Block → Block) : (s.modBlock b f).blocks = Tab.modify s.blocks b f := rfl
@[simp] theorem State.modBlock_launches (s : State) (b : Nat) (f : Block → Block) : (s.modBlock b f).launches = s.launches := rfl
@[simp] theorem State.modBlock_results (s : State) (b : Nat) (f : Block → Block) : (s.modBlock b f).results = s.results := rfl
@[simp] theorem State.modBlock_held (s : State) (b : Nat) (f : Block → Block) : (s.modBlock b f).held = s.held := rfl
@[simp] theorem State.modBlock_reports (s : State) (b : Nat) (f : Block → Block) : (s.modBlock b f).reports = s.reports := rfl
@[simp] theorem State.modBlock_log (s : State) (b : Nat) (f : Block → Block) : (s.modBlock b f).log = s.log := rfl
@[simp] theorem State.modBlock_sliceOps (s : State) (b : Nat) (f : Block → Block) : (s.modBlock b f).sliceOps = s.sliceOps := rfl
@[simp] theorem State.modBlock_portUnits (s : State) (b : Nat) (f : Block → Block) : (s.modBlock b f).portUnits = s.portUnits := rfl
@[simp] theorem State.modBlock_bankGen (s : State) (b : Nat) (f : Block → Block) : (s.modBlock b f).bankGen = s.bankGen := rfl
@[simp] theorem State.modBlock_bankState (s : State) (b : Nat) (f : Block → Block) : (s.modBlock b f).bankState = s.bankState := rfl
@[simp] theorem State.modBlock_resTable (s : State) (b : Nat) (f : Block → Block) : (s.modBlock b f).resTable = s.resTable := rfl
@[simp] theorem State.modBlock_drains (s : State) (b : Nat) (f : Block → Block) : (s.modBlock b f).drains = s.drains := rfl
@[simp] theorem State.modBlock_deliveries (s : State) (b : Nat) (f : Block → Block) : (s.modBlock b f).deliveries = s.deliveries := rfl
@[simp] theorem State.modBlock_copies (s : State) (b : Nat) (f : Block → Block) : (s.modBlock b f).copies = s.copies := rfl
@[simp] theorem State.modBlock_matOps (s : State) (b : Nat) (f : Block → Block) : (s.modBlock b f).matOps = s.matOps := rfl
@[simp] theorem State.modBlock_rays (s : State) (b : Nat) (f : Block → Block) : (s.modBlock b f).rays = s.rays := rfl
@[simp] theorem State.modBlock_passes (s : State) (b : Nat) (f : Block → Block) : (s.modBlock b f).passes = s.passes := rfl
@[simp] theorem State.modBlock_heads (s : State) (b : Nat) (f : Block → Block) : (s.modBlock b f).heads = s.heads := rfl
@[simp] theorem State.modBlock_cvClosed (s : State) (b : Nat) (f : Block → Block) : (s.modBlock b f).cvClosed = s.cvClosed := rfl
@[simp] theorem State.modBlock_queues (s : State) (b : Nat) (f : Block → Block) : (s.modBlock b f).queues = s.queues := rfl
@[simp] theorem State.modBlock_rings (s : State) (b : Nat) (f : Block → Block) : (s.modBlock b f).rings = s.rings := rfl
@[simp] theorem State.modBlock_harts (s : State) (b : Nat) (f : Block → Block) : (s.modBlock b f).harts = s.harts := rfl
@[simp] theorem State.modBlock_signals (s : State) (b : Nat) (f : Block → Block) : (s.modBlock b f).signals = s.signals := rfl
@[simp] theorem State.modBlock_clusterInputs (s : State) (b : Nat) (f : Block → Block) : (s.modBlock b f).clusterInputs = s.clusterInputs := rfl
@[simp] theorem State.modBlock_cores (s : State) (b : Nat) (f : Block → Block) : (s.modBlock b f).cores = s.cores := rfl
@[simp] theorem State.modBlock_notify (s : State) (b : Nat) (f : Block → Block) : (s.modBlock b f).notify = s.notify := rfl
@[simp] theorem State.modBlock_notifyWrites (s : State) (b : Nat) (f : Block → Block) : (s.modBlock b f).notifyWrites = s.notifyWrites := rfl
@[simp] theorem State.modBlock_power (s : State) (b : Nat) (f : Block → Block) : (s.modBlock b f).power = s.power := rfl
@[simp] theorem State.modBlock_status (s : State) (b : Nat) (f : Block → Block) : (s.modBlock b f).status = s.status := rfl
@[simp] theorem State.modBlock_migrations (s : State) (b : Nat) (f : Block → Block) : (s.modBlock b f).migrations = s.migrations := rfl
@[simp] theorem State.modBlock_fabric (s : State) (b : Nat) (f : Block → Block) : (s.modBlock b f).fabric = s.fabric := rfl
@[simp] theorem State.modBlock_golden (s : State) (b : Nat) (f : Block → Block) : (s.modBlock b f).golden = s.golden := rfl
@[simp] theorem State.modBlock_hostSaw (s : State) (b : Nat) (f : Block → Block) : (s.modBlock b f).hostSaw = s.hostSaw := rfl
@[simp] theorem State.modBlock_spdm (s : State) (b : Nat) (f : Block → Block) : (s.modBlock b f).spdm = s.spdm := rfl

@[simp] theorem State.writeHome_schedule (s : State) (k : Nat) (bs : List Byte) : (s.writeHome k bs).schedule = s.schedule := rfl
@[simp] theorem State.writeHome_free (s : State) (k : Nat) (bs : List Byte) : (s.writeHome k bs).free = s.free := rfl
@[simp] theorem State.writeHome_cur (s : State) (k : Nat) (bs : List Byte) : (s.writeHome k bs).cur = s.cur := rfl
@[simp] theorem State.writeHome_hart (s : State) (k : Nat) (bs : List Byte) : (s.writeHome k bs).hart = s.hart := rfl
@[simp] theorem State.writeHome_word (s : State) (k : Nat) (bs : List Byte) : (s.writeHome k bs).word = s.word := rfl
@[simp] theorem State.writeHome_wordOff (s : State) (k : Nat) (bs : List Byte) : (s.writeHome k bs).wordOff = s.wordOff := rfl
@[simp] theorem State.writeHome_tsc (s : State) (k : Nat) (bs : List Byte) : (s.writeHome k bs).tsc = s.tsc := rfl
@[simp] theorem State.writeHome_nextId (s : State) (k : Nat) (bs : List Byte) : (s.writeHome k bs).nextId = s.nextId := rfl
@[simp] theorem State.writeHome_mem (s : State) (k : Nat) (bs : List Byte) : (s.writeHome k bs).mem = Memory.writeBytes s.mem k bs := rfl
@[simp] theorem State.writeHome_ord (s : State) (k : Nat) (bs : List Byte) : (s.writeHome k bs).ord = s.ord := rfl
@[simp] theorem State.writeHome_cached (s : State) (k : Nat) (bs : List Byte) : (s.writeHome k bs).cached = s.cached := rfl
@[simp] theorem State.writeHome_compPages (s : State) (k : Nat) (bs : List Byte) : (s.writeHome k bs).compPages = s.compPages := rfl
@[simp] theorem State.writeHome_groups (s : State) (k : Nat) (bs : List Byte) : (s.writeHome k bs).groups = s.groups := rfl
@[simp] theorem State.writeHome_blocks (s : State) (k : Nat) (bs : List Byte) : (s.writeHome k bs).blocks = s.blocks := rfl
@[simp] theorem State.writeHome_launches (s : State) (k : Nat) (bs : List Byte) : (s.writeHome k bs).launches = s.launches := rfl
@[simp] theorem State.writeHome_results (s : State) (k : Nat) (bs : List Byte) : (s.writeHome k bs).results = s.results := rfl
@[simp] theorem State.writeHome_held (s : State) (k : Nat) (bs : List Byte) : (s.writeHome k bs).held = s.held := rfl
@[simp] theorem State.writeHome_reports (s : State) (k : Nat) (bs : List Byte) : (s.writeHome k bs).reports = s.reports := rfl
@[simp] theorem State.writeHome_log (s : State) (k : Nat) (bs : List Byte) : (s.writeHome k bs).log = s.log := rfl
@[simp] theorem State.writeHome_sliceOps (s : State) (k : Nat) (bs : List Byte) : (s.writeHome k bs).sliceOps = s.sliceOps := rfl
@[simp] theorem State.writeHome_portUnits (s : State) (k : Nat) (bs : List Byte) : (s.writeHome k bs).portUnits = s.portUnits := rfl
@[simp] theorem State.writeHome_bankGen (s : State) (k : Nat) (bs : List Byte) : (s.writeHome k bs).bankGen = s.bankGen := rfl
@[simp] theorem State.writeHome_bankState (s : State) (k : Nat) (bs : List Byte) : (s.writeHome k bs).bankState = s.bankState := rfl
@[simp] theorem State.writeHome_resTable (s : State) (k : Nat) (bs : List Byte) : (s.writeHome k bs).resTable = s.resTable := rfl
@[simp] theorem State.writeHome_drains (s : State) (k : Nat) (bs : List Byte) : (s.writeHome k bs).drains = s.drains := rfl
@[simp] theorem State.writeHome_deliveries (s : State) (k : Nat) (bs : List Byte) : (s.writeHome k bs).deliveries = s.deliveries := rfl
@[simp] theorem State.writeHome_copies (s : State) (k : Nat) (bs : List Byte) : (s.writeHome k bs).copies = s.copies := rfl
@[simp] theorem State.writeHome_matOps (s : State) (k : Nat) (bs : List Byte) : (s.writeHome k bs).matOps = s.matOps := rfl
@[simp] theorem State.writeHome_rays (s : State) (k : Nat) (bs : List Byte) : (s.writeHome k bs).rays = s.rays := rfl
@[simp] theorem State.writeHome_passes (s : State) (k : Nat) (bs : List Byte) : (s.writeHome k bs).passes = s.passes := rfl
@[simp] theorem State.writeHome_heads (s : State) (k : Nat) (bs : List Byte) : (s.writeHome k bs).heads = s.heads := rfl
@[simp] theorem State.writeHome_cvClosed (s : State) (k : Nat) (bs : List Byte) : (s.writeHome k bs).cvClosed = s.cvClosed := rfl
@[simp] theorem State.writeHome_queues (s : State) (k : Nat) (bs : List Byte) : (s.writeHome k bs).queues = s.queues := rfl
@[simp] theorem State.writeHome_rings (s : State) (k : Nat) (bs : List Byte) : (s.writeHome k bs).rings = s.rings := rfl
@[simp] theorem State.writeHome_harts (s : State) (k : Nat) (bs : List Byte) : (s.writeHome k bs).harts = s.harts := rfl
@[simp] theorem State.writeHome_signals (s : State) (k : Nat) (bs : List Byte) : (s.writeHome k bs).signals = s.signals := rfl
@[simp] theorem State.writeHome_clusterInputs (s : State) (k : Nat) (bs : List Byte) : (s.writeHome k bs).clusterInputs = s.clusterInputs := rfl
@[simp] theorem State.writeHome_cores (s : State) (k : Nat) (bs : List Byte) : (s.writeHome k bs).cores = s.cores := rfl
@[simp] theorem State.writeHome_notify (s : State) (k : Nat) (bs : List Byte) : (s.writeHome k bs).notify = s.notify := rfl
@[simp] theorem State.writeHome_notifyWrites (s : State) (k : Nat) (bs : List Byte) : (s.writeHome k bs).notifyWrites = s.notifyWrites := rfl
@[simp] theorem State.writeHome_power (s : State) (k : Nat) (bs : List Byte) : (s.writeHome k bs).power = s.power := rfl
@[simp] theorem State.writeHome_status (s : State) (k : Nat) (bs : List Byte) : (s.writeHome k bs).status = s.status := rfl
@[simp] theorem State.writeHome_migrations (s : State) (k : Nat) (bs : List Byte) : (s.writeHome k bs).migrations = s.migrations := rfl
@[simp] theorem State.writeHome_fabric (s : State) (k : Nat) (bs : List Byte) : (s.writeHome k bs).fabric = s.fabric := rfl
@[simp] theorem State.writeHome_golden (s : State) (k : Nat) (bs : List Byte) : (s.writeHome k bs).golden = s.golden := rfl
@[simp] theorem State.writeHome_hostSaw (s : State) (k : Nat) (bs : List Byte) : (s.writeHome k bs).hostSaw = s.hostSaw := rfl
@[simp] theorem State.writeHome_spdm (s : State) (k : Nat) (bs : List Byte) : (s.writeHome k bs).spdm = s.spdm := rfl

@[simp] theorem State.setCore_schedule (s : State) (c : Nat) (x : Core) : (s.setCore c x).schedule = s.schedule := rfl
@[simp] theorem State.setCore_free (s : State) (c : Nat) (x : Core) : (s.setCore c x).free = s.free := rfl
@[simp] theorem State.setCore_cur (s : State) (c : Nat) (x : Core) : (s.setCore c x).cur = s.cur := rfl
@[simp] theorem State.setCore_hart (s : State) (c : Nat) (x : Core) : (s.setCore c x).hart = s.hart := rfl
@[simp] theorem State.setCore_word (s : State) (c : Nat) (x : Core) : (s.setCore c x).word = s.word := rfl
@[simp] theorem State.setCore_wordOff (s : State) (c : Nat) (x : Core) : (s.setCore c x).wordOff = s.wordOff := rfl
@[simp] theorem State.setCore_tsc (s : State) (c : Nat) (x : Core) : (s.setCore c x).tsc = s.tsc := rfl
@[simp] theorem State.setCore_nextId (s : State) (c : Nat) (x : Core) : (s.setCore c x).nextId = s.nextId := rfl
@[simp] theorem State.setCore_mem (s : State) (c : Nat) (x : Core) : (s.setCore c x).mem = s.mem := rfl
@[simp] theorem State.setCore_errors (s : State) (c : Nat) (x : Core) : (s.setCore c x).errors = s.errors := rfl
@[simp] theorem State.setCore_ord (s : State) (c : Nat) (x : Core) : (s.setCore c x).ord = s.ord := rfl
@[simp] theorem State.setCore_cached (s : State) (c : Nat) (x : Core) : (s.setCore c x).cached = s.cached := rfl
@[simp] theorem State.setCore_compPages (s : State) (c : Nat) (x : Core) : (s.setCore c x).compPages = s.compPages := rfl
@[simp] theorem State.setCore_groups (s : State) (c : Nat) (x : Core) : (s.setCore c x).groups = s.groups := rfl
@[simp] theorem State.setCore_blocks (s : State) (c : Nat) (x : Core) : (s.setCore c x).blocks = s.blocks := rfl
@[simp] theorem State.setCore_launches (s : State) (c : Nat) (x : Core) : (s.setCore c x).launches = s.launches := rfl
@[simp] theorem State.setCore_results (s : State) (c : Nat) (x : Core) : (s.setCore c x).results = s.results := rfl
@[simp] theorem State.setCore_held (s : State) (c : Nat) (x : Core) : (s.setCore c x).held = s.held := rfl
@[simp] theorem State.setCore_reports (s : State) (c : Nat) (x : Core) : (s.setCore c x).reports = s.reports := rfl
@[simp] theorem State.setCore_log (s : State) (c : Nat) (x : Core) : (s.setCore c x).log = s.log := rfl
@[simp] theorem State.setCore_sliceOps (s : State) (c : Nat) (x : Core) : (s.setCore c x).sliceOps = s.sliceOps := rfl
@[simp] theorem State.setCore_portUnits (s : State) (c : Nat) (x : Core) : (s.setCore c x).portUnits = s.portUnits := rfl
@[simp] theorem State.setCore_bankGen (s : State) (c : Nat) (x : Core) : (s.setCore c x).bankGen = s.bankGen := rfl
@[simp] theorem State.setCore_bankState (s : State) (c : Nat) (x : Core) : (s.setCore c x).bankState = s.bankState := rfl
@[simp] theorem State.setCore_resTable (s : State) (c : Nat) (x : Core) : (s.setCore c x).resTable = s.resTable := rfl
@[simp] theorem State.setCore_drains (s : State) (c : Nat) (x : Core) : (s.setCore c x).drains = s.drains := rfl
@[simp] theorem State.setCore_deliveries (s : State) (c : Nat) (x : Core) : (s.setCore c x).deliveries = s.deliveries := rfl
@[simp] theorem State.setCore_copies (s : State) (c : Nat) (x : Core) : (s.setCore c x).copies = s.copies := rfl
@[simp] theorem State.setCore_matOps (s : State) (c : Nat) (x : Core) : (s.setCore c x).matOps = s.matOps := rfl
@[simp] theorem State.setCore_rays (s : State) (c : Nat) (x : Core) : (s.setCore c x).rays = s.rays := rfl
@[simp] theorem State.setCore_passes (s : State) (c : Nat) (x : Core) : (s.setCore c x).passes = s.passes := rfl
@[simp] theorem State.setCore_heads (s : State) (c : Nat) (x : Core) : (s.setCore c x).heads = s.heads := rfl
@[simp] theorem State.setCore_cvClosed (s : State) (c : Nat) (x : Core) : (s.setCore c x).cvClosed = s.cvClosed := rfl
@[simp] theorem State.setCore_queues (s : State) (c : Nat) (x : Core) : (s.setCore c x).queues = s.queues := rfl
@[simp] theorem State.setCore_rings (s : State) (c : Nat) (x : Core) : (s.setCore c x).rings = s.rings := rfl
@[simp] theorem State.setCore_harts (s : State) (c : Nat) (x : Core) : (s.setCore c x).harts = s.harts := rfl
@[simp] theorem State.setCore_signals (s : State) (c : Nat) (x : Core) : (s.setCore c x).signals = s.signals := rfl
@[simp] theorem State.setCore_clusterInputs (s : State) (c : Nat) (x : Core) : (s.setCore c x).clusterInputs = s.clusterInputs := rfl
@[simp] theorem State.setCore_cores (s : State) (c : Nat) (x : Core) : (s.setCore c x).cores = Tab.store Core.init s.cores c x := rfl
@[simp] theorem State.setCore_notify (s : State) (c : Nat) (x : Core) : (s.setCore c x).notify = s.notify := rfl
@[simp] theorem State.setCore_notifyWrites (s : State) (c : Nat) (x : Core) : (s.setCore c x).notifyWrites = s.notifyWrites := rfl
@[simp] theorem State.setCore_power (s : State) (c : Nat) (x : Core) : (s.setCore c x).power = s.power := rfl
@[simp] theorem State.setCore_status (s : State) (c : Nat) (x : Core) : (s.setCore c x).status = s.status := rfl
@[simp] theorem State.setCore_migrations (s : State) (c : Nat) (x : Core) : (s.setCore c x).migrations = s.migrations := rfl
@[simp] theorem State.setCore_fabric (s : State) (c : Nat) (x : Core) : (s.setCore c x).fabric = s.fabric := rfl
@[simp] theorem State.setCore_golden (s : State) (c : Nat) (x : Core) : (s.setCore c x).golden = s.golden := rfl
@[simp] theorem State.setCore_hostSaw (s : State) (c : Nat) (x : Core) : (s.setCore c x).hostSaw = s.hostSaw := rfl
@[simp] theorem State.setCore_spdm (s : State) (c : Nat) (x : Core) : (s.setCore c x).spdm = s.spdm := rfl

/-! ### Groups -/

@[simp] theorem Group.setReg_block (x : Group) (l r : Nat) (v : Word) : (x.setReg l r v).block = x.block := rfl
@[simp] theorem Group.setReg_num (x : Group) (l r : Nat) (v : Word) : (x.setReg l r v).num = x.num := rfl
@[simp] theorem Group.setReg_core (x : Group) (l r : Nat) (v : Word) : (x.setReg l r v).core = x.core := rfl
@[simp] theorem Group.setReg_part (x : Group) (l r : Nat) (v : Word) : (x.setReg l r v).part = x.part := rfl
@[simp] theorem Group.setReg_row (x : Group) (l r : Nat) (v : Word) : (x.setReg l r v).row = x.row := rfl
@[simp] theorem Group.setReg_first (x : Group) (l r : Nat) (v : Word) : (x.setReg l r v).first = x.first := rfl
@[simp] theorem Group.setReg_width (x : Group) (l r : Nat) (v : Word) : (x.setReg l r v).width = x.width := rfl
@[simp] theorem Group.setReg_wbase (x : Group) (l r : Nat) (v : Word) : (x.setReg l r v).wbase = x.wbase := rfl
@[simp] theorem Group.setReg_wsize (x : Group) (l r : Nat) (v : Word) : (x.setReg l r v).wsize = x.wsize := rfl
@[simp] theorem Group.setReg_regs (x : Group) (l r : Nat) (v : Word) : (x.setReg l r v).regs = Tab.store 0 x.regs (regKey l r) v := rfl
@[simp] theorem Group.setReg_pend (x : Group) (l r : Nat) (v : Word) : (x.setReg l r v).pend = x.pend := rfl
@[simp] theorem Group.setReg_bad (x : Group) (l r : Nat) (v : Word) : (x.setReg l r v).bad = x.bad.filter (· != regKey l r) := rfl
@[simp] theorem Group.setReg_badResult (x : Group) (l r : Nat) (v : Word) : (x.setReg l r v).badResult = x.badResult := rfl
@[simp] theorem Group.setReg_fibres (x : Group) (l r : Nat) (v : Word) : (x.setReg l r v).fibres = x.fibres := rfl
@[simp] theorem Group.setReg_current (x : Group) (l r : Nat) (v : Word) : (x.setReg l r v).current = x.current := rfl
@[simp] theorem Group.setReg_waiting (x : Group) (l r : Nat) (v : Word) : (x.setReg l r v).waiting = x.waiting := rfl
@[simp] theorem Group.setReg_issues (x : Group) (l r : Nat) (v : Word) : (x.setReg l r v).issues = x.issues := rfl
@[simp] theorem Group.setReg_fcause (x : Group) (l r : Nat) (v : Word) : (x.setReg l r v).fcause = x.fcause := rfl
@[simp] theorem Group.setReg_fpc (x : Group) (l r : Nat) (v : Word) : (x.setReg l r v).fpc = x.fpc := rfl
@[simp] theorem Group.setReg_fpcHi (x : Group) (l r : Nat) (v : Word) : (x.setReg l r v).fpcHi = x.fpcHi := rfl
@[simp] theorem Group.setReg_ftime (x : Group) (l r : Nat) (v : Word) : (x.setReg l r v).ftime = x.ftime := rfl
@[simp] theorem Group.setReg_ftimeHi (x : Group) (l r : Nat) (v : Word) : (x.setReg l r v).ftimeHi = x.ftimeHi := rfl
@[simp] theorem Group.setReg_xops (x : Group) (l r : Nat) (v : Word) : (x.setReg l r v).xops = x.xops := rfl
@[simp] theorem Group.setReg_fops (x : Group) (l r : Nat) (v : Word) : (x.setReg l r v).fops = x.fops := rfl
@[simp] theorem Group.setReg_faults (x : Group) (l r : Nat) (v : Word) : (x.setReg l r v).faults = x.faults := rfl
@[simp] theorem Group.setReg_tags (x : Group) (l r : Nat) (v : Word) : (x.setReg l r v).tags = x.tags := rfl
@[simp] theorem Group.setReg_hold (x : Group) (l r : Nat) (v : Word) : (x.setReg l r v).hold = x.hold := rfl
@[simp] theorem Group.setReg_runAhead (x : Group) (l r : Nat) (v : Word) : (x.setReg l r v).runAhead = x.runAhead := rfl
@[simp] theorem Group.setReg_rasterPass (x : Group) (l r : Nat) (v : Word) : (x.setReg l r v).rasterPass = x.rasterPass := rfl
@[simp] theorem Group.setReg_rasterBatch (x : Group) (l r : Nat) (v : Word) : (x.setReg l r v).rasterBatch = x.rasterBatch := rfl
@[simp] theorem Group.setReg_pixels (x : Group) (l r : Nat) (v : Word) : (x.setReg l r v).pixels = x.pixels := rfl
@[simp] theorem Group.setReg_repeating (x : Group) (l r : Nat) (v : Word) : (x.setReg l r v).repeating = x.repeating := rfl

@[simp] theorem Group.mapFibres_block (x : Group) (m : Mask) (f : Fibre → Fibre) : (x.mapFibres m f).block = x.block := rfl
@[simp] theorem Group.mapFibres_num (x : Group) (m : Mask) (f : Fibre → Fibre) : (x.mapFibres m f).num = x.num := rfl
@[simp] theorem Group.mapFibres_core (x : Group) (m : Mask) (f : Fibre → Fibre) : (x.mapFibres m f).core = x.core := rfl
@[simp] theorem Group.mapFibres_part (x : Group) (m : Mask) (f : Fibre → Fibre) : (x.mapFibres m f).part = x.part := rfl
@[simp] theorem Group.mapFibres_row (x : Group) (m : Mask) (f : Fibre → Fibre) : (x.mapFibres m f).row = x.row := rfl
@[simp] theorem Group.mapFibres_first (x : Group) (m : Mask) (f : Fibre → Fibre) : (x.mapFibres m f).first = x.first := rfl
@[simp] theorem Group.mapFibres_width (x : Group) (m : Mask) (f : Fibre → Fibre) : (x.mapFibres m f).width = x.width := rfl
@[simp] theorem Group.mapFibres_wbase (x : Group) (m : Mask) (f : Fibre → Fibre) : (x.mapFibres m f).wbase = x.wbase := rfl
@[simp] theorem Group.mapFibres_wsize (x : Group) (m : Mask) (f : Fibre → Fibre) : (x.mapFibres m f).wsize = x.wsize := rfl
@[simp] theorem Group.mapFibres_regs (x : Group) (m : Mask) (f : Fibre → Fibre) : (x.mapFibres m f).regs = x.regs := rfl
@[simp] theorem Group.mapFibres_pend (x : Group) (m : Mask) (f : Fibre → Fibre) : (x.mapFibres m f).pend = x.pend := rfl
@[simp] theorem Group.mapFibres_bad (x : Group) (m : Mask) (f : Fibre → Fibre) : (x.mapFibres m f).bad = x.bad := rfl
@[simp] theorem Group.mapFibres_badResult (x : Group) (m : Mask) (f : Fibre → Fibre) : (x.mapFibres m f).badResult = x.badResult := rfl
@[simp] theorem Group.mapFibres_fibres (x : Group) (m : Mask) (f : Fibre → Fibre) : (x.mapFibres m f).fibres = x.fibres.map fun p => if m.getLsbD p.1 then (p.1, f p.2) else p := rfl
@[simp] theorem Group.mapFibres_current (x : Group) (m : Mask) (f : Fibre → Fibre) : (x.mapFibres m f).current = x.current := rfl
@[simp] theorem Group.mapFibres_waiting (x : Group) (m : Mask) (f : Fibre → Fibre) : (x.mapFibres m f).waiting = x.waiting := rfl
@[simp] theorem Group.mapFibres_issues (x : Group) (m : Mask) (f : Fibre → Fibre) : (x.mapFibres m f).issues = x.issues := rfl
@[simp] theorem Group.mapFibres_fcause (x : Group) (m : Mask) (f : Fibre → Fibre) : (x.mapFibres m f).fcause = x.fcause := rfl
@[simp] theorem Group.mapFibres_fpc (x : Group) (m : Mask) (f : Fibre → Fibre) : (x.mapFibres m f).fpc = x.fpc := rfl
@[simp] theorem Group.mapFibres_fpcHi (x : Group) (m : Mask) (f : Fibre → Fibre) : (x.mapFibres m f).fpcHi = x.fpcHi := rfl
@[simp] theorem Group.mapFibres_ftime (x : Group) (m : Mask) (f : Fibre → Fibre) : (x.mapFibres m f).ftime = x.ftime := rfl
@[simp] theorem Group.mapFibres_ftimeHi (x : Group) (m : Mask) (f : Fibre → Fibre) : (x.mapFibres m f).ftimeHi = x.ftimeHi := rfl
@[simp] theorem Group.mapFibres_xops (x : Group) (m : Mask) (f : Fibre → Fibre) : (x.mapFibres m f).xops = x.xops := rfl
@[simp] theorem Group.mapFibres_fops (x : Group) (m : Mask) (f : Fibre → Fibre) : (x.mapFibres m f).fops = x.fops := rfl
@[simp] theorem Group.mapFibres_faults (x : Group) (m : Mask) (f : Fibre → Fibre) : (x.mapFibres m f).faults = x.faults := rfl
@[simp] theorem Group.mapFibres_tags (x : Group) (m : Mask) (f : Fibre → Fibre) : (x.mapFibres m f).tags = x.tags := rfl
@[simp] theorem Group.mapFibres_hold (x : Group) (m : Mask) (f : Fibre → Fibre) : (x.mapFibres m f).hold = x.hold := rfl
@[simp] theorem Group.mapFibres_runAhead (x : Group) (m : Mask) (f : Fibre → Fibre) : (x.mapFibres m f).runAhead = x.runAhead := rfl
@[simp] theorem Group.mapFibres_rasterPass (x : Group) (m : Mask) (f : Fibre → Fibre) : (x.mapFibres m f).rasterPass = x.rasterPass := rfl
@[simp] theorem Group.mapFibres_rasterBatch (x : Group) (m : Mask) (f : Fibre → Fibre) : (x.mapFibres m f).rasterBatch = x.rasterBatch := rfl
@[simp] theorem Group.mapFibres_pixels (x : Group) (m : Mask) (f : Fibre → Fibre) : (x.mapFibres m f).pixels = x.pixels := rfl
@[simp] theorem Group.mapFibres_repeating (x : Group) (m : Mask) (f : Fibre → Fibre) : (x.mapFibres m f).repeating = x.repeating := rfl

@[simp] theorem Group.modFibre_block (x : Group) (l : Nat) (f : Fibre → Fibre) : (x.modFibre l f).block = x.block := rfl
@[simp] theorem Group.modFibre_num (x : Group) (l : Nat) (f : Fibre → Fibre) : (x.modFibre l f).num = x.num := rfl
@[simp] theorem Group.modFibre_core (x : Group) (l : Nat) (f : Fibre → Fibre) : (x.modFibre l f).core = x.core := rfl
@[simp] theorem Group.modFibre_part (x : Group) (l : Nat) (f : Fibre → Fibre) : (x.modFibre l f).part = x.part := rfl
@[simp] theorem Group.modFibre_row (x : Group) (l : Nat) (f : Fibre → Fibre) : (x.modFibre l f).row = x.row := rfl
@[simp] theorem Group.modFibre_first (x : Group) (l : Nat) (f : Fibre → Fibre) : (x.modFibre l f).first = x.first := rfl
@[simp] theorem Group.modFibre_width (x : Group) (l : Nat) (f : Fibre → Fibre) : (x.modFibre l f).width = x.width := rfl
@[simp] theorem Group.modFibre_wbase (x : Group) (l : Nat) (f : Fibre → Fibre) : (x.modFibre l f).wbase = x.wbase := rfl
@[simp] theorem Group.modFibre_wsize (x : Group) (l : Nat) (f : Fibre → Fibre) : (x.modFibre l f).wsize = x.wsize := rfl
@[simp] theorem Group.modFibre_regs (x : Group) (l : Nat) (f : Fibre → Fibre) : (x.modFibre l f).regs = x.regs := rfl
@[simp] theorem Group.modFibre_pend (x : Group) (l : Nat) (f : Fibre → Fibre) : (x.modFibre l f).pend = x.pend := rfl
@[simp] theorem Group.modFibre_bad (x : Group) (l : Nat) (f : Fibre → Fibre) : (x.modFibre l f).bad = x.bad := rfl
@[simp] theorem Group.modFibre_badResult (x : Group) (l : Nat) (f : Fibre → Fibre) : (x.modFibre l f).badResult = x.badResult := rfl
@[simp] theorem Group.modFibre_fibres (x : Group) (l : Nat) (f : Fibre → Fibre) : (x.modFibre l f).fibres = Tab.modify x.fibres l f := rfl
@[simp] theorem Group.modFibre_current (x : Group) (l : Nat) (f : Fibre → Fibre) : (x.modFibre l f).current = x.current := rfl
@[simp] theorem Group.modFibre_waiting (x : Group) (l : Nat) (f : Fibre → Fibre) : (x.modFibre l f).waiting = x.waiting := rfl
@[simp] theorem Group.modFibre_issues (x : Group) (l : Nat) (f : Fibre → Fibre) : (x.modFibre l f).issues = x.issues := rfl
@[simp] theorem Group.modFibre_fcause (x : Group) (l : Nat) (f : Fibre → Fibre) : (x.modFibre l f).fcause = x.fcause := rfl
@[simp] theorem Group.modFibre_fpc (x : Group) (l : Nat) (f : Fibre → Fibre) : (x.modFibre l f).fpc = x.fpc := rfl
@[simp] theorem Group.modFibre_fpcHi (x : Group) (l : Nat) (f : Fibre → Fibre) : (x.modFibre l f).fpcHi = x.fpcHi := rfl
@[simp] theorem Group.modFibre_ftime (x : Group) (l : Nat) (f : Fibre → Fibre) : (x.modFibre l f).ftime = x.ftime := rfl
@[simp] theorem Group.modFibre_ftimeHi (x : Group) (l : Nat) (f : Fibre → Fibre) : (x.modFibre l f).ftimeHi = x.ftimeHi := rfl
@[simp] theorem Group.modFibre_xops (x : Group) (l : Nat) (f : Fibre → Fibre) : (x.modFibre l f).xops = x.xops := rfl
@[simp] theorem Group.modFibre_fops (x : Group) (l : Nat) (f : Fibre → Fibre) : (x.modFibre l f).fops = x.fops := rfl
@[simp] theorem Group.modFibre_faults (x : Group) (l : Nat) (f : Fibre → Fibre) : (x.modFibre l f).faults = x.faults := rfl
@[simp] theorem Group.modFibre_tags (x : Group) (l : Nat) (f : Fibre → Fibre) : (x.modFibre l f).tags = x.tags := rfl
@[simp] theorem Group.modFibre_hold (x : Group) (l : Nat) (f : Fibre → Fibre) : (x.modFibre l f).hold = x.hold := rfl
@[simp] theorem Group.modFibre_runAhead (x : Group) (l : Nat) (f : Fibre → Fibre) : (x.modFibre l f).runAhead = x.runAhead := rfl
@[simp] theorem Group.modFibre_rasterPass (x : Group) (l : Nat) (f : Fibre → Fibre) : (x.modFibre l f).rasterPass = x.rasterPass := rfl
@[simp] theorem Group.modFibre_rasterBatch (x : Group) (l : Nat) (f : Fibre → Fibre) : (x.modFibre l f).rasterBatch = x.rasterBatch := rfl
@[simp] theorem Group.modFibre_pixels (x : Group) (l : Nat) (f : Fibre → Fibre) : (x.modFibre l f).pixels = x.pixels := rfl
@[simp] theorem Group.modFibre_repeating (x : Group) (l : Nat) (f : Fibre → Fibre) : (x.modFibre l f).repeating = x.repeating := rfl

@[simp] theorem Group.setPend_block (x : Group) (l r n : Nat) (p : Producer) : (x.setPend l r n p).block = x.block := rfl
@[simp] theorem Group.setPend_num (x : Group) (l r n : Nat) (p : Producer) : (x.setPend l r n p).num = x.num := rfl
@[simp] theorem Group.setPend_core (x : Group) (l r n : Nat) (p : Producer) : (x.setPend l r n p).core = x.core := rfl
@[simp] theorem Group.setPend_part (x : Group) (l r n : Nat) (p : Producer) : (x.setPend l r n p).part = x.part := rfl
@[simp] theorem Group.setPend_row (x : Group) (l r n : Nat) (p : Producer) : (x.setPend l r n p).row = x.row := rfl
@[simp] theorem Group.setPend_first (x : Group) (l r n : Nat) (p : Producer) : (x.setPend l r n p).first = x.first := rfl
@[simp] theorem Group.setPend_width (x : Group) (l r n : Nat) (p : Producer) : (x.setPend l r n p).width = x.width := rfl
@[simp] theorem Group.setPend_wbase (x : Group) (l r n : Nat) (p : Producer) : (x.setPend l r n p).wbase = x.wbase := rfl
@[simp] theorem Group.setPend_wsize (x : Group) (l r n : Nat) (p : Producer) : (x.setPend l r n p).wsize = x.wsize := rfl
@[simp] theorem Group.setPend_regs (x : Group) (l r n : Nat) (p : Producer) : (x.setPend l r n p).regs = x.regs := rfl
@[simp] theorem Group.setPend_bad (x : Group) (l r n : Nat) (p : Producer) : (x.setPend l r n p).bad = x.bad := rfl
@[simp] theorem Group.setPend_badResult (x : Group) (l r n : Nat) (p : Producer) : (x.setPend l r n p).badResult = x.badResult := rfl
@[simp] theorem Group.setPend_fibres (x : Group) (l r n : Nat) (p : Producer) : (x.setPend l r n p).fibres = x.fibres := rfl
@[simp] theorem Group.setPend_current (x : Group) (l r n : Nat) (p : Producer) : (x.setPend l r n p).current = x.current := rfl
@[simp] theorem Group.setPend_waiting (x : Group) (l r n : Nat) (p : Producer) : (x.setPend l r n p).waiting = x.waiting := rfl
@[simp] theorem Group.setPend_issues (x : Group) (l r n : Nat) (p : Producer) : (x.setPend l r n p).issues = x.issues := rfl
@[simp] theorem Group.setPend_fcause (x : Group) (l r n : Nat) (p : Producer) : (x.setPend l r n p).fcause = x.fcause := rfl
@[simp] theorem Group.setPend_fpc (x : Group) (l r n : Nat) (p : Producer) : (x.setPend l r n p).fpc = x.fpc := rfl
@[simp] theorem Group.setPend_fpcHi (x : Group) (l r n : Nat) (p : Producer) : (x.setPend l r n p).fpcHi = x.fpcHi := rfl
@[simp] theorem Group.setPend_ftime (x : Group) (l r n : Nat) (p : Producer) : (x.setPend l r n p).ftime = x.ftime := rfl
@[simp] theorem Group.setPend_ftimeHi (x : Group) (l r n : Nat) (p : Producer) : (x.setPend l r n p).ftimeHi = x.ftimeHi := rfl
@[simp] theorem Group.setPend_xops (x : Group) (l r n : Nat) (p : Producer) : (x.setPend l r n p).xops = x.xops := rfl
@[simp] theorem Group.setPend_fops (x : Group) (l r n : Nat) (p : Producer) : (x.setPend l r n p).fops = x.fops := rfl
@[simp] theorem Group.setPend_faults (x : Group) (l r n : Nat) (p : Producer) : (x.setPend l r n p).faults = x.faults := rfl
@[simp] theorem Group.setPend_tags (x : Group) (l r n : Nat) (p : Producer) : (x.setPend l r n p).tags = x.tags := rfl
@[simp] theorem Group.setPend_hold (x : Group) (l r n : Nat) (p : Producer) : (x.setPend l r n p).hold = x.hold := rfl
@[simp] theorem Group.setPend_runAhead (x : Group) (l r n : Nat) (p : Producer) : (x.setPend l r n p).runAhead = x.runAhead := rfl
@[simp] theorem Group.setPend_rasterPass (x : Group) (l r n : Nat) (p : Producer) : (x.setPend l r n p).rasterPass = x.rasterPass := rfl
@[simp] theorem Group.setPend_rasterBatch (x : Group) (l r n : Nat) (p : Producer) : (x.setPend l r n p).rasterBatch = x.rasterBatch := rfl
@[simp] theorem Group.setPend_pixels (x : Group) (l r n : Nat) (p : Producer) : (x.setPend l r n p).pixels = x.pixels := rfl
@[simp] theorem Group.setPend_repeating (x : Group) (l r n : Nat) (p : Producer) : (x.setPend l r n p).repeating = x.repeating := rfl

@[simp] theorem Group.clearPend_block (x : Group) (l r n : Nat) : (x.clearPend l r n).block = x.block := rfl
@[simp] theorem Group.clearPend_num (x : Group) (l r n : Nat) : (x.clearPend l r n).num = x.num := rfl
@[simp] theorem Group.clearPend_core (x : Group) (l r n : Nat) : (x.clearPend l r n).core = x.core := rfl
@[simp] theorem Group.clearPend_part (x : Group) (l r n : Nat) : (x.clearPend l r n).part = x.part := rfl
@[simp] theorem Group.clearPend_row (x : Group) (l r n : Nat) : (x.clearPend l r n).row = x.row := rfl
@[simp] theorem Group.clearPend_first (x : Group) (l r n : Nat) : (x.clearPend l r n).first = x.first := rfl
@[simp] theorem Group.clearPend_width (x : Group) (l r n : Nat) : (x.clearPend l r n).width = x.width := rfl
@[simp] theorem Group.clearPend_wbase (x : Group) (l r n : Nat) : (x.clearPend l r n).wbase = x.wbase := rfl
@[simp] theorem Group.clearPend_wsize (x : Group) (l r n : Nat) : (x.clearPend l r n).wsize = x.wsize := rfl
@[simp] theorem Group.clearPend_regs (x : Group) (l r n : Nat) : (x.clearPend l r n).regs = x.regs := rfl
@[simp] theorem Group.clearPend_bad (x : Group) (l r n : Nat) : (x.clearPend l r n).bad = x.bad := rfl
@[simp] theorem Group.clearPend_badResult (x : Group) (l r n : Nat) : (x.clearPend l r n).badResult = x.badResult := rfl
@[simp] theorem Group.clearPend_fibres (x : Group) (l r n : Nat) : (x.clearPend l r n).fibres = x.fibres := rfl
@[simp] theorem Group.clearPend_current (x : Group) (l r n : Nat) : (x.clearPend l r n).current = x.current := rfl
@[simp] theorem Group.clearPend_waiting (x : Group) (l r n : Nat) : (x.clearPend l r n).waiting = x.waiting := rfl
@[simp] theorem Group.clearPend_issues (x : Group) (l r n : Nat) : (x.clearPend l r n).issues = x.issues := rfl
@[simp] theorem Group.clearPend_fcause (x : Group) (l r n : Nat) : (x.clearPend l r n).fcause = x.fcause := rfl
@[simp] theorem Group.clearPend_fpc (x : Group) (l r n : Nat) : (x.clearPend l r n).fpc = x.fpc := rfl
@[simp] theorem Group.clearPend_fpcHi (x : Group) (l r n : Nat) : (x.clearPend l r n).fpcHi = x.fpcHi := rfl
@[simp] theorem Group.clearPend_ftime (x : Group) (l r n : Nat) : (x.clearPend l r n).ftime = x.ftime := rfl
@[simp] theorem Group.clearPend_ftimeHi (x : Group) (l r n : Nat) : (x.clearPend l r n).ftimeHi = x.ftimeHi := rfl
@[simp] theorem Group.clearPend_xops (x : Group) (l r n : Nat) : (x.clearPend l r n).xops = x.xops := rfl
@[simp] theorem Group.clearPend_fops (x : Group) (l r n : Nat) : (x.clearPend l r n).fops = x.fops := rfl
@[simp] theorem Group.clearPend_faults (x : Group) (l r n : Nat) : (x.clearPend l r n).faults = x.faults := rfl
@[simp] theorem Group.clearPend_tags (x : Group) (l r n : Nat) : (x.clearPend l r n).tags = x.tags := rfl
@[simp] theorem Group.clearPend_hold (x : Group) (l r n : Nat) : (x.clearPend l r n).hold = x.hold := rfl
@[simp] theorem Group.clearPend_runAhead (x : Group) (l r n : Nat) : (x.clearPend l r n).runAhead = x.runAhead := rfl
@[simp] theorem Group.clearPend_rasterPass (x : Group) (l r n : Nat) : (x.clearPend l r n).rasterPass = x.rasterPass := rfl
@[simp] theorem Group.clearPend_rasterBatch (x : Group) (l r n : Nat) : (x.clearPend l r n).rasterBatch = x.rasterBatch := rfl
@[simp] theorem Group.clearPend_pixels (x : Group) (l r n : Nat) : (x.clearPend l r n).pixels = x.pixels := rfl
@[simp] theorem Group.clearPend_repeating (x : Group) (l r n : Nat) : (x.clearPend l r n).repeating = x.repeating := rfl

end Sys2Proof.Machine
end

