-- ==== Sys2Proof/Laws/Table.lean ====
section
/-!
SUPPORT. The laws of sparse tables and of memory: what a read gives after a write, and that every operation keeps
the keys in order and memory in its canonical form.
-/
namespace Sys2Proof.Machine

section Tab
variable {β : Type}

@[simp] theorem Tab.get_nil (a : Nat) : Tab.get ([] : Sparse β) a = none := rfl

@[simp] theorem Tab.get_put_same (t : Sparse β) (a : Nat) (v : β) : Tab.get (Tab.put t a v) a = some v := by
  induction t with
  | nil => simp [Tab.put, Tab.get]
  | cons p t ih =>
    obtain ⟨k, w⟩ := p
    unfold Tab.put
    split
    · simp [Tab.get]
    · split
      · simp [Tab.get]
      · rename_i h
        rw [Tab.get, if_neg (Ne.symm h)]
        exact ih

theorem Tab.get_put_other (t : Sparse β) {a b : Nat} (v : β) (h : b ≠ a) : Tab.get (Tab.put t a v) b = Tab.get t b := by
  induction t with
  | nil => simp [Tab.put, Tab.get, Ne.symm h]
  | cons p t ih =>
    obtain ⟨k, w⟩ := p
    unfold Tab.put
    split
    · rw [Tab.get, if_neg (Ne.symm h)]
    · split
      · rename_i _ e
        subst e
        simp [Tab.get, Ne.symm h]
      · simp [Tab.get, ih]

@[simp] theorem Tab.get_del_same (t : Sparse β) (a : Nat) : Tab.get (Tab.del t a) a = none := by
  induction t with
  | nil => rfl
  | cons p t ih =>
    obtain ⟨k, w⟩ := p
    by_cases e : k = a
    · simpa [Tab.del, e] using ih
    · simpa [Tab.del, Tab.get, e] using ih

theorem Tab.get_del_other (t : Sparse β) {a b : Nat} (h : b ≠ a) : Tab.get (Tab.del t a) b = Tab.get t b := by
  induction t with
  | nil => rfl
  | cons p t ih =>
    obtain ⟨k, w⟩ := p
    by_cases e : k = a
    · subst e
      simpa [Tab.del, Tab.get, Ne.symm h] using ih
    · by_cases f : k = b
      · subst f
        simp [Tab.del, Tab.get, h]
      · simpa [Tab.del, Tab.get, e, f] using ih

@[simp] theorem Tab.put_put (t : Sparse β) (a : Nat) (v w : β) : Tab.put (Tab.put t a v) a w = Tab.put t a w := by
  induction t with
  | nil => simp [Tab.put]
  | cons p t ih =>
    obtain ⟨k, u⟩ := p
    by_cases h : a < k
    · simp [Tab.put, h]
    · by_cases e : a = k
      · simp [Tab.put, e]
      · simp [Tab.put, h, e, ih]

@[simp] theorem Tab.modify_put (t : Sparse β) (a : Nat) (v : β) (f : β → β) :
    Tab.modify (Tab.put t a v) a f = Tab.put t a (f v) := by
  simp [Tab.modify]

theorem Tab.modify_of_get {t : Sparse β} {a : Nat} {v : β} (f : β → β) (h : Tab.get t a = some v) :
    Tab.modify t a f = Tab.put t a (f v) := by
  simp [Tab.modify, h]

@[simp] theorem Tab.get_modify_same (t : Sparse β) (a : Nat) (f : β → β) :
    Tab.get (Tab.modify t a f) a = (Tab.get t a).map f := by
  unfold Tab.modify
  cases h : Tab.get t a <;> simp [h]

theorem Tab.get_modify_other (t : Sparse β) {a b : Nat} (f : β → β) (h : b ≠ a) :
    Tab.get (Tab.modify t a f) b = Tab.get t b := by
  unfold Tab.modify
  cases Tab.get t a
  · rfl
  · exact Tab.get_put_other t _ h

theorem Tab.getD_eq (t : Sparse β) (a : Nat) (d : β) : Tab.getD t a d = (Tab.get t a).getD d := by
  unfold Tab.getD
  cases Tab.get t a <;> rfl

@[simp] theorem Tab.getD_put_same (t : Sparse β) (a : Nat) (v d : β) : Tab.getD (Tab.put t a v) a d = v := by
  simp [Tab.getD]

theorem Tab.getD_put_other (t : Sparse β) {a b : Nat} (v d : β) (h : b ≠ a) :
    Tab.getD (Tab.put t a v) b d = Tab.getD t b d := by
  simp [Tab.getD, Tab.get_put_other t v h]

@[simp] theorem Tab.getD_del_same (t : Sparse β) (a : Nat) (d : β) : Tab.getD (Tab.del t a) a d = d := by
  simp [Tab.getD]

theorem Tab.getD_del_other (t : Sparse β) {a b : Nat} (d : β) (h : b ≠ a) :
    Tab.getD (Tab.del t a) b d = Tab.getD t b d := by
  simp [Tab.getD, Tab.get_del_other t h]

variable [DecidableEq β]

@[simp] theorem Tab.getD_store_same (d : β) (t : Sparse β) (a : Nat) (v : β) : Tab.getD (Tab.store d t a v) a d = v := by
  unfold Tab.store
  split
  · simp_all
  · simp

theorem Tab.getD_store_other (d : β) (t : Sparse β) {a b : Nat} (v : β) (h : b ≠ a) :
    Tab.getD (Tab.store d t a v) b d = Tab.getD t b d := by
  unfold Tab.store
  split
  · exact Tab.getD_del_other t d h
  · exact Tab.getD_put_other t v d h

end Tab

/-! ### Order of keys -/

section Sorted
variable {β : Type}

/-- Every key of a table is above a bound. -/
def Tab.above (n : Nat) (t : Sparse β) : Prop := ∀ p ∈ t, n < p.1

theorem Tab.sorted_cons (p : Nat × β) (t : Sparse β) :
    Tab.sorted (p :: t) = true ↔ Tab.above p.1 t ∧ Tab.sorted t = true := by
  induction t generalizing p with
  | nil => simp [Tab.sorted, Tab.above]
  | cons q t ih =>
    obtain ⟨a, v⟩ := p
    obtain ⟨b, w⟩ := q
    rw [Tab.sorted, Bool.and_eq_true, decide_eq_true_eq]
    constructor
    · rintro ⟨h, hs⟩
      refine ⟨?_, hs⟩
      intro r hr
      rcases List.mem_cons.1 hr with rfl | hr
      · exact h
      · exact Nat.lt_trans h (((ih (b, w)).1 hs).1 r hr)
    · rintro ⟨h, hs⟩
      exact ⟨h (b, w) (by simp), hs⟩

theorem Tab.above_mono {n m : Nat} {t : Sparse β} (h : Tab.above m t) (hn : n ≤ m) : Tab.above n t :=
  fun p hp => Nat.lt_of_le_of_lt hn (h p hp)

theorem Tab.above_put {n a : Nat} {t : Sparse β} (v : β) (h : Tab.above n t) (ha : n < a) :
    Tab.above n (Tab.put t a v) := by
  induction t with
  | nil => intro p hp; simp [Tab.put] at hp; simpa [hp] using ha
  | cons q t ih =>
    obtain ⟨k, w⟩ := q
    have hk : n < k := h (k, w) (by simp)
    have ht : Tab.above n t := fun p hp => h p (by simp [hp])
    unfold Tab.put
    split
    · intro p hp
      rcases List.mem_cons.1 hp with rfl | hp
      · exact ha
      · exact h p hp
    · split
      · intro p hp
        rcases List.mem_cons.1 hp with rfl | hp
        · exact ha
        · exact ht p hp
      · intro p hp
        rcases List.mem_cons.1 hp with rfl | hp
        · exact hk
        · exact ih ht p hp

theorem Tab.sorted_put {t : Sparse β} (a : Nat) (v : β) (h : Tab.sorted t = true) : Tab.sorted (Tab.put t a v) = true := by
  induction t with
  | nil => rfl
  | cons q t ih =>
    obtain ⟨k, w⟩ := q
    obtain ⟨hk, ht⟩ := (Tab.sorted_cons _ _).1 h
    unfold Tab.put
    split
    · rename_i hlt
      refine (Tab.sorted_cons _ _).2 ⟨?_, h⟩
      intro p hp
      rcases List.mem_cons.1 hp with rfl | hp
      · exact hlt
      · exact Nat.lt_trans hlt (hk p hp)
    · split
      · rename_i _ e
        subst e
        exact (Tab.sorted_cons _ _).2 ⟨hk, ht⟩
      · exact (Tab.sorted_cons _ _).2 ⟨Tab.above_put v hk (by show k < a; omega), ih ht⟩

theorem Tab.sorted_filter {t : Sparse β} (f : Nat × β → Bool) (h : Tab.sorted t = true) :
    Tab.sorted (t.filter f) = true := by
  induction t with
  | nil => rfl
  | cons q t ih =>
    obtain ⟨hk, ht⟩ := (Tab.sorted_cons _ _).1 h
    rw [List.filter_cons]
    split
    · exact (Tab.sorted_cons _ _).2 ⟨fun p hp => hk p (List.mem_filter.1 hp).1, ih ht⟩
    · exact ih ht

theorem Tab.sorted_del {t : Sparse β} (a : Nat) (h : Tab.sorted t = true) : Tab.sorted (Tab.del t a) = true :=
  Tab.sorted_filter _ h

theorem Tab.mem_put {t : Sparse β} {a : Nat} {v : β} {p : Nat × β} (h : p ∈ Tab.put t a v) : p = (a, v) ∨ p ∈ t := by
  induction t with
  | nil => exact Or.inl (by simpa [Tab.put] using h)
  | cons q t ih =>
    obtain ⟨k, w⟩ := q
    unfold Tab.put at h
    split at h
    · simpa using h
    · split at h
      · rcases List.mem_cons.1 h with h | h
        · exact Or.inl h
        · exact Or.inr (by simp [h])
      · rcases List.mem_cons.1 h with h | h
        · exact Or.inr (by simp [h])
        · rcases ih h with h | h
          · exact Or.inl h
          · exact Or.inr (by simp [h])

end Sorted

/-! ### Memory (12 R263, log 1) -/

/-- A read gives what the last write to the byte wrote. -/
@[simp] theorem Memory.read_write_same (m : Memory) (k : Nat) (b : Byte) : Memory.read (Memory.write m k b) k = b := by
  simp [Memory.read, Memory.write]

/-- A write leaves every other byte alone. -/
theorem Memory.read_write_other (m : Memory) {k j : Nat} (b : Byte) (h : j ≠ k) :
    Memory.read (Memory.write m k b) j = Memory.read m j := by
  simp only [Memory.read, Memory.write]
  exact Tab.getD_store_other _ _ b h

theorem Memory.wf_iff (m : Memory) :
    Memory.wf m = true ↔ Tab.sorted m = true ∧ ∀ c ∈ m, c.2 ≠ Memory.unlisted := by
  simp only [Memory.wf, Bool.and_eq_true, List.all_eq_true, bne_iff_ne]

theorem Memory.wf_nil : Memory.wf [] = true := rfl

theorem Memory.wf_filter {m : Memory} (f : Host.Cell → Bool) (h : Memory.wf m = true) : Memory.wf (m.filter f) = true := by
  obtain ⟨hs, hb⟩ := (Memory.wf_iff m).1 h
  exact (Memory.wf_iff _).2 ⟨Tab.sorted_filter f hs, fun c hc => hb c (List.mem_filter.1 hc).1⟩

/-- Every write keeps the canonical form. -/
theorem Memory.wf_write {m : Memory} (k : Nat) (b : Byte) (h : Memory.wf m = true) :
    Memory.wf (Memory.write m k b) = true := by
  unfold Memory.write Tab.store
  split
  · exact Memory.wf_filter _ h
  · rename_i hb
    obtain ⟨hs, hm⟩ := (Memory.wf_iff m).1 h
    refine (Memory.wf_iff _).2 ⟨Tab.sorted_put k b hs, fun c hc => ?_⟩
    rcases Tab.mem_put hc with rfl | hc
    · exact hb
    · exact hm c hc

theorem Memory.wf_writeBytes {m : Memory} (k : Nat) (bs : List Byte) (h : Memory.wf m = true) :
    Memory.wf (Memory.writeBytes m k bs) = true := by
  induction bs generalizing m k with
  | nil => exact h
  | cons b t ih => exact ih (k + 1) (Memory.wf_write k b h)

/-- A write of consecutive bytes leaves every byte outside them alone. -/
theorem Memory.read_writeBytes_outside (m : Memory) (k : Nat) (bs : List Byte) {j : Nat} (h : j < k ∨ k + bs.length ≤ j) :
    Memory.read (Memory.writeBytes m k bs) j = Memory.read m j := by
  induction bs generalizing m k with
  | nil => rfl
  | cons b t ih =>
    rw [List.length_cons] at h
    rw [Memory.writeBytes, ih _ (k + 1) (by omega)]
    exact Memory.read_write_other m b (by omega)

/-- Reading back the bytes just written. -/
theorem Memory.read_writeBytes_inside (m : Memory) (k : Nat) (bs : List Byte) (i : Nat) (h : i < bs.length) :
    Memory.read (Memory.writeBytes m k bs) (k + i) = bs[i] := by
  induction bs generalizing m k i with
  | nil => simp at h
  | cons b t ih =>
    cases i with
    | zero =>
      rw [Memory.writeBytes, Memory.read_writeBytes_outside _ _ _ (by omega)]
      simp
    | succ i =>
      have := ih (Memory.write m k b) (k + 1) i (by simpa using h)
      rw [Memory.writeBytes]
      simpa [Nat.add_assoc, Nat.add_comm 1] using this

end Sys2Proof.Machine
end

