-- ==== Sys2Proof/Laws/Group.lean ====
section
/-!
SUPPORT. The laws of registers, fibres and lanes of a group.
-/
namespace Sys2Proof.Machine

theorem regKey_inj {l r m q : Nat} (hr : r < 128) (hq : q < 128) : regKey l r = regKey m q ↔ l = m ∧ r = q := by
  unfold regKey
  omega

/-- A register reads as it was last written; every other register of every lane is left alone. -/
theorem Group.reg_setReg (x : Group) (l r : Nat) (v : Word) {m q : Nat} (hr : r < 128) (hq : q < 128) :
    (x.setReg l r v).reg m q = if m = l ∧ q = r then v else x.reg m q := by
  unfold Group.reg
  rw [Group.setReg_regs]
  split
  · rename_i h
    obtain ⟨rfl, rfl⟩ := h
    exact Tab.getD_store_same _ _ _ _
  · rename_i h
    exact Tab.getD_store_other _ _ _ (fun e => h ((regKey_inj hq hr).1 e))

@[simp] theorem Group.active_setReg (x : Group) (l r : Nat) (v : Word) : (x.setReg l r v).active = x.active := rfl

@[simp] theorem Group.fibre_setReg (x : Group) (l r : Nat) (v : Word) (m : Nat) :
    (x.setReg l r v).fibre? m = x.fibre? m := rfl

theorem Group.fibre_mapFibres (x : Group) (m : Mask) (f : Fibre → Fibre) (l : Nat) :
    (x.mapFibres m f).fibre? l = (x.fibre? l).map fun p => if m.getLsbD l then f p else p := by
  unfold Group.fibre?
  rw [Group.mapFibres_fibres]
  induction x.fibres with
  | nil => rfl
  | cons p t ih =>
    obtain ⟨k, w⟩ := p
    by_cases e : k = l
    · subst e
      by_cases h : m.getLsbD k <;> simp [Tab.get, h]
    · by_cases h : m.getLsbD k <;> simp [Tab.get, e, h] <;> simpa using ih

theorem Group.fibre_modFibre (x : Group) (l : Nat) (f : Fibre → Fibre) (m : Nat) :
    (x.modFibre l f).fibre? m = if m = l then (x.fibre? m).map f else x.fibre? m := by
  unfold Group.fibre?
  rw [Group.modFibre_fibres]
  split
  · rename_i h
    subst h
    exact Tab.get_modify_same _ _ _
  · rename_i h
    exact Tab.get_modify_other _ _ h

theorem Group.fibre_orFlags (x : Group) (l : Nat) (fl : Word) (m : Nat) :
    (x.orFlags l fl).fibre? m =
      (x.fibre? m).map fun f => if m = l then { f with flags := f.flags ||| fl } else f := by
  unfold Group.orFlags
  split
  · rename_i h
    subst h
    cases x.fibre? m <;> simp
  · rw [Group.fibre_modFibre]
    split
    · simp [*]
    · simp [*]

@[simp] theorem Group.orFlags_reg (x : Group) (l : Nat) (fl : Word) (m q : Nat) : (x.orFlags l fl).reg m q = x.reg m q := by
  unfold Group.orFlags
  split <;> rfl

/-- The part of a group that no register result and no flag touches. -/
def Group.shell (x : Group) : Group := { x with regs := [], bad := [], fibres := [] }

theorem Group.setReg_shell (x : Group) (l r : Nat) (v : Word) : (x.setReg l r v).shell = x.shell := rfl

theorem Group.orFlags_shell (x : Group) (l : Nat) (fl : Word) : (x.orFlags l fl).shell = x.shell := by
  unfold Group.orFlags
  split <;> rfl

theorem Group.result_shell (x : Group) (l d : Nat) (v : Valued) : (x.result l d v).shell = x.shell := by
  rw [Group.result, Group.orFlags_shell, Group.setReg_shell]

theorem lanesOf_mem {m : Mask} {l : Nat} : l ∈ lanesOf m ↔ m.getLsbD l = true := by
  simp only [lanesOf, List.mem_filter, List.mem_range, and_iff_right_iff_imp]
  intro h
  exact BitVec.lt_of_getLsbD h

theorem lanesOf_nodup (m : Mask) : (lanesOf m).Nodup := List.filter_sublist.nodup List.nodup_range

theorem Group.result_reg (x : Group) (l : Nat) {d : Nat} (v : Valued) (hd : d < 128) {m q : Nat} (hq : q < 128) :
    (x.result l d v).reg m q = if m = l ∧ q = d then v.1 else x.reg m q := by
  rw [Group.result, Group.orFlags_reg, Group.reg_setReg x l d v.1 hd hq]

theorem Group.result_fibre (x : Group) (l d : Nat) (v : Valued) (m : Nat) :
    (x.result l d v).fibre? m = (x.fibre? m).map fun f => if m = l then { f with flags := f.flags ||| v.2 } else f := by
  rw [Group.result, Group.fibre_orFlags, Group.fibre_setReg]

theorem Group.result_bad (x : Group) (l d : Nat) (v : Valued) (h : x.bad = []) : (x.result l d v).bad = [] := by
  rw [Group.result]
  unfold Group.orFlags
  split <;> simp [h, Group.setReg, Group.modFibre]

/-- Results written lane by lane: what the whole loop leaves, for an operation that reads its own lane only. -/
theorem Group.foldl_result {d : Nat} (hd : d < 128) (f : Group → Nat → Valued) (ls : List Nat) (hn : ls.Nodup) (x : Group)
    (hf : ∀ y l, l ∈ ls → (∀ r, r < 128 → y.reg l r = x.reg l r) → f y l = f x l) :
    let y := ls.foldl (fun y l => y.result l d (f y l)) x
    y.shell = x.shell ∧ (x.bad = [] → y.bad = []) ∧
      (∀ l r, r < 128 → y.reg l r = if l ∈ ls ∧ r = d then (f x l).1 else x.reg l r) ∧
      ∀ l, y.fibre? l = (x.fibre? l).map fun p => if l ∈ ls then { p with flags := p.flags ||| (f x l).2 } else p := by
  induction ls generalizing x with
  | nil => simp
  | cons a t ih =>
    obtain ⟨ha, ht⟩ := List.nodup_cons.1 hn
    have hx : ∀ l, l ∈ t → ∀ r, r < 128 → (x.result a d (f x a)).reg l r = x.reg l r := by
      intro l hl r hr
      rw [Group.result_reg x a _ hd hr, if_neg]
      rintro ⟨rfl, -⟩
      exact ha hl
    have hfe : ∀ l, l ∈ t → f (x.result a d (f x a)) l = f x l := fun l hl =>
      hf _ l (List.mem_cons_of_mem a hl) (hx l hl)
    obtain ⟨h1, h2, h3, h4⟩ := ih ht (x.result a d (f x a)) fun y l hl hy => by
      rw [hfe l hl]
      exact hf y l (List.mem_cons_of_mem a hl) fun r hr => by rw [hy r hr, hx l hl r hr]
    refine ⟨?_, ?_, ?_, ?_⟩
    · exact h1.trans (Group.result_shell x a d _)
    · exact fun hb => h2 (Group.result_bad x a d _ hb)
    · intro l r hr
      rw [List.foldl_cons, h3 l r hr, Group.result_reg x a _ hd hr]
      by_cases hl : l ∈ t
      · have : l ≠ a := fun e => ha (e ▸ hl)
        by_cases hrd : r = d <;> simp [hl, hrd, this, hfe l hl]
      · by_cases e : l = a
        · subst e
          by_cases hrd : r = d <;> simp [hl, hrd]
        · simp [hl, e]
    · intro l
      rw [List.foldl_cons, h4 l, Group.result_fibre]
      by_cases hl : l ∈ t
      · have : l ≠ a := fun e => ha (e ▸ hl)
        simp [hl, this, hfe l hl]
      · by_cases e : l = a
        · subst e
          cases x.fibre? l <;> simp [hl]
        · cases x.fibre? l <;> simp [hl, e]

end Sys2Proof.Machine
end

