-- ==== Sys2Proof/Laws/Issue.lean ====
section
/-!
SUPPORT. The shared course of an issue: what a word comes to (one inversion lemma), when its checks pass, and what
completing it does to its group.
-/
namespace Sys2Proof.Machine

/-- All that a fibre word can come to: no group issues; its run-ahead stops; it completes; it raises a fault, before or after it has
translated addresses; or it holds. -/
theorem runWord_cases (spec : Bool) (fin : State → Nat → Mask → State) (k : Body) (s : State) :
    runWord spec fin k s = .fault .noIssuer ∨
      ∃ g x, s.cur = some g ∧ s.group? g = some x ∧
        ((x.runAhead.isSome = true ∧ spec = false ∧ runWord spec fin k s = .next (s.setGroup g x.stopRunAhead)) ∨
          (∃ t, k s g x = .ok t ∧ runWord spec fin k s = .next (fin t g x.active)) ∨
          (∃ t, k s g x = .trap t ∧ runWord spec fin k s = .next ((s.modGroup g fun x => x.countIssues 1).raise g t)) ∨
          (∃ t f, k s g x = .trapAt t f ∧
            runWord spec fin k s = .next ((t.modGroup g fun x => x.countIssues 1).raise g f)) ∨
          (∃ t, k s g x = .hold t ∧ runWord spec fin k s = .next t)) := by
  unfold runWord
  cases hc : s.cur with
  | none => exact Or.inl rfl
  | some g =>
    cases hg : s.group? g with
    | none => exact Or.inl (by simp [hg])
    | some x =>
      cases hx : x.current with
      | none => exact Or.inl (by simp [hg, hx])
      | some u =>
        refine Or.inr ⟨g, x, rfl, hg, ?_⟩
        by_cases hr : (x.runAhead.isSome && !spec) = true
        · simp only [Bool.and_eq_true, Bool.not_eq_true'] at hr
          exact Or.inl ⟨hr.1, hr.2, by simp [hg, hx, hr.1, hr.2]⟩
        · right
          cases hk : k s g x with
          | ok t => exact Or.inl ⟨t, rfl, by simp [hg, hx, hr, hk]⟩
          | trap t => exact Or.inr (Or.inl ⟨t, rfl, by simp [hg, hx, hr, hk]⟩)
          | trapAt t f => exact Or.inr (Or.inr (Or.inl ⟨t, f, rfl, by simp [hg, hx, hr, hk]⟩))
          | hold t => exact Or.inr (Or.inr (Or.inr ⟨t, rfl, by simp [hg, hx, hr, hk]⟩))

/-- A word of a group that issues and is not in run-ahead comes to what its body comes to. -/
theorem runWord_issues {s : State} {g : Nat} {x : Group} (h : Issues s g x) (spec : Bool)
    (fin : State → Nat → Mask → State) (k : Body) :
    runWord spec fin k s = match k s g x with
      | .ok t => .next (fin t g x.active)
      | .trap t => .next ((s.modGroup g fun x => x.countIssues 1).raise g t)
      | .trapAt t f => .next ((t.modGroup g fun x => x.countIssues 1).raise g f)
      | .hold t => .next t := by
  obtain ⟨u, hu⟩ := Option.isSome_iff_exists.1 h.current
  simp only [runWord, h.cur, h.here, hu, h.calm]
  rfl

theorem stepWord_ok {s t : State} {g : Nat} {x : Group} (h : Issues s g x) {spec park : Bool} {k : Body}
    (hk : k s g x = .ok t) : stepWord spec park k s = .next (t.complete g x.active 4 park) := by
  rw [stepWord, runWord_issues h, hk]

theorem jumpWord_ok {s t : State} {g : Nat} {x : Group} (h : Issues s g x) {spec park : Bool} {k : Body}
    (hk : k s g x = .ok t) : jumpWord spec park k s = .next (t.complete g x.active 0 park) := by
  rw [jumpWord, runWord_issues h, hk]

/-! ### The checks (03 R69) -/

theorem writesLent_of_unlent {s : State} {g : Nat} {x : Group} (h : Issues s g x) (u : Uses) : s.writesLent g x u = false := by
  simp [State.writesLent, State.lentIn, h.unlent]

theorem firstBad_of_sound {x : Group} (h : x.bad = []) (u : Uses) : x.firstBad u = none := by
  simp [Group.firstBad, h]

/-- The checks of a word pass when its registers are in the window and settled. -/
theorem checked_ready {s : State} {g : Nat} {x : Group} (h : Issues s g x) (u : Uses) (k : Body)
    (hl : LaneReady x (u.laneR ++ u.laneW)) (hr : UniReads x u.uniR) (hw : UniWrites x u.uniW)
    (hv : ∀ r ∈ u.win, r < x.wsize) : checked u k s g x = k s g x := by
  have hout : x.outside u.all = none := by
    simp only [Group.outside, List.find?_eq_none, decide_eq_true_eq, Nat.not_le, Uses.all, List.mem_append]
    rintro r ((((hm | hm) | hm) | hm) | hm)
    · exact (hl r (List.mem_append.2 (Or.inl hm))).1
    · exact (hl r (List.mem_append.2 (Or.inr hm))).1
    · exact (hr r hm).1
    · exact (hw r hm).1
    · exact hv r hm
  have hp : x.firstPending u = none := by
    simp only [Group.firstPending, List.findSome?_eq_none_iff, Option.map_eq_none_iff, List.find?_eq_none,
      List.mem_append, Bool.not_eq_true]
    intro l hlm r hm
    rcases hm with (hm | hm) | hm
    · split at hm
      · exact (hl r hm).2 l ‹_›
      · cases hm
    · split at hm
      · rename_i e
        rw [eq_of_beq e]
        exact (hr r hm).2
      · cases hm
    · exact (hw r hm).2 l (List.mem_range.1 hlm)
  simp only [checked, writesLent_of_unlent h, Group.precheck, hout, hp, firstBad_of_sound h.sound.1, h.sound.2]
  simp

/-! ### Completing a word (03 R53, 02 R32, R36) -/

theorem setGroup_group (s : State) (g : Nat) (x : Group) : (s.setGroup g x).group? g = some x :=
  Tab.get_put_same _ _ _

theorem setGroup_setGroup (s : State) (g : Nat) (x y : Group) : (s.setGroup g x).setGroup g y = s.setGroup g y := by
  simp [State.setGroup]

theorem modGroup_setGroup (s : State) (g : Nat) (x : Group) (f : Group → Group) :
    (s.setGroup g x).modGroup g f = s.setGroup g (f x) := by
  simp [State.setGroup, State.modGroup]

/-- A machine whose group `g` is `x` is that machine with `x` put in its place. -/
theorem modGroup_of_group {s : State} {g : Nat} {x : Group} (h : s.group? g = some x) (f : Group → Group) :
    s.modGroup g f = s.setGroup g (f x) := by
  unfold State.modGroup State.setGroup
  rw [Tab.modify_of_get f h]

/-- How completing a word leaves its group, when no fault waits to be delivered: the issue is counted, the active
fibres move on, and the subset parks if the word is marked and a result is pending. -/
def Group.completed (x : Group) (m : Mask) (n : Nat) (park : Bool) : Group :=
  let y := (x.countIssues 1).advance n
  if !park then y
  else
    let z := y.parkParts m
    if z.maskPending z.active then z.parkCurrent else z

theorem complete_setGroup (s : State) (g : Nat) (x : Group) (m : Mask) (n : Nat) (park : Bool) (hf : x.faults = []) :
    (s.setGroup g x).complete g m n park = s.setGroup g (x.completed m n park) := by
  unfold State.complete State.afterWord
  rw [modGroup_setGroup]
  cases park with
  | false => simp [Group.completed]
  | true =>
    have hd : (((x.countIssues 1).advance n).parkParts m).deliverable = false := by
      simp [Group.deliverable, Group.parkParts, Group.advance, Group.countIssues, Group.mapFibres, hf]
    simp only [Bool.not_true, Bool.false_eq_true, if_false, setGroup_group, hd, Bool.false_and, Group.completed,
      setGroup_setGroup]
    split <;> rfl

theorem completed_fibre (x : Group) (m : Mask) (n : Nat) (park : Bool) (l : Nat) :
    (x.completed m n park).fibre? l =
      (x.fibre? l).map fun f => if x.active.getLsbD l then { f with pc := f.pc + BitVec.ofNat 48 n } else f := by
  have ha : (x.countIssues 1).active = x.active := by
    unfold Group.active Group.countIssues
    cases x.current <;> rfl
  have hy : ((x.countIssues 1).advance n).fibre? l =
      (x.fibre? l).map fun f => if x.active.getLsbD l then { f with pc := f.pc + BitVec.ofNat 48 n } else f := by
    unfold Group.advance
    rw [Group.fibre_mapFibres, ha]
    rfl
  unfold Group.completed
  split
  · exact hy
  · dsimp only
    split
    · have hp : ∀ z : Group, z.parkCurrent.fibres = z.fibres := fun z => by
        unfold Group.parkCurrent Group.stopCurrent
        repeat' split
        all_goals rfl
      rw [Group.fibre?, hp]
      exact hy
    · exact hy

/-- Of a group that is not in run-ahead, completing a word changes the fibres, the count of issues, and which subset
is current. -/
theorem completed_rest (x : Group) (m : Mask) (n : Nat) (park : Bool) (hr : x.runAhead = none) :
    let y := x.completed m n park
    y = { x with fibres := y.fibres, current := y.current, waiting := y.waiting, issues := x.issues + 1 } := by
  unfold Group.completed Group.advance Group.parkCurrent Group.stopCurrent Group.parkParts
  cases park <;> simp [Group.countIssues, Group.mapFibres, hr]
  split
  · split <;> simp_all
  · rfl

end Sys2Proof.Machine
end

