-- ==== Sys2Proof/Laws/Lanes.lean ====
section
/-!
SUPPORT. What the operand forms of the lane set and of the uniform set do when their word completes (05 R107, 06 R129).
-/
namespace Sys2Proof.Machine

/-- A completed word that changed only registers and flags of its group. -/
theorem registerOnly_of {i : Instr} {s : State} {g : Nat} {x y : Group} (h : Issues s g x) (park : Bool)
    (he : exec i s = .next ((s.setGroup g y).complete g x.active 4 park)) (hs : y.shell = x.shell) (hb : y.bad = x.bad)
    {fl : Nat → Word}
    (hf : ∀ l, y.fibre? l = (x.fibre? l).map fun p =>
      if x.active.getLsbD l then { p with flags := p.flags ||| fl l } else p) :
    ∃ z, RegisterOnly i s g z ∧ x.Stepped z (x.nextWord fl) ∧ ∀ l r, z.reg l r = y.reg l r := by
  have hfaults : y.faults = x.faults := (show y.shell.faults = x.shell.faults from congrArg _ hs)
  have hrun : y.runAhead = x.runAhead := (show y.shell.runAhead = x.shell.runAhead from congrArg _ hs)
  have hact : y.active = x.active := by
    have : y.current = x.current := (show y.shell.current = x.shell.current from congrArg _ hs)
    simp [Group.active, this]
  rw [complete_setGroup _ _ _ _ _ _ (hfaults.trans h.unfaulted)] at he
  refine ⟨y.completed x.active 4 park, ⟨_, he, rfl, fun _ => rfl⟩, ⟨?_, fun l => ?_⟩, ?_⟩
  · rw [completed_rest y x.active 4 park (hrun.trans h.calm)]
    have hi : y.issues = x.issues := (show y.shell.issues = x.shell.issues from congrArg _ hs)
    have hsh : { y with regs := [], bad := [], fibres := [] } = { x with regs := [], bad := [], fibres := [] } := hs
    cases y
    cases x
    simp_all
  · rw [completed_fibre, hf l, hact]
    cases x.fibre? l with
    | none => rfl
    | some p => by_cases ha : x.active.getLsbD l <;> simp [Group.nextWord, ha]
  · intro l r
    rw [completed_rest y x.active 4 park (hrun.trans h.calm)]
    rfl

/-- Results written to register d of every active lane, each from its own lane. -/
theorem laneResult_of {i : Instr} {d : Reg} {rs : List Reg} {park spec : Bool} {u : Uses} {f : Group → Nat → Valued}
    (hu : ∀ x, LaneReady x ((d :: rs).map BitVec.toNat) → LaneReady x (u.laneR ++ u.laneW))
    (hn : u.uniR = [] ∧ u.uniW = [] ∧ u.win = [])
    (hx : ∀ s, exec i s = stepWord spec park (checked u fun s g x =>
      okGroup s g (x.eachLane fun y l => y.result l d.toNat (f y l))) s)
    (hf : ∀ x y l, (∀ r, r < 128 → y.reg l r = x.reg l r) → f y l = f x l) :
    LaneResult i d rs f := by
  intro s g x h hr
  have hd : d.toNat < 128 := d.isLt
  have hc := checked_ready h u (fun s g x => okGroup s g (x.eachLane fun y l => y.result l d.toNat (f y l)))
    (hu x hr) (by simp [hn.1, UniReads]) (by simp [hn.2.1, UniWrites]) (by simp [hn.2.2])
  obtain ⟨h1, h2, h3, h4⟩ := Group.foldl_result hd f (lanesOf x.active) (lanesOf_nodup _) x (fun y l _ => hf x y l)
  have he := hx s
  rw [stepWord_ok h hc] at he
  obtain ⟨z, hz, hst, hreg⟩ := registerOnly_of h park he h1 ((h2 h.sound.1).trans h.sound.1.symm)
    (fl := fun l => (f x l).2) (fun l => by
      show Group.fibre? ((lanesOf x.active).foldl (fun y l => y.result l d.toNat (f y l)) x) l = _
      rw [h4 l]
      simp only [lanesOf_mem])
  refine ⟨z, hz, hst, fun l r hrr => ?_⟩
  rw [hreg]
  show Group.reg ((lanesOf x.active).foldl (fun y l => y.result l d.toNat (f y l)) x) l r = _
  rw [h3 l r hrr]
  simp only [lanesOf_mem, Bool.and_eq_true, beq_iff_eq]

theorem laneReady_of_subset {x : Group} {rs qs : List Nat} (h : LaneReady x rs) (hs : ∀ r ∈ qs, r ∈ rs) : LaneReady x qs :=
  fun r hr => h r (hs r hr)

theorem lane3_result {mk : LaneOp3 → Instr} {f : Word → Word → Valued} (o : LaneOp3)
    (hx : ∀ s, exec (mk o) s = laneWord3 (lane3 f) o s) :
    LaneResult (mk o) o.d [o.a, o.b] fun x l => f (x.reg l o.a.toNat) (x.reg l o.b.toNat) :=
  laneResult_of (u := { laneR := [o.a.toNat, o.b.toNat], laneW := [o.d.toNat] })
    (fun x h => laneReady_of_subset h (by simp)) ⟨rfl, rfl, rfl⟩ hx
    (fun x y l h => by rw [h _ o.a.isLt, h _ o.b.isLt])

theorem lane4_result {mk : LaneOp3 → Instr} {f : Word → Word → Word → Valued} (o : LaneOp3)
    (hx : ∀ s, exec (mk o) s = laneWord3 (lane4 f) o s) :
    LaneResult (mk o) o.d [o.a, o.b] fun x l => f (x.reg l o.d.toNat) (x.reg l o.a.toNat) (x.reg l o.b.toNat) :=
  laneResult_of (u := { laneR := [o.a.toNat, o.b.toNat, o.d.toNat], laneW := [o.d.toNat] })
    (fun x h => laneReady_of_subset h (by simp)) ⟨rfl, rfl, rfl⟩ hx
    (fun x y l h => by rw [h _ o.a.isLt, h _ o.b.isLt, h _ o.d.isLt])

theorem lane2_result {mk : LaneOp2 → Instr} {f : Word → Valued} (o : LaneOp2)
    (hx : ∀ s, exec (mk o) s = laneWord2 (lane2 f) o s) :
    LaneResult (mk o) o.d [o.a] fun x l => f (x.reg l o.a.toNat) :=
  laneResult_of (u := { laneR := [o.a.toNat], laneW := [o.d.toNat] })
    (fun x h => laneReady_of_subset h (by simp)) ⟨rfl, rfl, rfl⟩ hx (fun x y l h => by rw [h _ o.a.isLt])

/-- A result without flags is a register write. -/
theorem Group.result_plain (x : Group) (l d : Nat) (v : Word) : x.result l d (plain v) = x.setReg l d v := by
  simp [Group.result, Group.orFlags, plain]

/-! ### The uniform set -/

theorem Group.foldl_setReg {d : Nat} (hd : d < 128) (v : Word) (ls : List Nat) (x : Group) :
    let y := ls.foldl (fun y l => y.setReg l d v) x
    y.shell = x.shell ∧ (x.bad = [] → y.bad = []) ∧ y.fibres = x.fibres ∧
      ∀ l r, r < 128 → y.reg l r = if l ∈ ls ∧ r = d then v else x.reg l r := by
  induction ls generalizing x with
  | nil => simp
  | cons a t ih =>
    obtain ⟨h1, h2, h3, h4⟩ := ih (x.setReg a d v)
    refine ⟨h1, fun hb => h2 (by simp [hb]), h3, fun l r hr => ?_⟩
    rw [List.foldl_cons, h4 l r hr, Group.reg_setReg x a d v hd hr]
    by_cases hl : l ∈ t
    · by_cases hrd : r = d <;> simp [hl, hrd]
    · by_cases e : l = a
      · subst e
        by_cases hrd : r = d <;> simp [hl, hrd]
      · simp [hl, e]

/-- A register written in every lane of the group (06 R129). -/
theorem Group.bcast_spec (x : Group) {d : Nat} (hd : d < 128) (v : Word) :
    (x.bcast d v).shell = x.shell ∧ (x.bad = [] → (x.bcast d v).bad = []) ∧ (x.bcast d v).fibres = x.fibres ∧
      ∀ l r, r < 128 → (x.bcast d v).reg l r = if l < x.width ∧ r = d then v else x.reg l r := by
  have h := Group.foldl_setReg hd v x.lanes x
  simp only [Group.lanes, List.mem_range] at h
  exact h

theorem uniResult_of {i : Instr} {d : Reg} {rs : List Reg} {park spec : Bool} {u : Uses} {f : Group → Word}
    (hr : ∀ x, UniReads x (rs.map BitVec.toNat) → UniWrites x [d.toNat] → UniReads x u.uniR)
    (hn : u.laneR = [] ∧ u.laneW = [] ∧ u.uniW = [d.toNat] ∧ u.win = [])
    (hx : ∀ s, exec i s = stepWord spec park (checked u fun s g x => okGroup s g (x.bcast d.toNat (f x))) s) :
    UniResult i d rs f := by
  intro s g x h hR hW
  obtain ⟨h1, h2, h3, h4⟩ := x.bcast_spec d.isLt (f x)
  have hc := checked_ready h u (fun s g x => okGroup s g (x.bcast d.toNat (f x)))
    (by simp [hn.1, hn.2.1, LaneReady]) (hr x hR hW) (by rw [hn.2.2.1]; exact hW) (by simp [hn.2.2.2])
  have he := hx s
  rw [stepWord_ok h hc] at he
  obtain ⟨z, hz, hst, hreg⟩ := registerOnly_of h park he h1 ((h2 h.sound.1).trans h.sound.1.symm) (fl := fun _ => 0)
    (fun l => by
      rw [Group.fibre?, h3]
      show x.fibre? l = _
      cases x.fibre? l <;> simp)
  refine ⟨z, hz, hst, fun l r hrr => ?_⟩
  rw [hreg, h4 l r hrr]
  simp only [Bool.and_eq_true, decide_eq_true_eq, beq_iff_eq]

end Sys2Proof.Machine
end

