-- ==== Sys2Proof/Laws/Memory.lean ====
section
/-!
SUPPORT. Laws of memory above single bytes: bytes and numbers, runs of bytes, and the canonical form of memory (DESIGN CHOICE, log 1), which
every operation that writes memory keeps.
-/
namespace Sys2Proof.Machine

/-! ### Bytes and numbers -/

@[simp] theorem bytesOf_length (n v : Nat) : (bytesOf n v).length = n := by
  induction n generalizing v with
  | zero => rfl
  | succ n ih => simp [bytesOf, ih]

/-- The bytes of a number that they can hold give it back. -/
theorem ofBytes_bytesOf (n : Nat) {v : Nat} (h : v < 2 ^ (8 * n)) : ofBytes (bytesOf n v) = v := by
  induction n generalizing v with
  | zero => simp at h; simp [bytesOf, ofBytes, h]
  | succ n ih =>
    have h1 : v >>> 8 < 2 ^ (8 * n) := by
      rw [Nat.shiftRight_eq_div_pow]
      refine Nat.div_lt_of_lt_mul ?_
      rw [← Nat.pow_add]
      exact Nat.lt_of_lt_of_eq h (by congr 1; omega)
    rw [bytesOf, ofBytes, ih h1, BitVec.toNat_ofNat, Nat.shiftRight_eq_div_pow]
    omega

theorem ofBytes_lt (bs : List Byte) : ofBytes bs < 2 ^ (8 * bs.length) := by
  induction bs with
  | nil => simp [ofBytes]
  | cons b t ih =>
    have hb := b.isLt
    have e : 2 ^ (8 * (b :: t).length) = 2 ^ 8 * 2 ^ (8 * t.length) := by
      rw [← Nat.pow_add]; congr 1; simp; omega
    rw [ofBytes, e]
    omega

/-- Bytes are the bytes of their number. -/
theorem bytesOf_ofBytes (bs : List Byte) : bytesOf bs.length (ofBytes bs) = bs := by
  induction bs with
  | nil => rfl
  | cons b t ih =>
    have hb := b.isLt
    have h1 : ofBytes (b :: t) >>> 8 = ofBytes t := by
      rw [Nat.shiftRight_eq_div_pow, ofBytes]; omega
    have h2 : BitVec.ofNat 8 (ofBytes (b :: t)) = b := by
      apply BitVec.eq_of_toNat_eq
      rw [BitVec.toNat_ofNat, ofBytes]; omega
    rw [List.length_cons, bytesOf, h1, h2, ih]

/-! ### Runs of bytes -/

@[simp] theorem Memory.readBytes_length (m : Memory) (k n : Nat) : (Memory.readBytes m k n).length = n := by
  induction n generalizing k with
  | zero => rfl
  | succ n ih => simp [Memory.readBytes, ih]

theorem Memory.readBytes_getElem (m : Memory) (k n i : Nat) (h : i < n) :
    (Memory.readBytes m k n)[i]'(by simpa using h) = Memory.read m (k + i) := by
  induction n generalizing k i with
  | zero => omega
  | succ n ih =>
    cases i with
    | zero => rfl
    | succ i =>
      have := ih (k + 1) i (by omega)
      simpa [Memory.readBytes, Nat.add_assoc, Nat.add_comm 1] using this

/-- Two memories that agree on a run of bytes read alike there. -/
theorem Memory.readBytes_congr {m m' : Memory} {k n : Nat} (h : ∀ i, i < n → Memory.read m' (k + i) = Memory.read m (k + i)) :
    Memory.readBytes m' k n = Memory.readBytes m k n := by
  refine List.ext_getElem (by simp) fun i h1 h2 => ?_
  rw [Memory.readBytes_getElem _ _ _ _ (by simpa using h1), Memory.readBytes_getElem _ _ _ _ (by simpa using h1)]
  exact h i (by simpa using h1)

/-- Reading back the bytes just written. -/
theorem Memory.readBytes_writeBytes (m : Memory) (k : Nat) (bs : List Byte) :
    Memory.readBytes (Memory.writeBytes m k bs) k bs.length = bs := by
  refine List.ext_getElem (by simp) fun i h1 h2 => ?_
  rw [Memory.readBytes_getElem _ _ _ _ h2]
  exact Memory.read_writeBytes_inside m k bs i h2

/-- A run of bytes apart from those written reads as before. -/
theorem Memory.readBytes_writeBytes_apart (m : Memory) (k : Nat) (bs : List Byte) {a n : Nat} (h : a + n ≤ k ∨ k + bs.length ≤ a) :
    Memory.readBytes (Memory.writeBytes m k bs) a n = Memory.readBytes m a n :=
  Memory.readBytes_congr fun i hi => Memory.read_writeBytes_outside m k bs (by omega)

/-! ### The canonical form -/

theorem Memory.wf_foldl {α : Type} (f : Memory → α → Memory) (hf : ∀ m a, Memory.wf m = true → Memory.wf (f m a) = true) (l : List α)
    {m : Memory} (h : Memory.wf m = true) : Memory.wf (l.foldl f m) = true := by
  induction l generalizing m with
  | nil => exact h
  | cons a t ih => exact ih (hf m a h)

theorem wf_writeLine {m : Memory} (c : Comp) (key : Nat) (line : List Byte) (h : Memory.wf m = true) :
    Memory.wf (writeLine m c key line) = true := by
  unfold writeLine
  dsimp only
  repeat' split
  all_goals first
    | exact Memory.wf_writeBytes _ _ h
    | exact Memory.wf_write _ _ (Memory.wf_writeBytes _ _ h)

/-- What no other part of a state bears on. -/
theorem State.memOk_of_mem {s t : State} (e : t.mem = s.mem) (h : s.memOk = true) : t.memOk = true := by
  unfold State.memOk; rw [e]; exact h

theorem State.memOk_homeWrite {s : State} (c : Option Comp) (key : Nat) (v : Byte) (lo hi full : Bool) (h : s.memOk = true) :
    (s.homeWrite c key v lo hi full).memOk = true := by
  cases c with
  | none => exact Memory.wf_write _ _ h
  | some c => exact wf_writeLine c key _ h

theorem wf_writeBytesOf {m : Memory} (c : Option Comp) (ws : List (Nat × Byte × Bool × Bool)) (h : Memory.wf m = true) :
    Memory.wf (writeBytesOf m c ws) = true := by
  cases c with
  | none => exact Memory.wf_foldl _ (fun _ _ hm => Memory.wf_write _ _ hm) _ h
  | some c =>
    refine Memory.wf_foldl _ (fun m n hm => ?_) _ h
    unfold writeInLine
    split
    · exact hm
    · exact wf_writeLine c _ _ hm

theorem State.memOk_homeWrites {s : State} (c : Option Comp) (ws : List (Nat × Byte × Bool × Bool)) (h : s.memOk = true) :
    (s.homeWrites c ws).memOk = true := wf_writeBytesOf c ws h

theorem State.memOk_writeHome {s : State} (key : Nat) (bs : List Byte) (h : s.memOk = true) : (s.writeHome key bs).memOk = true :=
  Memory.wf_writeBytes _ _ h

theorem State.memOk_clearBank {s : State} (bank : Nat) (h : s.memOk = true) : (s.clearBank bank).memOk = true :=
  Memory.wf_filter _ h

theorem State.memOk_afterLoss {s : State} (keep : Nat → Bool) (h : s.memOk = true) : (s.afterLoss keep).memOk = true :=
  Memory.wf_filter _ h

/-- The bytes of a page are copied onto another one once the writes on their way to it have performed. -/
theorem State.memOk_copyPage {s : State} (src dst n : Nat) (h : (s.settleRange src n).memOk = true) :
    (s.copyPage src dst n).memOk = true :=
  Memory.wf_foldl _ (fun _ _ hm => Memory.wf_write _ _ hm) _ (Memory.wf_filter _ h)

theorem State.acquire_mem (s : State) (g : Nat) (scope : Scope) : (s.acquire g scope).mem = s.mem := by
  unfold State.acquire
  split
  · rfl
  · dsimp only
    split <;> rfl

theorem State.noteWake_mem (s : State) (c : Nat) (bits : BitVec 4) : (s.noteWake c bits).mem = s.mem := by
  unfold State.noteWake
  dsimp only
  split <;> rfl

/-- Waking a subset moves no byte. -/
theorem State.wakeGroup_mem (s : State) (g bank off : Nat) (phase : Word) : (s.wakeGroup g bank off phase).mem = s.mem := by
  unfold State.wakeGroup
  split
  · rfl
  · split
    · exact (State.acquire_mem ..).trans (State.noteWake_mem ..)
    · rfl

theorem State.foldl_mem {α : Type} (f : State → α → State) (hf : ∀ s a, (f s a).mem = s.mem) (l : List α) (s : State) :
    (l.foldl f s).mem = s.mem := by
  induction l generalizing s with
  | nil => rfl
  | cons a t ih => rw [List.foldl_cons, ih, hf]

theorem State.wakePhase_mem (s : State) (bank off : Nat) : (s.wakePhase bank off).mem = s.mem :=
  State.foldl_mem _ (fun _ _ => State.wakeGroup_mem ..) _ _

theorem State.wakeAt_mem (s : State) (key : Nat) : (s.wakeAt key).mem = s.mem := by
  unfold State.wakeAt
  split
  · exact State.wakePhase_mem ..
  · rfl

theorem State.memOk_foldl {α : Type} (f : State → α → State) (hf : ∀ s a, s.memOk = true → (f s a).memOk = true) (l : List α) {s : State}
    (h : s.memOk = true) : (l.foldl f s).memOk = true := by
  induction l generalizing s with
  | nil => exact h
  | cons a t ih => exact ih (hf s a h)

theorem State.memOk_engineWrite {s : State} (point : Option Nat) (c : Option Comp) (key : Nat) (bs : List Byte) (h : s.memOk = true) :
    (s.engineWrite point c key bs).memOk = true := by
  have h1 : ∀ t : State, t.memOk = true → ∀ l : List Nat, (if isBankKey key then l.foldl (fun s i => s.wakeAt (key + i)) t else t).memOk = true := by
    intro t ht l
    split
    · exact State.memOk_of_mem (State.foldl_mem _ (fun _ _ => State.wakeAt_mem ..) _ _) ht
    · exact ht
  refine h1 _ ?_ _
  have h2 : (match c with
      | none => s.writeHome key bs
      | some _ => (s.homeWrites c (byteWrites key bs)).clearErrors key bs.length : State).memOk = true := by
    cases c with
    | none => exact State.memOk_writeHome key bs h
    | some c => exact State.memOk_homeWrites (some c) _ h
  cases point <;> cases bs <;> exact h2

theorem State.memOk_writePa {s : State} (key : Nat) (bs : List Byte) (h : s.memOk = true) : (s.writePa key bs).memOk = true := by
  unfold State.writePa
  split
  · exact State.memOk_writeHome key bs h
  · exact State.memOk_foldl (fun (s : State) (p : Nat × List Byte) => s.homeWrites (s.compAt p.1) (byteWrites p.1 p.2))
      (fun _ _ hs => State.memOk_homeWrites _ _ hs) _ h

theorem State.memOk_engineWriteHalf {s : State} (point : Nat) (c : Option Comp) (key : Nat) (hi : Bool) (v : Nat) (h : s.memOk = true) :
    (s.engineWriteHalf point c key hi v).memOk = true :=
  State.memOk_of_mem (State.wakeAt_mem ..) (State.memOk_homeWrite (s := s) c key (BitVec.ofNat 8 (v % 16 * 17)) (!hi) hi false h)

/-! ### Writes on their way (12 R265) -/

theorem State.memOk_performWrite {s : State} (e : WbEntry) (h : s.memOk = true) : (s.performWrite e).memOk = true :=
  State.memOk_of_mem (State.wakeAt_mem ..) (State.memOk_homeWrite (s := s) e.comp e.key e.val e.lo e.hi e.full h)

theorem State.memOk_performAll {s : State} (es : List WbEntry) (h : s.memOk = true) : (s.performAll es).memOk = true := by
  unfold State.performAll
  split
  · exact h
  · exact State.memOk_performWrite _ h
  · dsimp only
    split <;> exact State.memOk_homeWrites (s := s) _ _ h

theorem State.memOk_moveBuffer {s : State} (i : Nat) (h : s.memOk = true) : (s.moveBuffer i).memOk = true := by
  unfold State.moveBuffer
  repeat' split
  all_goals first
    | exact h
    | exact State.memOk_performWrite _ h

theorem State.memOk_movePoint {s : State} (i : Nat) (h : s.memOk = true) : (s.movePoint i).memOk = true := by
  unfold State.movePoint
  repeat' split
  all_goals first
    | exact h
    | exact State.memOk_performAll _ h

theorem State.memOk_drainBuffer (p : WbEntry → Bool) (n : Nat) {s : State} (h : s.memOk = true) : (drainBuffer p n s).memOk = true := by
  induction n generalizing s with
  | zero => exact h
  | succ n ih =>
    unfold drainBuffer
    split
    · exact h
    · exact ih (State.memOk_moveBuffer _ h)

theorem State.memOk_drainPoint (p : PointWrite → Bool) (n : Nat) {s : State} (h : s.memOk = true) : (drainPoint p n s).memOk = true := by
  induction n generalizing s with
  | zero => exact h
  | succ n ih =>
    unfold drainPoint
    split
    · exact h
    · exact ih (State.memOk_movePoint _ h)

theorem State.memOk_bringHome {s : State} (core before : Nat) (keys : List Nat) (h : s.memOk = true) :
    (s.bringHome core before keys).memOk = true := by
  unfold State.bringHome
  exact State.memOk_drainPoint _ _ (State.memOk_drainPoint _ _ (State.memOk_drainBuffer _ _ h))

theorem State.reset_memOk : State.reset.memOk = true := rfl

end Sys2Proof.Machine
end

