-- ==== Sys2Proof/Tests/Slice0.lean ====
section
/-!
SUPPORT. Tests of the model, each of one definition or of one step: terms that are not well formed, words that the spec
spells out, and single instructions on a small state. Every expected value is the spec's own, or worked out from it.
-/
namespace Sys2Proof.Tests
open Sys2Proof.Machine

/-! ### Small states -/

/-- A fibre at 0x1000, and the group that holds four of them: 16 registers, all four active. -/
def fibre0 : Fibre := { pc := 0x1000, flags := 0, repc := 0, link := 0x2000, lvl := [7], rewait := false }

def launch0 : Launch := { placeLaunch State.reset with record := { (placeLaunch State.reset).record with root := 0x10000 } }

/-- The banks 0 to 3 of cluster 0, one mapped in each space, and an empty slot of the scratchpad space. -/
def slots0 : List Slot :=
  [⟨.scr, 0, .mapped 0⟩, ⟨.act, 0, .mapped 1⟩, ⟨.wgt, 0, .mapped 2⟩, ⟨.acc, 0, .mapped 3⟩, ⟨.scr, 1, .empty⟩]

def block0 : Block :=
  { waitingBlock 1 0 0 with
    phase := .running, cores := [0], seats := [{ core := 0, resident := 0, bm := [], cv := [0, 1] }], groups := [3]
    issued := true, slots := slots0, area := 0x80000, areaLen := 0x10000 }

def group0 (regs : Sparse Word) : Group :=
  { newGroup launch0 2 block0 0 0 placeSpot with
    wsize := 16, regs := regs, fibres := (List.range 4).map fun l => (l, fibre0), width := 4
    current := some { mask := 0xF, wait := .none, since := 0, count := 0 }, waiting := [] }

/-- The group's memory: the first 4 GiB at their own addresses, readable and writable. -/
def mem0 : Memory := Memory.writeBytes (Memory.writeBytes [] 0x10000 (bytesOf 8 (2 ^ 63 + 2 * 2 ^ 20 + 1))) 0x20000 (bytesOf 8 7)

/-- Group 3 of block 2 issues, with these registers in its lanes. -/
def state0 (regs : Sparse Word) : State :=
  { State.reset with
    nextId := 10, cur := some 3, word := 0x1234, mem := mem0, launches := [(1, launch0)], blocks := [(2, block0)]
    groups := [(3, group0 regs)], bankState := [(0, .held), (1, .held), (2, .held), (3, .held)] }

/-- The same value in a register of all four lanes. -/
def all4 (r : Nat) (v : Word) : Sparse Word := (List.range 4).map fun l => (regKey l r, v)

/-- Registers that hold one value in every lane. -/
def regs (l : List (Nat × Word)) : Sparse Word := l.foldl (fun t p => (List.range 4).foldl (fun t i => Tab.put t (regKey i p.1) p.2) t) []

/-- What register r of lane l holds, and the flags of the lane, after an instruction. -/
def runs (i : Instr) (s : State) (l r : Nat) : Option (Word × Word) :=
  match exec i s with
  | .next t => (t.group? 3).map fun x => (x.reg l r, ((x.fibre? l).map Fibre.flags).getD 0)
  | _ => none

/-- v1 of lane 0 after an instruction that reads v2, v3 and v1. -/
def v1 (i : Instr) (a b d : Word) : Option (Word × Word) := runs i (state0 (regs [(1, d), (2, a), (3, b)])) 0 1

def o3 : LaneOp3 := ⟨false, .none, 1, 2, 3⟩
def o2 : LaneOp2 := ⟨false, .none, 1, 2⟩
def r3 : Regs3 := ⟨false, 1, 2, 3⟩
def r2 : Regs2 := ⟨false, 1, 2⟩

/-- What an instruction leaves of the machine. -/
def after (i : Instr) (s : State) : Option State :=
  match exec i s with
  | .next t => some t
  | _ => none

/-- Some part of what an instruction leaves. -/
def part {β : Type} (i : Instr) (s : State) (f : State → β) : Option β := (after i s).map f

/-! ### Terms that are not well formed (R65, R66, R103, R109, R141, R230) -/

theorem test_wf_holds : (Instr.iaddi ⟨false, .b, 1, 0⟩).wf = false ∧ (Instr.movi ⟨false, .a, 1, 0⟩).wf = false ∧
    (Instr.movi ⟨false, .b, 1, 0⟩).wf = false ∧ (Instr.popc ⟨false, .b, 1, 2⟩).wf = false ∧
    (Instr.frcp ⟨false, .b, 1, 2⟩).wf = false ∧ (Instr.iaddi ⟨false, .a, 1, 0⟩).wf = true := by decide

theorem test_wf_cvt : (Instr.cvt ⟨false, .none, 1, 2, 0, .rs⟩).wf = false ∧ (Instr.cvt ⟨false, .none, 1, 2, 8, .rz⟩).wf = false ∧
    (Instr.cvt ⟨false, .b, 1, 2, 6, .rs⟩).wf = false ∧ (Instr.cvt ⟨false, .none, 1, 2, 6, .rs⟩).wf = true := by decide

theorem test_wf_hints : (Instr.jmp ⟨false, .uniform, 0⟩).wf = false ∧ (Instr.call ⟨false, .uniform, 0⟩).wf = false ∧
    (Instr.ubrz ⟨false, .uniform, 1, 0⟩).wf = false ∧ (Instr.brz ⟨false, .uniform, 1, 0⟩).wf = true := by decide

theorem test_wf_cvdecl : (Instr.cvdecl ⟨false, .group, 0, 0⟩).wf = false ∧ (Instr.cvdecl ⟨false, .group, 0, 65⟩).wf = false ∧
    (Instr.cvdecl ⟨false, .quad, 0, 257⟩).wf = false ∧ (Instr.cvdecl ⟨false, .core, 0, 1025⟩).wf = false ∧
    (Instr.cvdecl ⟨false, .core, 0, 1024⟩).wf = true := by decide

theorem test_wf_swr : (Instr.swr ⟨false, 1, .wake⟩).wf = false ∧ (Instr.swr ⟨false, 1, .ny 3⟩).wf = false ∧
    (Instr.swr ⟨false, 1, .lnk⟩).wf = true := by decide

theorem test_wf_numbers : (Instr.launch 64).wf = false ∧ (Instr.coreWake 192).wf = false ∧ (Instr.bankClearDone 1536).wf = false ∧
    (Instr.mmaSetStart 0 192 0).wf = false ∧ (Instr.mmaSetStart 0 0 8).wf = false ∧ (Instr.frameStart 4).wf = false ∧
    (Instr.pointFill 208 0).wf = false ∧ (Instr.avmalLinkDown 18).wf = false ∧ (Instr.signalLineSet 64).wf = false ∧
    (Instr.swaitTimeout 4).wf = false ∧ (Instr.compArrival (.other 18 []) 0).wf = false ∧ (Instr.launch 63).wf = true := by decide

/-! ### Words that the spec spells out, family by family -/

/-- 05 R112-R119: the words of 05's tables. -/
theorem test_decode_lane_integer : decodeFibre 0x01004103 = some (.iadd ⟨false, .none, 1, 2, 3⟩) ∧
    decodeFibre 0x01204103 = some (.isub ⟨false, .none, 1, 2, 3⟩) ∧ decodeFibre 0x0200C064 = some (.iaddi ⟨false, .none, 3, 100⟩) ∧
    decodeFibre 0x04210286 = some (.imulhU ⟨false, .none, 4, 5, 6⟩) ∧ decodeFibre 0x08008382 = some (.clz ⟨false, .none, 2, 7⟩) ∧
    decodeFibre 0x0D00C003 = some (.movi ⟨false, .none, 3, 3⟩) ∧ decodeFibre 0x0E00FE00 = some (.lui ⟨false, .none, 3, 0x3E00⟩) ∧
    decodeFibre 0x16020184 = some (.ilv2 ⟨false, .none, 8, 3, 4⟩) ∧ decodeFibre 0x18024082 = some (.rnd ⟨false, .none, 9, 1, 2⟩) := by
  decide

/-- 05 R120-R125. -/
theorem test_decode_lane_float : decodeFibre 0x19014307 = some (.fadd ⟨false, .none, 5, 6, 7⟩) ∧
    decodeFibre 0x19214307 = some (.fsub ⟨false, .none, 5, 6, 7⟩) ∧ decodeFibre 0x1B82420C = some (.ffma ⟨false, .b, 9, 4, 12⟩) ∧
    decodeFibre 0x20028581 = some (.frsq ⟨false, .none, 10, 11⟩) ∧ decodeFibre 0x2300C205 = some (.hfma2 ⟨false, .none, 3, 4, 5⟩) ∧
    decodeFibre 0x25010134 = some (.cvt ⟨false, .none, 4, 2, 6, .rs⟩) := by decide

/-- 05 R126-R128. -/
theorem test_decode_crossing : decodeFibre 0x2900C104 = some (.shflUp ⟨false, 3, 2, 4⟩) ∧
    decodeFibre 0x28214104 = some (.shflXor ⟨false, 5, 2, 4⟩) ∧ decodeFibre 0x2A018102 = some (.voteBallot ⟨false, 6, 2⟩) ∧
    decodeFibre 0x2B230480 = some (.qdxF ⟨false, 12, 9⟩) := by decide

/-- A lane branch and a word of each unused opcode, bit by bit (03 R57, R70). -/
theorem test_decode_branch : decodeFibre 0b00101100_01_0_0000101_00000000000111 = some (.brz ⟨false, .likely, 5, 7⟩) ∧
    decodeFibre 0b01101101_11_0_0000101_11111111111111 = some (.brnz ⟨true, .uniform, 5, -1⟩) ∧
    decodeFibre 0b00101100_01_1_0000101_00000000000111 = none ∧ decodeFibre 0b00100110_00_0_0000000_00000000000000 = none := by decide

/-- 06 R129-R147. -/
theorem test_decode_uniform : decodeFibre 0x80004103 = some (.uadd ⟨false, 1, 2, 3⟩) ∧
    decodeFibre 0x80410286 = some (.umul ⟨false, 4, 5, 6⟩) ∧ decodeFibre 0x81004082 = some (.ushl ⟨false, 1, 1, 2⟩) ∧
    decodeFibre 0x82808184 = some (.ucmpLtU ⟨false, 2, 3, 4⟩) ∧ decodeFibre 0x83027FFF = some (.uaddi ⟨false, 9, -1⟩) ∧
    decodeFibre 0x84E0BFFF = some (.umovi ⟨false, 2, -1⟩) ∧ decodeFibre 0x8400DFC0 = some (.umovi ⟨false, 3, 0x1FC0⟩) ∧
    decodeFibre 0x8500C000 = some (.ului ⟨false, 3, 0⟩) ∧ decodeFibre 0x8C200200 = some (.jr ⟨false, 4⟩) ∧
    decodeFibre 0x8C000000 = some (.ret ⟨false⟩) ∧ decodeFibre 0x8D001404 = some (.repImmediate ⟨1, 1, 0, 4⟩) ∧
    decodeFibre 0x8E000000 = some (.nop ⟨false⟩) ∧ decodeFibre 0x8E200000 = some (.park ⟨false⟩) ∧
    decodeFibre 0xBA000000 = some (.yield ⟨false⟩) := by decide

/-- 06 R139-R147, 02 R45, R50. -/
theorem test_decode_control : decodeFibre 0x2E000000 = some (.fend ⟨false⟩) ∧ decodeFibre 0x2E214082 = some (.fspawn ⟨false, 5, 1, 2⟩) ∧
    decodeFibre 0xB9018000 = some (.time ⟨false, 6⟩) ∧ decodeFibre 0xB8014060 = some (.srd ⟨false, 5, .clk⟩) ∧
    decodeFibre 0xBA200007 = some (.trap ⟨false, 7⟩) ∧ decodeFibre 0xBA400001 = some (.brk ⟨false, 1⟩) ∧
    decodeFibre 0xB440C202 = some (.bsadd ⟨false, 3, 4, 2⟩) ∧ decodeFibre 0xBB000082 = some (.ntfy ⟨false, 1, 2⟩) := by decide

/-- 07: loads, stores and atomics of global memory. -/
theorem test_decode_global : decodeFibre 0x70020104 = some (.ldb ⟨true, .one, 8, 2, 4⟩) ∧
    decodeFibre 0x30628184 = some (.stb ⟨false, .two, 10, 3, 4⟩) ∧ decodeFibre 0x31410108 = some (.atbCas ⟨false, 4, 2, 8⟩) ∧
    decodeFibre 0x32014104 = some (.atbMinS ⟨false, 5, 2, 4⟩) ∧ decodeFibre 0x33E28104 = some (.atb64MaxU ⟨false, 10, 2, 4⟩) ∧
    decodeFibre 0x34218188 = some (.redbFadd ⟨false, 6, 3, 8⟩) := by decide

/-- 08: banks. -/
theorem test_decode_banks : decodeFibre 0x75020104 = some (.lds ⟨true, .one, 8, 2, 4⟩) ∧
    decodeFibre 0x35A30185 = some (.sts ⟨false, .four, 12, 3, 5⟩) ∧ decodeFibre 0x36428104 = some (.atsCas ⟨false, 10, 2, 4⟩) ∧
    decodeFibre 0x37214104 = some (.atsMaxS ⟨false, 5, 2, 4⟩) ∧ decodeFibre 0x38418104 = some (.lda ⟨false, .two, 6, 2, 4⟩) ∧
    decodeFibre 0x38218104 = some (.sta ⟨false, .one, 6, 2, 4⟩) ∧ decodeFibre 0x79840104 = some (.ldw ⟨true, 16, 2, 4⟩) ∧
    decodeFibre 0x98008080 = some (.batt ⟨false, 2, 1⟩) ∧ decodeFibre 0x98210083 = some (.bres ⟨false, 4, 1, 3⟩) ∧
    decodeFibre 0x98400085 = some (.bgive ⟨false, 1, 5⟩) ∧ decodeFibre 0x98600080 = some (.brel ⟨false, 1⟩) ∧
    decodeFibre 0x98818080 = some (.bmap ⟨false, 6, 1⟩) := by decide

/-- 09: barriers and the copy engine; 12 R272. -/
theorem test_decode_barriers : decodeFibre 0x90000082 = some (.binit ⟨false, 1, 2⟩) ∧ decodeFibre 0x90214080 = some (.barr ⟨false, 5, 1⟩) ∧
    decodeFibre 0xD0214081 = some (.barrF ⟨true, 5, 1⟩) ∧ decodeFibre 0x90400083 = some (.bexp ⟨false, 1, 3⟩) ∧
    decodeFibre 0x90600085 = some (.bwait ⟨false, 1, 5⟩) ∧ decodeFibre 0x99010403 = some (.cpy ⟨false, 4, 8, 3⟩) ∧
    decodeFibre 0x99210403 = some (.cpyo ⟨false, 4, 8, 3⟩) ∧ decodeFibre 0x99410403 = some (.gath ⟨false, 4, 8, 3⟩) ∧
    decodeFibre 0x9961040C = some (.mcast ⟨false, 4, 8, 12⟩) ∧ decodeFibre 0x91200000 = some (.fence ⟨false, .core⟩) ∧
    decodeFibre 0xD1600000 = some (.fence ⟨true, .dev⟩) ∧ decodeFibre 0x91A00000 = some (.fence ⟨false, .dom⟩) := by decide

/-- 10: the matrix engine. -/
theorem test_decode_matrix : decodeFibre 0x9A40C400 = some (.cvdecl ⟨false, .core, 3, 1024⟩) ∧
    decodeFibre 0x9A204100 = some (.cvdecl ⟨false, .quad, 1, 256⟩) ∧ decodeFibre 0x2F00C808 = some (.mma ⟨false, 3, 16, 8⟩) ∧
    decodeFibre 0x7A850104 = some (.cva ⟨true, .four, 20, 2, 4⟩) ∧ decodeFibre 0x3A228104 = some (.acw ⟨false, .one, 10, 2, 4⟩) := by decide

/-- 16, 18: traversal, images and the raster pipeline. -/
theorem test_decode_graphics : decodeFibre 0x7B040200 = some (.trace ⟨true, 16, 4⟩) ∧ decodeFibre 0x7B240203 = some (.tres ⟨true, 16, 4, 3⟩) ∧
    decodeFibre 0x7C080A8E = some (.gframe ⟨true, 32, 21, 14⟩) ∧ decodeFibre 0x7C2A0C0E = some (.gupd ⟨true, 40, 24, 14⟩) ∧
    decodeFibre 0x3D040108 = some (.smp ⟨false, 16, 2, 8⟩) ∧ decodeFibre 0x3D440108 = some (.smpd ⟨false, 16, 2, 8⟩) ∧
    decodeFibre 0x3D840108 = some (.smpl ⟨false, 16, 2, 8⟩) ∧ decodeFibre 0x3E050104 = some (.ldimg ⟨false, .one, 20, 2, 4⟩) ∧
    decodeFibre 0x3E650104 = some (.stimg ⟨false, .two, 20, 2, 4⟩) ∧ decodeFibre 0x3F040106 = some (.emitv ⟨false, 16, 2, 6⟩) ∧
    decodeFibre 0x3F460186 = some (.emitp ⟨false, 24, 3, 6⟩) ∧ decodeFibre 0x3F820080 = some (.exportPixel ⟨false, 8, 1⟩) := by decide

/-- 11 R260. -/
theorem test_decode_harts : decodeHart 0x00C5850B = some (.rfetch ⟨10, 11, 12⟩) ∧ decodeHart 0x00C5950B = some (.xbfx ⟨10, 11, 12⟩) ∧
    decodeHart 0x00C5A50B = some (.swait ⟨10, 11, 12⟩) ∧ decodeHart 0x00C5B50B = some (.disp ⟨10, 11, 12⟩) ∧
    decodeHart 0x00C5C50B = none ∧ decodeHart 0x02C5850B = none := by decide

/-- The table's numbering: the one word of an instruction (DESIGN CHOICE, log 5). -/
theorem test_table_word : decodeTableWord 32 0x01004103 = some (.iadd ⟨false, .none, 1, 2, 3⟩) ∧
    decodeTableWord 32 0x00C5850B = some (.rfetch ⟨10, 11, 12⟩) ∧ decodeTableWord 32 0 = none := by decide

/-- A placed word is fetched and run by the very next step (DESIGN CHOICE, log 5): `movi v1, -1`, at 0x30000. -/
theorem test_placed_word_runs : (match step (State.reset.withFetchWord 32 0x0D007FFF) with
  | .next t => (t.group? 3).map fun x => (x.reg 7 1, x.pc)
  | _ => none) = some (0xFFFFFFFF, 0x30004) := by decide

/-! ### Lane arithmetic (05) -/

theorem test_iadd_wraps : v1 (.iadd o3) 0xFFFFFFFF 2 9 = some (1, 0) := by decide
theorem test_isub_borrows : v1 (.isub o3) 1 2 9 = some (0xFFFFFFFF, 0) := by decide
theorem test_imul_low : v1 (.imul o3) 0x10001 0x10001 9 = some (0x20001, 0) := by decide
theorem test_imulh_signed : v1 (.imulhS o3) 0xFFFFFFFF 2 9 = some (0xFFFFFFFF, 0) := by decide
theorem test_imulh_unsigned : v1 (.imulhU o3) 0xFFFFFFFF 2 9 = some (1, 0) := by decide
theorem test_imad_adds_old : v1 (.imad o3) 3 4 5 = some (17, 0) := by decide
theorem test_imin_signed : v1 (.iminS o3) 0xFFFFFFFF 1 0 = some (0xFFFFFFFF, 0) := by decide
theorem test_imin_unsigned : v1 (.iminU o3) 0xFFFFFFFF 1 0 = some (1, 0) := by decide
theorem test_imax_signed : v1 (.imaxS o3) 0xFFFFFFFF 1 0 = some (1, 0) := by decide
theorem test_imax_unsigned : v1 (.imaxU o3) 0xFFFFFFFF 1 0 = some (0xFFFFFFFF, 0) := by decide
/-- R112: `iabs` of the most negative number is that number. -/
theorem test_iabs_least : v1 (.iabs o2) 0x80000000 0 0 = some (0x80000000, 0) := by decide
theorem test_popc : v1 (.popc o2) 0xF00000F1 0 0 = some (9, 0) := by decide
theorem test_clz_zero : v1 (.clz o2) 0 0 9 = some (32, 0) ∧ v1 (.clz o2) 1 0 9 = some (31, 0) := by decide
theorem test_ctz : v1 (.ctz o2) 0 0 9 = some (32, 0) ∧ v1 (.ctz o2) 8 0 9 = some (3, 0) := by decide
theorem test_brev : v1 (.brev o2) 1 0 0 = some (0x80000000, 0) := by decide
theorem test_icmp_eq : v1 (.icmpEq o3) 5 5 9 = some (1, 0) ∧ v1 (.icmpNe o3) 5 5 9 = some (0, 0) := by decide
theorem test_icmp_lt : v1 (.icmpLtS o3) 0xFFFFFFFF 0 9 = some (1, 0) ∧ v1 (.icmpLtU o3) 0xFFFFFFFF 0 9 = some (0, 0) := by decide
theorem test_icmp_ge : v1 (.icmpGeS o3) 0xFFFFFFFF 0 9 = some (0, 0) ∧ v1 (.icmpGeU o3) 0 0 9 = some (1, 0) := by decide
/-- R114: `sel` tests its destination. -/
theorem test_sel : v1 (.sel o3) 7 8 0 = some (8, 0) ∧ v1 (.sel o3) 7 8 0x100 = some (7, 0) := by decide
/-- R113's three words for 1.0. -/
theorem test_movi_lui : runs (.movi ⟨false, .none, 3, 3⟩) (state0 []) 0 3 = some (3, 0) ∧
    runs (.lui ⟨false, .none, 3, 0x3E00⟩) (state0 (regs [(3, 3)])) 0 3 = some (0xFE00, 0) ∧
    runs (.lui ⟨false, .none, 3, 0⟩) (state0 (regs [(3, 0xFE00)])) 0 3 = some (0x3F800000, 0) := by decide
theorem test_ori : runs (.ori ⟨false, .none, 3, 0x3FFF⟩) (state0 (regs [(3, 0xF0000000)])) 3 3 = some (0xF0003FFF, 0) := by decide
theorem test_iaddi_negative : runs (.iaddi ⟨false, .none, 3, -1⟩) (state0 (regs [(3, 5)])) 0 3 = some (4, 0) := by decide
theorem test_logic : v1 (.andL o3) 12 10 0 = some (8, 0) ∧ v1 (.andn o3) 12 10 0 = some (4, 0) ∧ v1 (.orL o3) 12 10 0 = some (14, 0) ∧
    v1 (.xorL o3) 12 10 0 = some (6, 0) := by decide
theorem test_shl_all_bits : v1 (.shl o3) 1 31 0 = some (0x80000000, 0) ∧ v1 (.shl o3) 1 32 0 = some (0, 0) := by decide
theorem test_shr_sar : v1 (.shr o3) 0x80000000 33 0 = some (0, 0) ∧ v1 (.sar o3) 0x80000000 33 0 = some (0xFFFFFFFF, 0) := by decide
/-- R116's example, cut at bit 31. -/
theorem test_bfe : v1 (.bfeU o3) 0xA0000000 0xC1C 0 = some (0xA, 0) ∧ v1 (.bfeS o3) 0xA0000000 0xC1C 0 = some (0xFFFFFFFA, 0) := by decide
theorem test_bfi : v1 (.bfi o3) 5 0xC1C 0x0FFFFFFF = some (0x5FFFFFFF, 0) := by decide
/-- R118's examples. -/
theorem test_morton_two : v1 (.ilv2 o3) 3 1 0 = some (7, 0) ∧ v1 (.dil2 o3) 7 0 0 = some (3, 0) ∧ v1 (.dil2 o3) 7 1 0 = some (1, 0) := by decide
theorem test_ilv_three : v1 (.ilv3 o3) 1 0 1 = some (5, 0) := by decide
set_option maxRecDepth 4000 in
theorem test_dil_three : v1 (.dil3 o3) 5 2 0 = some (1, 0) ∧ v1 (.dil3 o3) 7 3 0 = some (0, 0) := by decide
/-- 05's worked example of R120: the product is rounded by `fmul` and is not by `ffma`. -/
theorem test_fmul_rounds : v1 (.fmul o3) 0x3F800800 0x3F800800 0 = some (0x3F801000, flagNX) := by decide
theorem test_ffma_exact : v1 (.ffma o3) 0x3F800800 0x3F800800 0xBF801000 = some (0x33800000, 0) := by decide
theorem test_fadd : v1 (.fadd o3) 0x3F800000 0x40000000 0 = some (0x40400000, 0) ∧
    v1 (.fadd o3) 0x7F800000 0xFF800000 0 = some (0x7FC00000, flagNV) := by decide
theorem test_fsub_zero : v1 (.fsub o3) 0x3F800000 0x3F800000 0 = some (0, 0) := by decide
theorem test_fdiv : v1 (.fdiv o3) 0x3F800000 0x40400000 0 = some (0x3EAAAAAB, flagNX) := by decide
/-- R122: the minimum of zeros is −0. -/
theorem test_fmin_fmax : v1 (.fmin o3) 0 0x80000000 0 = some (0x80000000, 0) ∧ v1 (.fmax o3) 0x80000000 0 0 = some (0, 0) := by decide
theorem test_fcmp : v1 (.fcmpEq o3) 0 0x80000000 5 = some (1, 0) ∧ v1 (.fcmpLt o3) 0x3F800000 0x40000000 5 = some (1, 0) ∧
    v1 (.fcmpLe o3) 0x40000000 0x40000000 5 = some (1, 0) ∧ v1 (.fcmpUn o3) 0x7FC00000 0 5 = some (1, 0) := by decide
/-- R123's table. -/
theorem test_float_functions : v1 (.frcp o2) 0x40000000 0 0 = some (0x3F000000, 0) ∧ v1 (.frsq o2) 0x40800000 0 0 = some (0x3F000000, 0) ∧
    v1 (.fsqrt o2) 0x40800000 0 0 = some (0x40000000, 0) := by decide
theorem test_fex2 : v1 (.fex2 o2) 0x40400000 0 0 = some (0x41000000, 0) := by decide
theorem test_flg2 : v1 (.flg2 o2) 0x41000000 0 0 = some (0x40400000, 0) := by decide
theorem test_circular_functions : v1 (.fsinpi o2) 0x3F000000 0 0 = some (0x3F800000, 0) ∧
    v1 (.fcospi o2) 0x3F800000 0 0 = some (0xBF800000, 0) ∧ v1 (.fsinpi o2) 0x7F800000 0 0 = some (0x7FC00000, flagNV) := by decide
theorem test_packed : v1 (.hadd2 o3) 0x3C003C00 0x40003C00 0 = some (0x42004000, 0) ∧ v1 (.hmul2 o3) 0x40003C00 0x40004000 0 = some (0x44004000, 0) ∧
    v1 (.hfma2 o3) 0x3C003C00 0x3C003C00 0x3C000000 = some (0x40003C00, 0) ∧ v1 (.hmin2 o3) 0x3C004000 0x40003C00 0 = some (0x3C003C00, 0) ∧
    v1 (.hmax2 o3) 0x3C004000 0x40003C00 0 = some (0x40004000, 0) := by decide

/-! ### Lane crossing (05 R126-R128) -/

/-- The quad of R128's example: 1.0, 3.0, 2.0 and 7.0. -/
def quad : State := state0 [(regKey 0 2, 0x3F800000), (regKey 1 2, 0x40400000), (regKey 2 2, 0x40000000), (regKey 3 2, 0x40E00000)]
theorem test_qdx : runs (.qdxC r2) quad 3 1 = some (0x40000000, 0) ∧ runs (.qdxF r2) quad 3 1 = some (0x40A00000, 0) := by decide
theorem test_qdy : runs (.qdyC r2) quad 3 1 = some (0x3F800000, 0) ∧ runs (.qdyF r2) quad 3 1 = some (0x40800000, 0) := by decide
def tens : State := state0 ([(regKey 0 2, 0), (regKey 0 3, 1)] ++ [(regKey 1 2, 10), (regKey 1 3, 1)] ++ [(regKey 2 2, 20), (regKey 2 3, 1)]
  ++ [(regKey 3 2, 30), (regKey 3 3, 1)])
theorem test_shuffles : runs (.shflUp r3) tens 0 1 = some (0, 0) ∧ runs (.shflUp r3) tens 2 1 = some (10, 0) ∧
    runs (.shflDn r3) tens 3 1 = some (30, 0) ∧ runs (.shflXor r3) tens 2 1 = some (30, 0) ∧ runs (.shflIdx r3) tens 3 1 = some (10, 0) := by decide
theorem test_votes : runs (.voteAny r2) tens 0 1 = some (1, 0) ∧ runs (.voteAll r2) tens 0 1 = some (0, 0) ∧
    runs (.voteBallot r2) tens 0 1 = some (0xE, 0) ∧ runs (.voteBallot r2) tens 0 2 = some (0, 0) := by decide

/-! ### The uniform set (06) -/

theorem test_uadd_broadcasts : runs (.uadd r3) (state0 [(regKey 0 2, 5), (regKey 0 3, 6), (regKey 1 2, 100)]) 3 1 = some (11, 0) := by decide
theorem test_uniform_ops : v1 (.usub r3) 1 2 0 = some (0xFFFFFFFF, 0) ∧ v1 (.umul r3) 3 5 0 = some (15, 0) ∧ v1 (.uand r3) 12 10 0 = some (8, 0) ∧
    v1 (.uor r3) 12 10 0 = some (14, 0) ∧ v1 (.uxor r3) 12 10 0 = some (6, 0) := by decide
theorem test_uniform_shifts : v1 (.ushl r3) 1 32 0 = some (0, 0) ∧ v1 (.ushr r3) 0x80000000 31 0 = some (1, 0) ∧
    v1 (.usar r3) 0x80000000 40 0 = some (0xFFFFFFFF, 0) := by decide
theorem test_uniform_compares : v1 (.ucmpEq r3) 1 1 0 = some (1, 0) ∧ v1 (.ucmpNe r3) 1 1 0 = some (0, 0) ∧
    v1 (.ucmpLtS r3) 0xFFFFFFFF 0 0 = some (1, 0) ∧ v1 (.ucmpGeS r3) 0xFFFFFFFF 0 0 = some (0, 0) ∧ v1 (.ucmpLtU r3) 0xFFFFFFFF 0 0 = some (0, 0) ∧
    v1 (.ucmpGeU r3) 0xFFFFFFFF 0 0 = some (1, 0) := by decide
/-- R134's two words for 1.0. -/
theorem test_umovi_ului : runs (.umovi ⟨false, 3, 0x1FC0⟩) (state0 []) 2 3 = some (0x1FC0, 0) ∧
    runs (.ului ⟨false, 3, 0⟩) (state0 (regs [(3, 0x1FC0)])) 2 3 = some (0x3F800000, 0) ∧
    runs (.uaddi ⟨false, 3, -1⟩) (state0 (regs [(3, 1)])) 2 3 = some (0, 0) := by decide

/-- Where the lowest active lane stands after an instruction. -/
def pcOf (i : Instr) (s : State) : Option (Option CodeAddr) := part i s fun t => ((t.group? 3).bind fun x => x.fibre? 0).map Fibre.pc

theorem test_jumps : pcOf (.jmp ⟨false, .none, -4⟩) (state0 []) = some (some 0xFF0) ∧ pcOf (.ret ⟨false⟩) (state0 []) = some (some 0x2000) ∧
    pcOf (.jr ⟨false, 2⟩) (state0 (regs [(2, 0x400), (3, 1)])) = some (some 0x100000400) := by decide
theorem test_call_links : part (.call ⟨false, .none, 2⟩) (state0 []) (fun t => ((t.group? 3).bind fun x => x.fibre? 0).map fun f => (f.pc, f.link)) =
    some (some (0x1008, 0x1004)) := by decide
theorem test_uniform_branches : pcOf (.ubrz ⟨false, .none, 2, 3⟩) (state0 []) = some (some 0x100C) ∧
    pcOf (.ubrnz ⟨false, .none, 2, 3⟩) (state0 []) = some (some 0x1004) := by decide
/-- R137, R30: a divergent branch keeps the part with the lower address, where no hint says otherwise. -/
theorem test_branch_splits : part (.brz ⟨false, .none, 2, -2⟩) tens (fun t => (t.group? 3).map fun x => (x.active, x.pc, x.waiting.length)) =
    some (some (1, 0xFF8, 1)) := by decide
theorem test_brnz_likely : part (.brnz ⟨false, .unlikely, 2, 8⟩) tens (fun t => (t.group? 3).map fun x => (x.active, x.pc)) =
    some (some (1, 0x1004)) := by decide
theorem test_nop_park_yield : pcOf (.nop ⟨false⟩) (state0 []) = some (some 0x1004) ∧ pcOf (.park ⟨false⟩) (state0 []) = some (some 0x1004) ∧
    pcOf (.yield ⟨false⟩) (state0 []) = some (some 0x1004) := by decide
/-- R74-R76: four iterations of `iadd v1, v2, v3` with strides 1, 1, 0 add v3 to v2 to v5. -/
theorem test_rep : part (.repImmediate ⟨1, 1, 0, 1⟩)
    { state0 (regs [(2, 5), (3, 7)]) with mem := Memory.writeBytes (Memory.writeBytes mem0 0x1004 (bytesOf 4 0x01004103)) 0x20000 (bytesOf 8 7) }
    (fun t => (t.group? 3).map fun x => (x.reg 2 1, x.pc)) = some (some (12, 0x1008)) := by decide
theorem test_rep_register_zero : part (.repRegister ⟨4, 1, 1, 0⟩)
    { state0 (regs [(2, 5), (3, 7)]) with mem := Memory.writeBytes (Memory.writeBytes mem0 0x1004 (bytesOf 4 0x01004103)) 0x20000 (bytesOf 8 7) }
    (fun t => (t.group? 3).map fun x => (x.reg 2 1, x.pc)) = some (some (0, 0x1008)) := by decide

/-! ### Fibres, exceptions and system registers (06, 13) -/

/-- State with a handler at 0x4000, and how it looks in a handler. -/
def handled (rs : Sparse Word) : State :=
  { state0 rs with blocks := [(2, { block0 with tvec := 0x4001 })] }

theorem test_fend_ends_block : part (.fend ⟨false⟩) (state0 []) (fun t => (t.groups.length, t.blocks.length)) = some (0, 0) := by decide
theorem test_fspawn_full : runs (.fspawn ⟨false, 5, 1, 2⟩) (state0 []) 0 5 = some (0xFFFFFFFF, 0) := by decide
/-- R281, R286: a trap saves the PC past itself, sets TRAP and goes to the handler. -/
theorem test_trap_entry : part (.trap ⟨false, 7⟩) (handled []) (fun t => (t.group? 3).map fun x => (x.pc, ((x.fibre? 1).map fun f => (f.link, f.flags)),
    x.fops.head?)) = some (some (0x4000, some (0x1004, 8), some 7)) := by decide
theorem test_brk_code : part (.brk ⟨false, 1⟩) (handled []) (fun t => (t.group? 3).map fun x => x.fcause.toNat % 256) =
    some (some (Cause.code .brk)) := by decide
/-- R67: an unassigned word is illegal, at its own address. -/
theorem test_unassigned_word : part (.unassignedWord 5) (handled []) (fun t => (t.group? 3).map fun x => (x.fpc, x.pc)) =
    some (some (0x1000, 0x4000)) := by decide
/-- 22 R388: sr.clk reads 600 after reset. -/
theorem test_srd_clk : runs (.srd ⟨false, 5, .clk⟩) (state0 []) 3 5 = some (600, 0) := by decide
theorem test_swr_lnk : part (.swr ⟨false, 5, .lnk⟩) (state0 (regs [(5, 0x8000)])) (fun t => ((t.group? 3).bind fun x => x.fibre? 2).map Fibre.link) =
    some (some 0x8000) := by decide
theorem test_time : runs (.time ⟨false, 6⟩) { state0 [] with tsc := 0x500000007 } 1 7 = some (5, 0) := by decide
theorem test_bsadd : runs (.bsadd ⟨false, 3, 4, 2⟩) { state0 (regs [(4, 6)]) with blocks := [(2, { block0 with bs := [0, 0, 9] })] } 1 3 = some (9, 0) ∧
    part (.bsadd ⟨false, 3, 4, 2⟩) { state0 (regs [(4, 6)]) with blocks := [(2, { block0 with bs := [0, 0, 9] })] }
      (fun t => (t.block? 2).map Block.bs) = some (some [0, 0, 15]) := by decide
theorem test_bsr_bsw : runs (.bsr ⟨false, 3, 2⟩) { state0 [] with blocks := [(2, { block0 with bs := [0, 0, 9] })] } 1 3 = some (9, 0) ∧
    part (.bsw ⟨false, 4, 2⟩) (state0 (regs [(4, 6)])) (fun t => (t.block? 2).map fun b => b.bs.take 3) = some (some [0, 0, 6]) := by decide

/-! ### Memory (07, 08, 12) -/

/-- v4 to v7 of every lane: a record of the buffer of 16 elements of 4 bytes at 0x100000 (R151), and one of 8 bytes. -/
def buffer : List (Nat × Word) := [(4, 0x100000), (5, 0x200000), (6, 0), (7, 16)]
def buffer8 : List (Nat × Word) := [(4, 0x100000), (5, 0x300000), (6, 0), (7, 16)]

/-- The values on their way to a register. -/
def coming (i : Instr) (s : State) : Option (List (Option Nat × List Word)) := part i s fun t => t.results.map fun r => (r.lane, r.vals)

def banks (rs : List (Nat × Word)) : State :=
  { state0 (regs rs) with mem := Memory.writeBytes mem0 (bankKey 0 .data 8) (bytesOf 8 0x600000005) }

theorem test_lds : coming (.lds ⟨false, .two, 8, 2, 3⟩) (banks [(2, 8)]) = some ((List.range 4).map fun l => (some l, [5, 6])) := by decide
theorem test_lda_ldw : coming (.lda ⟨false, .one, 8, 2, 3⟩) (banks []) = some ((List.range 4).map fun l => (some l, [0])) ∧
    coming (.ldw ⟨false, 8, 2, 3⟩) (banks []) = some ((List.range 4).map fun l => (some l, [0, 0, 0, 0])) := by decide
/-- The highest lane's store is the one found (R181). -/
theorem test_sts_highest_lane : part (.sts ⟨false, .one, 8, 2, 3⟩)
    (state0 [(regKey 0 8, 1), (regKey 1 8, 2), (regKey 2 8, 3), (regKey 3 8, 4)])
    (fun t => (t.loadBytes 0 (some 3) none (bankKey 0 .data 0) 4).1) = some [4, 0, 0, 0] := by decide
theorem test_sta_keeps_home : part (.sta ⟨false, .one, 8, 2, 3⟩) (state0 (regs [(8, 7)])) (fun t => t.readHome (bankKey 1 .data 0) 4) =
    some [0, 0, 0, 0] := by decide
theorem test_bank_bound : part (.lds ⟨false, .two, 8, 2, 3⟩) { banks [(2, 4)] with blocks := [(2, { block0 with tvec := 0x4001 })] }
    (fun t => (t.group? 3).map fun x => x.fcause.toNat % 256) = some (some (Cause.code .bankbound)) := by decide
theorem test_ats_units : part (.atsAdd ⟨false, 8, 2, 3⟩) (banks [(8, 1)]) (fun t => (t.portUnits.map fun u => (u.bank, u.off), t.results)) =
    some ([(0, 0)], []) := by decide

/-- R151-R154: element 1 of the buffer, and zeros outside its extent. -/
theorem test_ldb : coming (.ldb ⟨false, .one, 8, 2, 4⟩) { state0 (regs ((2, 1) :: buffer)) with mem := Memory.write mem0 0x100004 9 } =
      some ((List.range 4).map fun l => (some l, [9])) ∧
    coming (.ldb ⟨false, .one, 8, 2, 4⟩) (state0 (regs ((2, 16) :: buffer))) = some ((List.range 4).map fun l => (some l, [0])) := by decide
theorem test_stb : part (.stb ⟨false, .one, 8, 2, 4⟩) (state0 (regs ((2, 1) :: (8, 0x01020304) :: buffer)))
    (fun t => ((t.loadBytes 0 (some 3) none 0x100004 4).1, t.readHome 0x100004 4)) = some ([4, 3, 2, 1], [0, 0, 0, 0]) := by decide
theorem test_atb_redb : part (.atbAdd ⟨false, 8, 2, 4⟩) (state0 (regs ((8, 1) :: buffer))) (fun t => t.sliceOps.map fun q => (q.dest, q.lanes.length)) =
      some [(some 8, 4)] ∧
    part (.redbMaxU ⟨false, 8, 2, 4⟩) (state0 (regs ((8, 1) :: buffer))) (fun t => t.sliceOps.map fun q => (q.dest, q.lanes.length)) =
      some [(none, 4)] := by decide
theorem test_fence : part (.fence ⟨false, .dev⟩) (state0 []) (fun t => (Tab.get t.ord.curTags 0).map Tag.scope) = some (some .dev) := by decide
theorem test_ntfy : part (.ntfy ⟨false, 2, 3⟩) (state0 (regs [(2, 0x205), (3, 7)])) (fun t => t.notifyWrites.map fun w => (w.core, w.reg, w.value)) =
    some [(5, 2, 7)] := by decide

/-! ### Barriers, the bank switch, the copy engine, the matrix engine (08, 09, 10) -/

theorem test_barrier_units : part (.binit ⟨false, 2, 3⟩) (state0 (regs [(3, 5)])) (fun t => t.portUnits.map PortUnit.op) = some [.binit 5] ∧
    part (.barrF ⟨false, 8, 2⟩) (state0 []) (fun t => t.portUnits.map PortUnit.op) = some [.arrive 4 (some 8)] ∧
    part (.bexp ⟨false, 2, 3⟩) (state0 (regs [(3, 5)])) (fun t => t.portUnits.map PortUnit.op) = some [.expect 5] := by decide
theorem test_bwait_waits : part (.bwait ⟨false, 2, 3⟩) (state0 []) (fun t => (t.group? 3).map fun x => x.current.isSome) = some (some false) ∧
    part (.bwait ⟨false, 2, 3⟩) (state0 (regs [(3, 1)])) (fun t => (t.group? 3).map fun x => x.current.isSome) = some (some true) := by decide
/-- R185: the lowest free bank, 4, is attached to slot 1, with OK and its name. -/
theorem test_batt : coming (.batt ⟨false, 8, 2⟩) (state0 (regs [(2, 1)])) = some [(none, [0, 4])] := by decide
theorem test_brel_bres : part (.brel ⟨false, 2⟩) (state0 []) (fun t => t.drains.map Drain.bank) = some [0] ∧
    coming (.bres ⟨false, 8, 2, 3⟩) (state0 (regs [(2, 1)])) = some [(none, [0, 0x100])] := by decide
theorem test_cvdecl : part (.cvdecl ⟨false, .group, 1, 64⟩) (state0 []) (fun t => (t.block? 2).map fun b => b.cvs.map fun c => (c.1, c.2.count)) =
    some (some [(1, 64)]) := by decide

/-! ### Harts, the host and events (11, 13, 22) -/

def hartState (a b : DWord) : State :=
  { State.reset with hart := some 0, harts := [(0, ((startHart []).setReg 11 a).setReg 12 b)] }
def hartReg (i : Instr) (s : State) : Option (Option (DWord × DWord)) := part i s fun t => (Tab.get t.harts 0).map fun h => (h.reg 10, h.pc)

theorem test_xbfx : hartReg (.xbfx ⟨10, 11, 12⟩) (hartState 0xABCD 0x804) = some (some (0xBC, 4)) := by decide
theorem test_xbfx_traps : part (.xbfx ⟨10, 11, 12⟩) (hartState 0 0x80) (fun t => (Tab.get t.harts 0).map Hart.mcause) = some (some 27) := by decide
theorem test_swait : hartReg (.swait ⟨10, 11, 12⟩) { hartState 6 0 with signals := 2 } = some (some (2, 4)) := by decide
theorem test_rfetch_disp_trap : part (.rfetch ⟨10, 11, 12⟩) (hartState 64 0) (fun t => (Tab.get t.harts 0).map Hart.mcause) = some (some 24) ∧
    part (.disp ⟨10, 11, 12⟩) (hartState 16 0) (fun t => (Tab.get t.harts 0).map Hart.mcause) = some (some 29) := by decide
theorem test_doorbell : part (.ringDoorbell 3 5) State.reset (fun t => (t.ringAt 3).wptr) = some 5 := by decide
/-- R389: 50 MHz down above the cap, and not below 200 MHz. -/
theorem test_clock_steps : part .clockStepDown { State.reset with power := { State.reset.power with cap := 500 } } (fun t => t.power.mhz) = some 550 ∧
    part .clockStepDown { State.reset with power := { State.reset.power with cap := 200, mhz := 200 } } (fun t => t.power.mhz) = some 200 := by decide
/-- R381: a cap that is not a multiple of 50 from 200 to 600 leaves the field unchanged. -/
theorem test_cap : part (.capWrite 510) State.reset (fun t => t.power.cap) = some 600 ∧ part (.capWrite 250) State.reset (fun t => t.power.cap) = some 250 := by
  decide
/-- R385: a read of TSL latches TSH. -/
theorem test_tsl : part .tslRead { State.reset with tsc := 0x700000001 } (fun t => t.status.tsh) = some 7 := by decide
theorem test_readiness : part (.functionReady (.cluster 3)) State.reset (fun t => t.status.clusters) = some 0 ∧
    part (.functionReady (.hbm 7)) State.reset (fun t => t.status.hbm) = some 0x80 := by decide
theorem test_bank_clear : part (.bankClearDone 4) { State.reset with bankState := [(4, .clearing)], mem := [(bankKey 4 .data 0, 9)] }
    (fun t => (t.bankSt 4, t.mem)) = some (.free, []) := by decide

end Sys2Proof.Tests
end

