-- ==== Sys2Proof/Tests/Witness1.lean ====
section
/-!
SUPPORT. Witnesses: for each statement with hypotheses, concrete states and operands that meet the hypotheses of each of
its clauses together. This file: arithmetic, control flow, exceptions and system registers.
-/
namespace Sys2Proof.Tests
open Sys2Proof.Machine

/-! ### Deciding the words of statements -/

def issuesB (s : State) (g : Nat) (x : Group) : Bool :=
  s.cur == some g && decide (s.group? g = some x) && x.current.isSome && x.runAhead.isNone && x.faults.isEmpty
    && x.bad.isEmpty && !x.badResult && (s.lent g x).isEmpty

theorem issues_of {s : State} {g : Nat} {x : Group} (h : issuesB s g x = true) : Issues s g x := by
  simp only [issuesB, Bool.and_eq_true, beq_iff_eq, decide_eq_true_eq, Option.isNone_iff_eq_none, List.isEmpty_iff,
    Bool.not_eq_true'] at h
  obtain ⟨⟨⟨⟨⟨⟨⟨a, b⟩, c⟩, d⟩, e⟩, f⟩, i⟩, j⟩ := h
  exact ⟨a, b, c, d, e, ⟨f, i⟩, j⟩

theorem ready_of {x : Group} {rs : List Nat} (h : x.pend = [] ∧ ∀ r ∈ rs, r < x.wsize) : LaneReady x rs :=
  fun r hr => ⟨h.2 r hr, fun l _ => by simp [Group.isPending, h.1, Tab.get]⟩

theorem reads_of {x : Group} {rs : List Nat} (h : x.pend = [] ∧ ∀ r ∈ rs, r < x.wsize) : UniReads x rs :=
  fun r hr => ⟨h.2 r hr, by simp [Group.isPending, h.1, Tab.get]⟩

theorem writes_of {x : Group} {rs : List Nat} (h : x.pend = [] ∧ ∀ r ∈ rs, r < x.wsize) : UniWrites x rs :=
  fun r hr => ⟨h.2 r hr, fun l _ => by simp [Group.isPending, h.1, Tab.get]⟩

theorem plain_of {s : State} {key n : Nat} (h : s.compPages = []) : s.Plain key n := by
  intro c hc; rw [h] at hc; cases hc

theorem steady_of {s : State} {known : Comp → Prop} {root va : Nat} (h : s.compPages = []) (hk : ∀ c, ¬known c) :
    ∀ n level pa, s.Steady known root va n level pa
  | 0, _, _ => trivial
  | _ + 1, _, _ => ⟨fun c hc => absurd hc (by rw [h]; simp [hk c]), fun _ _ _ => steady_of h hk _ _ _⟩

/-- Where no page is compressed, what an access finds it goes on finding. -/
theorem findsWith_of {s : State} {known : Comp → Prop} {root va : Nat} {k : AccessKind} {p : Page} (h : s.compPages = [])
    (hk : ∀ c, ¬known c) (hf : s.Finds root va k p) : s.FindsWith known root va k p := ⟨hf, steady_of h hk _ _ _⟩

/-- What holds of the lanes below 64 of a set holds of its lanes. -/
theorem lanes_of {m : Mask} {P : Nat → Prop} (h : ∀ l, l < 64 → m.getLsbD l = true → P l) : ∀ l, m.getLsbD l = true → P l :=
  fun l hl => h l (Nat.lt_of_not_le fun g => by simp [BitVec.getLsbD_of_ge m l g] at hl) hl

def tidyB (x : Group) : Bool :=
  decide (x.fibres.map Prod.fst).Nodup && (List.range 64).all fun l => !x.active.getLsbD l || (x.fibre? l).isSome

theorem tidy_of {x : Group} (h : tidyB x = true) : x.tidy := by
  simp only [tidyB, Bool.and_eq_true, decide_eq_true_eq, List.all_eq_true, List.mem_range, Bool.or_eq_true,
    Bool.not_eq_true'] at h
  exact ⟨h.1, lanes_of fun l hl ha => (h.2 l hl).resolve_left (by simp [ha])⟩

/-! ### Arithmetic and the uniform set -/

/-- The hypotheses of every lane word: a group that issues, and its registers at the top of its window. -/
theorem wit_lane_words : Issues (state0 []) 3 (group0 []) ∧ LaneReady (group0 []) [15, 0, 15] :=
  ⟨issues_of (by decide), ready_of (by decide)⟩

theorem wit_LaneIntegerArithmetic : ∃ (o : LaneOp3) (p : LaneImm), Issues (state0 []) 3 (group0 []) ∧
    LaneReady (group0 []) ([o.d, o.a, o.b].map BitVec.toNat) ∧ LaneReady (group0 []) ([p.d].map BitVec.toNat) ∧
    p.hold ≠ .a ∧ p.hold ≠ .b :=
  ⟨⟨true, .d, 15, 0, 15⟩, ⟨false, .d, 15, -1⟩, issues_of (by decide), ready_of (by decide), ready_of (by decide), by decide, by decide⟩

theorem wit_LaneCompareLogicShift : ∃ o : LaneOp3, Issues (state0 []) 3 (group0 []) ∧
    LaneReady (group0 []) ([o.d, o.a, o.b].map BitVec.toNat) :=
  ⟨⟨false, .none, 0, 0, 0⟩, issues_of (by decide), ready_of (by decide)⟩

theorem wit_LaneFieldsAndBits : ∃ (o : LaneOp3) (p : LaneOp2) (b : Reg), Issues (state0 []) 3 (group0 []) ∧
    LaneReady (group0 []) ([o.d, o.a, o.b].map BitVec.toNat) ∧ LaneReady (group0 []) ([p.d, p.a].map BitVec.toNat) ∧ 5 ≤ b.toNat :=
  ⟨⟨false, .none, 1, 15, 2⟩, ⟨false, .a, 15, 1⟩, 5, issues_of (by decide), ready_of (by decide), ready_of (by decide), by decide⟩

theorem wit_LaneFloatArithmetic : ∃ (o : LaneOp3) (p : CvtOp), Issues (state0 []) 3 (group0 []) ∧
    LaneReady (group0 []) ([o.d, o.a, o.b].map BitVec.toNat) ∧ LaneReady (group0 []) ([p.d, p.a].map BitVec.toNat) ∧ p.mode = .rs :=
  ⟨⟨false, .none, 1, 2, 3⟩, ⟨false, .none, 4, 2, 6, .rs⟩, issues_of (by decide), ready_of (by decide), ready_of (by decide), rfl⟩

/-- Values of each kind, finite ones among them that are zero and that are not; one that lies between two codes. -/
theorem wit_LaneFloatArithmetic_values : (fval 0x3F800001).isFin = true ∧ (fval 0x80000000).isZero = true ∧ (fval 0x80000000).isFin = true ∧
    fval 0x7F800000 = .inf false ∧ fval 0xFF800000 = .inf true ∧ (fval 0x7FC00000).isNan = true ∧ (fval 0x7F800001).isSig = true ∧
    fval 0x3F800001 = .fin false 0x800001 (-23) ∧ (fval 0x3F800001).isInf = false ∧ hval 0x3C01 0 = .fin false 1025 (-10) ∧
    f16.decode 0x7C01 = .nan true ∧ f16.decode 0x3C00 = .fin false 1024 (-10) ∧ 0xFFFF < 2 ^ (f16.width + 1) ∧ RMode.rn ≠ .rs := by decide

theorem wit_LaneFloatFunctions : ∃ (o : LaneOp2) (a b : Word), Issues (state0 []) 3 (group0 []) ∧
    LaneReady (group0 []) ([o.d, o.a].map BitVec.toNat) ∧ (fval a).isNan = true ∧ (fval (fAdd a b).1).isNan = true ∧
    (fval (fFma a a b).1).isNan = true ∧ (hval (hAdd 0x7E007E00 b).1 1).isNan = true :=
  ⟨⟨false, .none, 1, 2⟩, 0x7F800001, 0, issues_of (by decide), ready_of (by decide), by decide, by decide, by decide, by decide⟩

/-- Finite operands other than zero: 2, a power of two and an integer; −1, a negative one; 1/2, half of an odd integer. -/
theorem wit_LaneFloatFunctions_values : ((fval 0x40000000).isFin = true ∧ (fval 0x40000000).rat ≠ 0 ∧ 0 < (fval 0x40000000).rat ∧
      (fval 0x40000000).rat = magOf 1 1 1 ∧ (fval 0x40000000).rat = ((2 : Int) : Rat)) ∧
    ((fval 0xBF800000).isFin = true ∧ (fval 0xBF800000).rat < 0 ∧ (fval 0xBF800000).rat = ((-1 : Int) : Rat)) ∧
    ((fval 0x3F000000).isFin = true ∧ (fval 0x3F000000).rat ≠ 0 ∧ (fval 0x3F000000).rat = ((0 : Int) : Rat) + 1 / 2) := by decide +kernel

theorem wit_NumberFormats : 0x7F800000 < 2 ^ (f32.width + 1) ∧ 0xFFFFFFFF < 2 ^ (f32.width + 1) ∧ 0xFF < 2 ^ (7 + 1) ∧ 0xF < 2 ^ (3 + 1) := by
  decide

theorem wit_LaneCrossing : ∃ (o : Regs3) (p : Regs2), Issues (state0 []) 3 (group0 []) ∧
    LaneReady (group0 []) ([o.d, o.a, o.b].map BitVec.toNat) ∧ LaneReady (group0 []) [p.a.toNat, p.d.toNat, p.d.toNat + 1] ∧
    (group0 []).wsize ≤ 128 :=
  ⟨⟨false, 1, 2, 3⟩, ⟨false, 14, 2⟩, issues_of (by decide), ready_of (by decide), ready_of (by decide), by decide⟩

/-- Among the clauses: a jump through registers, with a good address and with one that is not a multiple of 4. -/
theorem wit_UniformArithmeticAndJumps : Issues (state0 []) 3 (group0 []) ∧ UniReads (group0 []) [2, 3] ∧ UniWrites (group0 []) [15] ∧
    (group0 []).maskTrap (group0 []).active = false ∧
    ((group0 []).uni 2).toNat % 4 = 0 ∧ ((group0 []).uni 3).toNat < 2 ^ 16 ∧
    Issues (state0 (regs [(3, 0x10000)])) 3 (group0 (regs [(3, 0x10000)])) ∧
    ¬(((group0 (regs [(3, 0x10000)])).uni 2).toNat % 4 = 0 ∧ ((group0 (regs [(3, 0x10000)])).uni 3).toNat < 2 ^ 16) :=
  ⟨issues_of (by decide), reads_of (by decide), writes_of (by decide), by decide, by decide, by decide, issues_of (by decide), by decide⟩

/-! ### Branches, waits, fibres, rep -/

def split : Group := group0 [(regKey 1 2, 1)]

/-- v2 differs between the lanes, or is 0 in all. -/
theorem wit_LaneBranches : ∃ o : LaneBranch, o.hint = .likely ∧ o.park = false ∧
    Issues (state0 [(regKey 1 2, 1)]) 3 split ∧ LaneReady split [o.c.toNat] ∧ split.tidy ∧ wordTarget split.pc o.off ≠ split.pc + 4 ∧
    (let taken := fun (x : Group) (l : Nat) => x.active.getLsbD l && ((x.reg l o.c.toNat == 0) == true)
     let agrees := fun (x : Group) => (∀ l, x.active.getLsbD l = true → taken x l = true) ∨ ∀ l, taken x l = false
     ¬agrees split ∧ agrees (group0 [])) := by
  refine ⟨⟨false, .likely, 2, 5⟩, rfl, rfl, issues_of (by decide), ready_of (by decide), tidy_of (by decide), by decide, ?_, ?_⟩
  · rintro (h | h)
    · exact absurd (h 1 (by decide)) (by decide)
    · exact absurd (h 0) (by decide)
  · exact .inl (lanes_of (by decide))

/-- A group with another subset that may become current, and one that stands at its bound. -/
def pair : Group :=
  { group0 [] with
    current := some { mask := 3, wait := .none, since := 0, count := 64 }
    waiting := [{ mask := 12, wait := .none, since := 0, count := 0 }] }
def pairState : State := { state0 [] with groups := [(3, pair)] }

theorem wit_NopParkYield : Issues (state0 []) 3 (group0 []) ∧ ¬(group0 []).someEligible ∧ Issues pairState 3 pair ∧ pair.someEligible ∧
    pairState.group? 3 = some pair ∧ pair.current = some { mask := 3, wait := .none, since := 0, count := 64 } ∧ pair.runAhead = none ∧
    pair.repeating = false ∧ (group0 []).current = some { mask := 0xF, wait := .none, since := 0, count := 0 } :=
  ⟨issues_of (by decide), by rintro ⟨u, hu, -⟩; simp [group0] at hu, issues_of (by decide),
    ⟨{ mask := 12, wait := .none, since := 0, count := 0 }, by decide, rfl⟩, by decide, by decide, by decide, by decide, by decide⟩

/-- With and without a pending result of the issuing fibres. -/
theorem wit_CompletedWord : ∃ y z : Group, (state0 []).group? 3 = some y ∧ y.current.isSome = true ∧ y.faults = [] ∧ y.runAhead = none ∧
    y.maskPending y.active = false ∧ z = { y with pend := [(5, .port)] } ∧ z.maskPending z.active = true :=
  ⟨group0 [], _, by decide, by decide, by decide, by decide, by decide, rfl, by decide⟩

def halves : Group := { group0 [] with current := some { mask := 3, wait := .none, since := 0, count := 0 } }
def halvesState : State := { state0 [] with groups := [(3, halves)] }

theorem wit_FibresEndAndSpawn : Issues halvesState 3 halves ∧ halvesState.blockOf halves = some block0 ∧
    (Tab.get halvesState.launches block0.launch).bind Launch.pass = none ∧ (∃ p ∈ halves.fibres, halves.active.getLsbD p.1 = false) ∧
    Issues (state0 []) 3 (group0 []) ∧ (state0 []).blockOf (group0 []) = some block0 ∧
    (∀ p ∈ (group0 []).fibres, (group0 []).active.getLsbD p.1 = true) ∧ ((state0 []).groups.map Prod.fst).Nodup ∧
    (∀ p ∈ (state0 []).groups, p.2.block = (group0 []).block → p.1 = 3 ∨ p.2.fibres = []) ∧
    LaneReady (group0 []) [1, 2, 5] ∧ (group0 []).tidy ∧ (group0 []).width ≤ 64 ∧
    (∀ l, (group0 []).active.getLsbD l = true → ((group0 []).reg l 2).toNat % 4 = 0) ∧
    Issues (state0 (regs [(2, 2)])) 3 (group0 (regs [(2, 2)])) ∧ ((group0 (regs [(2, 2)])).reg 0 2).toNat % 4 ≠ 0 :=
  ⟨issues_of (by decide), by decide, by decide, ⟨(2, fibre0), by decide, by decide⟩, issues_of (by decide), by decide, by decide, by decide,
    by decide, ready_of (by decide), tidy_of (by decide), by decide, lanes_of (by decide), issues_of (by decide), by decide⟩

/-- The word after the `rep`: `iadd v1, v2, v3` at 0x1004. -/
def repState : State := { state0 [] with mem := Memory.writeBytes mem0 0x1004 (bytesOf 4 0x01004103) }

theorem wit_RepIterates : ∃ o : RepImm, Issues repState 3 (group0 []) ∧ (group0 []).repeating = false ∧
    (∃ s1, (repState.setGroup 3 (group0 [])).fetchAt (group0 []) ((group0 []).pc + 4) = .word 0x01004103 s1) ∧
    decodeFibre 0x01004103 = some (.iadd ⟨false, .none, 1, 2, 3⟩) ∧ wbit 0x01004103 31 = false ∧ wbits 0x01004103 29 24 = 1 ∧
    registerFields 0x01004103 = 3 ∧
    (∀ p ∈ (group0 []).fibres, (group0 []).active.getLsbD p.1 = true → p.2.repc = 0) ∧
    (∃ p ∈ (group0 []).fibres, (group0 []).active.getLsbD p.1 = true) ∧ o.n.toNat ≤ 65535 ∧
    (∀ k, k < o.n.toNat → LaneReady (group0 []) [1 + k * o.sd.toNat, 2 + k * o.sa.toNat, 3 + k * o.sb.toNat]) ∧ 0 < o.n.toNat ∧
    (group0 []).wsize ≤ 128 := by
  refine ⟨⟨1, 1, 0, 4⟩, issues_of (by decide), by decide, ⟨_, rfl⟩, by decide, by decide, by decide, by decide, by decide,
    ⟨(0, fibre0), by decide, by decide⟩, by decide, ?_, by decide, by decide⟩
  intro k hk
  have hk : k < 4 := hk
  refine ready_of ⟨by decide, ?_⟩
  have : (group0 []).wsize = 16 := rfl
  simp only [List.mem_cons, List.not_mem_nil, or_false, this]
  rintro r (rfl | rfl | rfl) <;> simp <;> omega

/-- The other clauses: a uniform word, a word that decodes to nothing, and one whose b field is a selector; a count in a
register, at its bound, and a `rep` that resumes with its count register pending. -/
theorem wit_RepIterates_words : wbit 0x8E000000 31 = true ∧ decodeFibre 0x26000000 = none ∧ wbits 0x26000000 29 24 = 0x26 ∧
    (decodeFibre 0x08004102).isSome = true ∧ registerFields 0x08004102 = 2 ∧
    wbits 0x08004102 29 24 = 8 ∧ ((group0 (regs [(5, 65535)])).uni 5).toNat ≤ 65535 ∧
    (let x := { group0 [] with pend := [(regKey 0 5, .port)], fibres := (List.range 4).map fun l => (l, { fibre0 with repc := 0x30001 }) }
     5 < x.wsize ∧ (∀ p ∈ x.fibres, x.active.getLsbD p.1 = true → p.2.repc = 0x30001) ∧ wbits 0x30001 15 0 ≠ 0) := by decide

/-! ### Exceptions -/

/-- A register outside the window, a pending register, a source with a bad residue, and one word of each. -/
theorem wit_TrapWords : Issues (state0 []) 3 (group0 []) ∧
    (let x := group0 []
     (state0 []).cur = some 3 ∧ (state0 []).group? 3 = some x ∧ x.current.isSome = true ∧ x.runAhead = none ∧ (state0 []).lent 3 x = [] ∧
       [2, 16, 1].find? (fun r => decide (x.wsize ≤ r)) = some 16) ∧
    (let x := { group0 [] with pend := [(regKey 2 1, .port)] }
     (∀ r ∈ [2, 3, 1], r < x.wsize) ∧ 2 < x.width ∧ x.active.getLsbD 2 = true ∧ [2, 3, 1].find? (x.isPending 2) = some 1 ∧
       ∀ k, k < 2 → x.active.getLsbD k = true → ∀ q ∈ [2, 3, 1], x.isPending k q = false) ∧
    (let x := { group0 [] with bad := [regKey 2 3] }
     (∀ r ∈ [2, 3, 1], r < x.wsize) ∧ x.pend = [] ∧ 2 < x.width ∧ x.active.getLsbD 2 = true ∧
       ([2, 3, 1].take 2).find? (fun q => x.bad.contains (128 * 2 + q)) = some 3 ∧
       ∀ k, k < 2 → x.active.getLsbD k = true → ∀ q ∈ [2, 3, 1].take 2, x.bad.contains (128 * k + q) = false) :=
  ⟨issues_of (by decide), by decide, by decide, by decide⟩

def hBlock : Block := { block0 with tvec := 0x4001 }

theorem wit_ExceptionEntry : Issues (handled []) 3 (group0 []) ∧ (handled []).blockOf (group0 []) = some hBlock ∧
    hBlock.tvec.getLsbD 0 = true ∧ (group0 []).anyTrap = false ∧ (group0 []).tidy ∧
    (group0 []).maskPending (group0 []).active = false ∧ ({ cause := .trap, ops := [7] } : Trap).cause ≠ .residue ∧
    (handled []).Plain (groupArea hBlock (group0 [])) 0xA00 :=
  ⟨issues_of (by decide), by decide, by decide, by decide, tidy_of (by decide), by decide, by decide, plain_of (by decide)⟩

/-- All fibres in the handler, half of them in it, and a group with a pending result. -/
def inTrap (m : Mask) : Group :=
  { group0 [] with fibres := (List.range 4).map fun l => (l, if m.getLsbD l then { fibre0 with flags := 8 } else fibre0)
                   current := some { mask := 3, wait := .none, since := 0, count := 0 } }

/-- A subset that waits to enter the handler. -/
def entering : Group :=
  { inTrap 0 with waiting := [{ mask := 12, wait := .entry (faultRec (state0 []) (group0 []) { cause := .trap }) true, since := 0, count := 0 }] }

/-- A subset that waited for another's handler, which has ended. -/
def afterOther : Group :=
  { inTrap 0 with waiting := [{ mask := 12, wait := .handler (faultRec (state0 []) (group0 []) { cause := .trap }), since := 0, count := 0 }] }

theorem wit_ExceptionWaits : Issues (state0 []) 3 (group0 []) ∧ (state0 []).blockOf (group0 []) = some block0 ∧
    block0.tvec.getLsbD 0 = false ∧
    Issues { handled [] with groups := [(3, inTrap 12)] } 3 (inTrap 12) ∧ (inTrap 12).maskTrap (inTrap 12).active = false ∧
    (inTrap 12).anyTrap = true ∧
    (let x := { inTrap 0 with pend := [(5, .port)] }
     Issues { handled [] with groups := [(3, x)] } 3 x ∧ x.anyTrap = false ∧ x.maskPending x.active = true) ∧
    (let s := { handled [] with groups := [(3, entering)] }
     s.group? 3 = some entering ∧ s.blockOf entering = some hBlock ∧ (entering.fibres.map Prod.fst).Nodup ∧
       s.Plain (groupArea hBlock entering) 0xA00 ∧
       ∃ u f skip, entering.waiting.find? entering.mayEnter = some u ∧ u.wait = .entry f skip) ∧
    (∀ b ∈ [block0, hBlock], let s := { state0 [] with groups := [(3, afterOther)], blocks := [(2, b)] }
     s.group? 3 = some afterOther ∧ s.blockOf afterOther = some b ∧ (afterOther.fibres.map Prod.fst).Nodup ∧
       s.Plain (groupArea b afterOther) 0xA00 ∧ (b.tvec.getLsbD 0 = true ↔ b = hBlock)) ∧
    ∃ u f, afterOther.waiting.find? afterOther.mayEnter = some u ∧ u.wait = .handler f := by
  refine ⟨issues_of (by decide), by decide, by decide, issues_of (by decide), by decide, by decide,
    ⟨issues_of (by decide), by decide, by decide⟩, ⟨by decide, by decide, by decide, plain_of (by decide), _, _, _, rfl, rfl⟩, ?_, _, _, rfl, rfl⟩
  intro b hb
  simp only [List.mem_cons, List.not_mem_nil, or_false] at hb
  rcases hb with rfl | rfl <;> exact ⟨by decide, by decide, by decide, plain_of (by decide), by decide⟩

theorem wit_ExceptionReturn : Issues { handled [] with groups := [(3, inTrap 15)] } 3 (inTrap 15) ∧
    ({ handled [] with groups := [(3, inTrap 15)] } : State).blockOf (inTrap 15) = some hBlock ∧
    (inTrap 15).maskTrap (inTrap 15).active = true ∧ (inTrap 15).tidy ∧ (state0 []).rays = [] ∧
    ({ handled [] with groups := [(3, inTrap 15)] } : State).Plain (groupArea hBlock (inTrap 15)) 0xA00 :=
  ⟨issues_of (by decide), by decide, by decide, tidy_of (by decide), by decide, plain_of (by decide)⟩

/-! ### Shared and system registers -/

/-- A block on one core, and one on two. -/
theorem wit_SharedRegisters : Issues (state0 []) 3 (group0 []) ∧ (state0 []).blockOf (group0 []) = some block0 ∧ block0.seats.length = 1 ∧
    UniReads (group0 []) [15] ∧ UniWrites (group0 []) [15] ∧
    (let b := { block0 with seats := block0.seats ++ [{ core := 1, resident := 0, bm := [], cv := [] }] }
     let s := { state0 [] with blocks := [(2, b)] }
     Issues s 3 (group0 []) ∧ s.blockOf (group0 []) = some b ∧ b.seats.length ≠ 1) ∧
    16 ≤ (16 : Reg).toNat ∧ 3 ≤ (7 : BitVec 3).toNat :=
  ⟨issues_of (by decide), by decide, by decide, reads_of (by decide), writes_of (by decide),
    ⟨issues_of (by decide), by decide, by decide⟩, by decide, by decide⟩

theorem wit_SystemReads : Issues (state0 []) 3 (group0 []) ∧ (state0 []).blockOf (group0 []) = some block0 ∧
    UniWrites (group0 []) [14, 15] ∧ (group0 []).wsize ≤ 128 ∧ (SysReg.clk).readClears = false ∧ (SysReg.wake).readClears = true := by
  exact ⟨issues_of (by decide), by decide, writes_of (by decide), by decide, by decide, by decide⟩

/-- A register that reading clears; a reserved bit; a fibre's register; the vector; the record. -/
theorem wit_SystemWrites : Issues (state0 []) 3 (group0 []) ∧ (state0 []).blockOf (group0 []) = some block0 ∧ UniReads (group0 []) [15] ∧
    (SysReg.wake).readClears = true ∧ (group0 (regs [(15, 0x80000000)])).uni 15 &&& reservedBits .pred ≠ 0 ∧
    (group0 []).uni 15 &&& reservedBits .pred = 0 ∧ perFibre .lnk = true ∧ perFibre .tvec = false ∧ SysReg.tvec.readClears = false ∧
    (group0 []).uni 15 &&& reservedBits .tvec = 0 ∧ perFibre (.fops 7) = false ∧ (group0 []).fops.length = 8 ∧
    (state0 []).Plain (groupArea block0 (group0 [])) 56 :=
  ⟨issues_of (by decide), by decide, reads_of (by decide), by decide, by decide, by decide, by decide, by decide, by decide, by decide,
    by decide, by decide, plain_of (by decide)⟩

/-! ### The machine as a whole -/

theorem wit_MemoryStaysCanonical : ∃ s t, s = { state0 [] with schedule := [.event .tslRead] } ∧ s.memOk = true ∧
    step s = .next t :=
  ⟨_, _, rfl, by decide, rfl⟩

/-- A group's turn with a word that decodes, a hart's turn, an event's, and no schedule. -/
theorem wit_StepRunsDecodedWord : (∃ w s1 i, State.prepare { State.reset.withFetchWord 32 0x0D007FFF with schedule := [] } 3 = .word w s1 ∧
      decodeFibre w = some i) ∧
    (let s := State.reset.withFetchWord 32 0x00C5850B
     ∃ x i, s.schedule = [.hart 0] ∧ Tab.get s.harts 0 = some x ∧ x.waiting = none ∧
       decodeHart (toWord (ofBytes (Memory.readBytes x.local_ x.pc.toNat 4))) = some i) ∧
    isEvent .tslRead = true ∧ State.reset.schedule = [] ∧ (state0 []).moveRingOf 3 = none ∧
    (let s := { state0 [] with blocks := [(2, { block0 with moveRing := some 5 })] }
     s.moveRingOf 3 = some 5 ∧ s.group? 3 = some (group0 []) ∧
       ({ s with groups := [(3, { group0 [] with issues := 1 })] } : State).group? 3 = some { group0 [] with issues := 1 } ∧
       (group0 []).issues ≠ 1) :=
  ⟨⟨_, _, _, rfl, rfl⟩, ⟨_, _, rfl, rfl, rfl, rfl⟩, by decide, rfl, by decide, by decide⟩

/-- The page that maps the first 4 GiB onto themselves, at an address. -/
def page0 (va : Nat) : Page := leafPage 1 7 va

/-- The plain case of a group's turn. -/
theorem wit_fetch : ∃ (s : State) (x : Group) (b : Block) (p : Page), s.canIssue 3 = true ∧ s.group? 3 = some x ∧ s.blockOf x = some b ∧
    x.current.isSome = true ∧ x.waiting = [] ∧ x.hold = none ∧ x.runAhead = none ∧ b.issued = true ∧ b.moveRing = none ∧
    s.Finds (s.rootOf x) x.pc.toNat .fetch p ∧ p.cmp = 0 :=
  ⟨state0 [], group0 [], block0, page0 0x1000,
    by decide, by decide, by decide, by decide, by decide, by decide, by decide, by decide, by decide,
    by unfold State.Finds; decide, by decide⟩

theorem wit_DecodeEncode : (Instr.swr ⟨true, 127, .fops 7⟩).wf = true ∧ encode (.swr ⟨true, 127, .fops 7⟩) ≠ none ∧
    (Instr.disp ⟨31, 31, 31⟩).wf = true ∧ encode (.disp ⟨31, 31, 31⟩) ≠ none := by decide

theorem wit_DecodeIsCanonical : (decodeFibre 0xF8FFFFFF).isSome = false ∧ (decodeFibre 0xBA600001).isSome = false ∧
    (decodeFibre 0xFA3FFFFF).isSome = false ∧ (decodeFibre 0xFA203FFF).isSome = true ∧ (decodeHart 0x01FFBF8B).isSome = true := by decide

end Sys2Proof.Tests
end

