-- ==== Sys2Proof/Tests/Witness2.lean ====
section
/-!
SUPPORT. Witnesses for the statements about banks, global memory, ordering, barriers, rings, the bank switch, the copy
engine and the matrix engine.
-/
namespace Sys2Proof.Tests
open Sys2Proof.Machine

def okB (e : Except Cause Nat) (k : Nat) : Bool := match e with
  | .ok j => j == k
  | .error _ => false
def errB (e : Except Cause Nat) (c : Cause) : Bool := match e with
  | .ok _ => false
  | .error d => d == c

theorem ok_of {e : Except Cause Nat} {k : Nat} (h : okB e k = true) : e = .ok k := by
  cases e <;> simp_all [okB]
theorem err_of {e : Except Cause Nat} {c : Cause} (h : errB e c = true) : e = .error c := by
  cases e <;> simp_all [errB]

/-- Every lane of a set finds a key. -/
theorem keys_of {m : Mask} {f : Nat → Except Cause Nat} {key : Nat → Nat}
    (h : ∀ l, l < 64 → m.getLsbD l = true → okB (f l) (key l) = true) : ∀ l, m.getLsbD l = true → f l = .ok (key l) :=
  lanes_of fun l hl ha => ok_of (h l hl ha)

/-! ### Banks -/

/-- The last 16 bytes of the first bank of a space: v2 of every lane. -/
def atEnd : Group := group0 (regs [(2, 0x3FFF0)])

theorem wit_BankLoads : Issues (state0 (regs [(2, 0x3FFF0)])) 3 atEnd ∧ (state0 (regs [(2, 0x3FFF0)])).blockOf atEnd = some block0 ∧
    atEnd.wsize ≤ 128 ∧ LaneReady atEnd (2 :: (List.range 4).map (8 + ·)) ∧ UniReads atEnd [3] ∧
    (∀ l, atEnd.active.getLsbD l = true → block0.checkAt .scr 16 16 (atEnd.reg l 2 + atEnd.uni 3) = .ok (bankKey 0 .data 0x3FFF0)) ∧
    (∀ l, atEnd.active.getLsbD l = true → block0.checkAt .wgt 16 16 (atEnd.reg l 2 + atEnd.uni 3) = .ok (bankKey 2 .data 0x3FFF0)) ∧
    (∀ u ∈ (state0 (regs [(2, 0x3FFF0)])).portUnits, u.org.group ≠ 3) ∧ (state0 (regs [(2, 0x3FFF0)])).errors = [] :=
  ⟨issues_of (by decide), by decide, by decide, ready_of (by decide), reads_of (by decide), keys_of (by decide), keys_of (by decide),
    by decide, by decide⟩

/-- Lanes store at places of their own. -/
def apart : Sparse Word := [(regKey 1 2, 16), (regKey 2 2, 32), (regKey 3 2, 48)]

theorem apart_keys : ∀ l, (group0 apart).active.getLsbD l = true →
    block0.checkAt .scr 16 16 ((group0 apart).reg l 2 + (group0 apart).uni 3) = .ok (bankKey 0 .data (16 * l)) := keys_of (by decide)
theorem apart_words : ∀ l, (group0 apart).active.getLsbD l = true →
    block0.checkAt .scr 4 4 ((group0 apart).reg l 2 + (group0 apart).uni 3) = .ok (bankKey 0 .data (16 * l)) := keys_of (by decide)

theorem wit_BankStores : Issues (state0 apart) 3 (group0 apart) ∧ (state0 apart).blockOf (group0 apart) = some block0 ∧
    LaneReady (group0 apart) (2 :: (List.range 4).map (8 + ·)) ∧ UniReads (group0 apart) [3] ∧
    (∀ l, ((group0 apart).active.getLsbD l && !(group0 apart).isHelper l) = true →
      block0.checkAt .scr 16 16 ((group0 apart).reg l 2 + (group0 apart).uni 3) = .ok (bankKey 0 .data (16 * l))) ∧
    (∀ u ∈ (state0 apart).portUnits, u.org.group ≠ 3) :=
  ⟨issues_of (by decide), by decide, ready_of (by decide), reads_of (by decide),
    fun l h => apart_keys l (Bool.and_eq_true _ _ ▸ h).1, by decide⟩

/-- An address past its bank, one in a slot without a bank, and the records of a buffer access that stop it: a width that
is not the register's, one that is read-only, and one whose extent is passed. -/
theorem wit_AccessFaults : Issues (state0 (regs [(2, 0x40000)])) 3 (group0 (regs [(2, 0x40000)])) ∧
    LaneReady (group0 []) (2 :: (List.range 1).map (8 + ·)) ∧ UniReads (group0 []) [3] ∧
    wbits ((group0 (regs [(2, 0x240000)])).reg 0 2) 21 18 = 9 ∧ block0.window .scr ≤ wbits ((group0 (regs [(2, 0x240000)])).reg 0 2) 21 18 ∧
    block0.bank? .scr (wbits ((group0 (regs [(2, 0x40000)])).reg 0 2) 21 18) = none ∧ ¬block0.window .scr ≤ 1 ∧
    ((group0 (regs buffer)).record 4).2 = true ∧ ((group0 (regs buffer)).record 4).1.u2 = 8 ∧
    ((group0 (regs buffer8)).record 4).1.u2 ≠ 8 ∧
    ((group0 (regs [(4, 0x100000), (5, 0x10200000), (7, 16)])).record 4).1.ro = true ∧
    ((group0 (regs [(4, 0x100000), (5, 0x20200000), (7, 16)])).record 4).1.tb = true ∧
    (((group0 (regs [(4, 0x100000), (5, 0x20200000), (7, 16)])).record 4).1.place 16).1 = false ∧
    (((group0 (regs [(4, 0x100000), (5, 0x20200000), (7, 16)])).record 4).1.place 15).1 = true :=
  ⟨issues_of (by decide), ready_of (by decide), reads_of (by decide), by decide, by decide, by decide, by decide, by decide, by decide,
    by decide, by decide, by decide, by decide, by decide⟩

def org0 : Origin := (state0 []).origin 3 (group0 [])
def atomLane (key : Nat) : AtomLane := { lane := 1, key := key, comp := none, v := 5, new := 0 }
def unit0 (op : PortOp) (off : Nat) : PortUnit :=
  { org := org0, bank := 0, off := off, op := op, pc := 0x1000, word := 0, addr := BitVec.ofNat 32 off, seq := 0, tag := none }
def slice0 : SliceOp :=
  { org := org0, op := .add, wide := true, dest := some 8, lanes := [atomLane 0x100000], pc := 0x1000, word := 0, tag := none, seq := 0, pass := none }

def ray0 (op : RayOp) (regs : List Word) (mode : RayMode) : Ray :=
  { org := org0, lane := 1, op := op, pc := 0x1000, word := 0, dest := 8, regs := regs, mode := mode, record := bankKey 0 .data 0
    root := 0x10000, seq := 0, tag := none, unit := 6, line := none, phase := .queued }
/-- `gupd` of the leaf: the vertex to move, and where on every axis. -/
def updWords (v at_ : Word) : List Word := [0, 0, 0x100, v, at_, at_, at_, 0x100000, 0]

/-- A `gupd` of the group waits for the host: releases of the group that come after it wait. -/
def updating (s : State) : State := { s with rays := [(7, { ray0 .gupd (updWords 0 0) .fresh with phase := .stopped })], ord := { s.ord with seq := 1 } }

theorem wit_BankAtomics : Issues (state0 apart) 3 (group0 apart) ∧ LaneReady (group0 apart) [2, 8] ∧ LaneReady (group0 apart) [9] ∧
    UniReads (group0 apart) [3] ∧
    (∀ l, ((group0 apart).active.getLsbD l && !(group0 apart).isHelper l) = true →
      block0.checkAt .scr 4 4 ((group0 apart).reg l 2 + (group0 apart).uni 3) = .ok (bankKey 0 .data (16 * l))) ∧
    (let s := { state0 [] with portUnits := [unit0 (.atomic .add 8 [atomLane (bankKey 0 .data 4)]) 4] }
     ∃ u op d ls, s.portUnits[0]? = some u ∧ u.op = .atomic op d ls ∧ ((s.portUnits.take 0).any fun v => v.precedes u) = false ∧ s.ord.wb = [] ∧
       s.errors = [] ∧ (∀ p ∈ ls, p.key = bankKey 0 .data 4) ∧ (s.group? u.org.group).isSome = true) ∧
    (let s := { state0 [] with sliceOps := [slice0] }
     s.sliceOps[0]? = some slice0 ∧ slice0.dest = some 8 ∧ slice0.lanes = [atomLane 0x100000] ∧ (atomLane 0x100000).comp = none ∧
       (∀ k e, k < 0 → s.sliceOps[k]? = some e → e.org.core ≠ slice0.org.core) ∧ s.ord.wb = [] ∧ s.ord.writes = [] ∧ s.errors = [] ∧
       (∀ r ∈ s.rays, r.2.precedesOp slice0 = false) ∧ (s.group? slice0.org.group).isSome = true) :=
  ⟨issues_of (by decide), ready_of (by decide), ready_of (by decide), reads_of (by decide),
    fun l h => apart_words l (Bool.and_eq_true _ _ ▸ h).1,
    ⟨_, _, _, _, rfl, rfl, by decide, by decide, by decide, by decide, by decide⟩,
    ⟨by decide, by decide, by decide, by decide, fun k _ h => absurd h (Nat.not_lt_zero k), by decide, by decide, by decide, by decide, by decide⟩⟩

/-! ### Global memory -/

/-- Lane l at element l of the buffer, with elements of 4 or of 8 bytes. -/
def indexed (b : List (Nat × Word)) : Sparse Word :=
  (List.range 4).foldl (fun t i => Tab.put t (regKey i 2) (BitVec.ofNat 32 i)) (regs ((8, 7) :: b))

/-- What a load, a store or an atomic of these elements meets. -/
theorem wit_global_records : ∀ b ∈ [buffer, buffer8], Issues (state0 (indexed b)) 3 (group0 (indexed b)) ∧ (group0 (indexed b)).wsize ≤ 128 ∧
    UniReads (group0 (indexed b)) ((List.range 4).map (4 + ·)) ∧ ((group0 (indexed b)).record 4).2 = true ∧
    ((group0 (indexed b)).record 4).1.ro = false ∧ ((group0 (indexed b)).record 4).1.tb = false ∧
    ∀ l, (group0 (indexed b)).active.getLsbD l = true → ∀ e ∈ ((group0 (indexed b)).record 4).1.elems l ((group0 (indexed b)).reg l 2) 1,
      ∀ k : AccessKind, k ≠ .fetch → formatFault (page0 e.va) ((group0 (indexed b)).record 4).1 true 1 e.va = false ∧ (page0 e.va).fmt = 0 ∧
        (page0 e.va).cmp = 0 ∧
        (state0 (indexed b)).FindsWith (fun c => ∃ l f, f ∈ ((group0 (indexed b)).record 4).1.elems l ((group0 (indexed b)).reg l 2) 1 ∧
          (page0 f.va).comp = some c) ((state0 (indexed b)).rootOf (group0 (indexed b))) e.va k (page0 e.va) := by
  have none : ∀ va c, (page0 va).comp ≠ some c := by simp [Page.comp, page0, leafPage, field]
  have found : ∀ b ∈ [buffer, buffer8], ∀ l, l < 64 → (group0 (indexed b)).active.getLsbD l = true →
      ∀ e ∈ ((group0 (indexed b)).record 4).1.elems l ((group0 (indexed b)).reg l 2) 1, ∀ k ∈ [AccessKind.read, .write],
        formatFault (page0 e.va) ((group0 (indexed b)).record 4).1 true 1 e.va = false ∧ (page0 e.va).fmt = 0 ∧ (page0 e.va).cmp = 0 ∧
        ∀ w ∈ walkChoices (state0 (indexed b)) ((state0 (indexed b)).rootOf (group0 (indexed b))) e.va,
          w.outcome e.va k = .page (page0 e.va) := by
    intro b hb
    simp only [List.mem_cons, List.not_mem_nil, or_false] at hb
    rcases hb with rfl | rfl <;> decide
  intro b hb
  have facts : issuesB (state0 (indexed b)) 3 (group0 (indexed b)) = true ∧ (group0 (indexed b)).wsize ≤ 128 ∧
      ((group0 (indexed b)).pend = [] ∧ ∀ r ∈ (List.range 4).map (4 + ·), r < (group0 (indexed b)).wsize) ∧
      ((group0 (indexed b)).record 4).2 = true ∧ ((group0 (indexed b)).record 4).1.ro = false ∧
      ((group0 (indexed b)).record 4).1.tb = false ∧ (state0 (indexed b)).compPages = [] := by
    simp only [List.mem_cons, List.not_mem_nil, or_false] at hb
    rcases hb with rfl | rfl <;> decide
  obtain ⟨a, c, d, e, f, g, h⟩ := facts
  refine ⟨issues_of a, c, reads_of d, e, f, g, lanes_of ?_⟩
  intro l hl ha el he k hk
  have hk : k ∈ [AccessKind.read, .write] := by cases k <;> simp_all
  obtain ⟨p, q, r, w⟩ := found b hb l hl ha el he k hk
  exact ⟨p, q, r, findsWith_of h (fun c ⟨_, f, _, hf⟩ => none f.va c hf) w⟩

theorem wit_GlobalLoads : ∃ (o : MemOp) (s : State) (x : Group), s = state0 (indexed buffer) ∧ x = group0 (indexed buffer) ∧ Issues s 3 x ∧
    o.b.toNat % 4 = 0 ∧ LaneReady x (o.a.toNat :: (List.range (sizeRegs o.size)).map (o.d.toNat + ·)) ∧ (x.record o.b.toNat).1.u2 ≤ 8 ∧
    (∀ q ∈ s.sliceOps, q.org.group ≠ 3) ∧ (∀ r ∈ s.rays, r.2.updates = true → r.2.org.group ≠ 3) ∧ s.errors = [] ∧
    ∀ j, (s.homeRead none j).2 = false :=
  ⟨⟨false, .one, 8, 2, 4⟩, _, _, rfl, rfl, issues_of (by decide), by decide, ready_of (by decide), by decide, by decide, by decide,
    by decide, fun _ => rfl⟩

theorem wit_GlobalStores : ∃ (o : MemOp) (s : State) (x : Group), s = state0 (indexed buffer8) ∧ x = group0 (indexed buffer8) ∧ Issues s 3 x ∧
    o.b.toNat % 4 = 0 ∧ LaneReady x (o.a.toNat :: (List.range (sizeRegs o.size)).map (o.d.toNat + ·)) ∧
    sizeRegs o.size * 8 = (x.record o.b.toNat).1.u2 :=
  ⟨⟨false, .two, 8, 2, 4⟩, _, _, rfl, rfl, issues_of (by decide), by decide, ready_of (by decide), by decide⟩

theorem wit_GlobalAtomics : ∃ (o : Regs3) (x y : Group), x = group0 (indexed buffer) ∧ y = group0 (indexed buffer8) ∧
    Issues (state0 (indexed buffer)) 3 x ∧ Issues (state0 (indexed buffer8)) 3 y ∧ o.b.toNat % 4 = 0 ∧
    LaneReady x (o.a.toNat :: (List.range 2).map (o.d.toNat + ·)) ∧ LaneReady y (o.a.toNat :: (List.range 4).map (o.d.toNat + ·)) ∧
    (x.record o.b.toNat).1.u2 = 8 * 1 ∧ (y.record o.b.toNat).1.u2 = 8 * 2 :=
  ⟨⟨false, 8, 2, 4⟩, _, _, rfl, rfl, issues_of (by decide), issues_of (by decide), by decide, ready_of (by decide), ready_of (by decide),
    by decide, by decide⟩

/-! ### Ordering -/

def entry0 (key : Nat) : WbEntry :=
  { core := 0, key := key, lo := true, hi := true, val := 7, full := false, comp := none, group := 3, tag := none, seq := 0 }
def ordState (wb : List WbEntry) (ws : List PointWrite) : State :=
  { state0 [] with ord := { (state0 []).ord with wb := wb, writes := ws, seq := 1 } }

/-- A promotion by core 0 of what came before number 1. -/
def promotion0 : Promotion := { core := 0, before := 1, group := 3 }
def askedState (u : State → State) : State :=
  let s := u (ordState [entry0 0x100000] [])
  { s with ord := { s.ord with promotions := [promotion0] } }

/-- An entry of a buffer that may move, to a slice and to a bank; a write at a point and at its cluster's; a buffer entry
that may not move yet; a promotion that a `gupd` holds back, and one that is served. -/
theorem wit_OrderingMoves :
    (∀ b ∈ [true, false], let s := askedState (if b then updating else id)
     s.ord.promotions[0]? = some promotion0 ∧ (s.settleCore [] 0 1).storeKept 0 1 = b) ∧
    (let s := ordState [entry0 0x100000] []
     s.ord.wb[0]? = some (entry0 0x100000) ∧ s.elementMoves 0 = true ∧ isBankKey (entry0 0x100000).key = false) ∧
    (let s := ordState [entry0 (bankKey 0 .data 0)] []
     s.ord.wb[0]? = some (entry0 (bankKey 0 .data 0)) ∧ s.elementMoves 0 = true ∧ isBankKey (entry0 (bankKey 0 .data 0)).key = true ∧
       ∀ f ∈ s.ord.wb, (entry0 (bankKey 0 .data 0)).together f = true → f.comp = none) ∧
    (let s := ordState [] [{ point := 0, entry := entry0 0x100000 }]
     s.ord.writes[0]? = some { point := 0, entry := entry0 0x100000 } ∧ s.ord.elementMoves 0 = true) ∧
    (let s := ordState [] [{ point := 192, entry := entry0 0x100000 }]
     s.ord.writes[0]? = some { point := 192, entry := entry0 0x100000 } ∧ s.ord.elementMoves 0 = true ∧
       ∀ v ∈ s.ord.writes, (192 == v.point && (entry0 0x100000).together v.entry) = true → v.entry.comp = none) ∧
    (let s := ordState [entry0 0x100000, entry0 0x100000] [{ point := 0, entry := entry0 0x100000 }, { point := 0, entry := entry0 0x100000 }]
     s.elementMoves 1 = false ∧ s.ord.elementMoves 1 = false) ∧
    isBankKey 0x100000 = false ∧
    (∀ j, j < 8 → ((state0 []).homeRead ((state0 []).compAt (0x100000 - 0x100000 % 8 + j)) (0x100000 - 0x100000 % 8 + j)).2 = false) := by
  refine ⟨by decide +kernel, ?_⟩
  decide

def helpers : Group := { group0 (regs [(2, 0xF05)]) with fibres := (List.range 4).map fun l => (l, { fibre0 with flags := 2 }) }

/-- A notify write on its way, which its group's `gupd` holds back or nothing does. -/
def notifying (sent : Option (Nat × Nat × Nat)) : NotifyWrite := { core := 191, reg := 15, value := 1, sent := sent }

/-- A buffer with a write of the core; a `gupd` of the group; a notify register that is there, and two that are not; helpers
alone. -/
theorem wit_FenceAndNotify : Issues (updating (state0 [])) 3 (group0 []) ∧
    (updating (state0 [])).releaseWaits 3 (group0 []).core (updating (state0 [])).ord.seq = true ∧
    (ordState [entry0 0x100000] []).releaseWaits 3 (group0 []).core (ordState [entry0 0x100000] []).ord.seq = false ∧
    (∀ sent ∈ [none, some (3, 0, 1)], let s := { updating (state0 []) with notifyWrites := [notifying sent] }
     let u := match sent with
       | none => s
       | some (g, c, n) => s.settleCore [g] c n
     s.notifyWrites[0]? = some (notifying sent) ∧ (sent.any fun p => u.releaseWaits p.1 p.2.1 p.2.2) = sent.isSome) ∧ Issues (ordState [entry0 0x100000] []) 3 (group0 []) ∧
    (∀ e ∈ (ordState [entry0 0x100000] []).ord.wb, e.seq < (ordState [entry0 0x100000] []).ord.seq) ∧ UniReads (group0 []) [2, 3] ∧
    (let t := (group0 (regs [(2, 0xFBF)])).uni 2
     t.toNat % 256 < 192 ∧ t.toNat < 2 ^ 12) ∧ 192 ≤ ((group0 (regs [(2, 0xC0)])).uni 2).toNat % 256 ∧ 2 ^ 12 ≤ ((group0 (regs [(2, 0x1000)])).uni 2).toNat ∧
    (group0 []).allHelpers = false ∧ helpers.allHelpers = true :=
  ⟨issues_of (by decide), by decide, by decide, by decide +kernel, issues_of (by decide), by decide, reads_of (by decide), by decide, by decide,
    by decide, by decide, by decide⟩

/-! ### Barriers and rings -/

/-- An object at the end of the bank, with counts at their ends, a phase that has moved and one that has not, and an
address past the bank. -/
theorem wit_Barriers : Issues (state0 (regs [(2, 0x3FFF0)])) 3 atEnd ∧ (state0 (regs [(2, 0x3FFF0)])).blockOf atEnd = some block0 ∧
    UniReads atEnd [2, 3] ∧ UniWrites atEnd [8] ∧ block0.checkAt .scr 16 16 (atEnd.uni 2) = .ok (bankKey 0 .data 0x3FFF0) ∧
    0 < (65535 : Word).toNat ∧ (65535 : Word).toNat < 2 ^ 16 ∧ 2 ^ 16 ≤ (65536 : Word).toNat ∧
    (∀ u ∈ (state0 []).portUnits, u.org.group ≠ 3) ∧ (state0 []).phaseAt 0 0x3FFF0 = 0 ∧ (state0 []).phaseAt 0 0x3FFF0 ≠ 1 ∧
    block0.checkAt .scr 16 16 0x3FFF8 = .error .bankbound ∧
    (∀ op ∈ [PortOp.binit 65535, .expect 5, .expect (2 ^ 32 - 1), .arrive 1 (some 8)],
      let s := { state0 [] with portUnits := [unit0 op 0x3FFF0] }
      s.portUnits[0]? = some (unit0 op 0x3FFF0) ∧ ((s.portUnits.take 0).any fun v => v.precedes (unit0 op 0x3FFF0)) = false ∧ s.ord.wb = [] ∧
        s.sliceOps = [] ∧ s.ord.writes = [] ∧ s.rays = [] ∧ s.groups.all (fun p => p.2.waiting.isEmpty) = true) ∧
    (let u := { unit0 (.arrive 1 (some 8)) 0x3FFF0 with seq := 1 }
     let s := { updating (state0 []) with portUnits := [u] }
     s.portUnits[0]? = some u ∧ u.op.isArrival = true ∧ (s.settleBefore u.org.core u.seq).releaseWaits u.org.group u.org.core u.seq = true) ∧
    (state0 []).group? 3 = some (group0 []) :=
  ⟨issues_of (by decide), by decide, reads_of (by decide), writes_of (by decide), ok_of (by decide), by decide, by decide, by decide,
    by decide, by decide, by decide, err_of (by decide), by decide, by decide +kernel, by decide⟩

/-- A ring of two slots of 64 bytes at 0x1000, with its descriptor at 0x100 and its objects at 0x200 and 0x210: idle,
filled once, or taken once; the object of FREE expects so many arrivals. -/
def ringMem (acq done phase expa : Nat) : Memory :=
  Memory.writeBytes (Memory.writeBytes (Memory.writeBytes mem0 (bankKey 0 .data 0x100)
    (bytesOfWords [0x1000, 0x01000040, 0x200, 0x210, BitVec.ofNat 32 acq, BitVec.ofNat 32 acq, BitVec.ofNat 32 done, 0]))
    (bankKey 0 .data 0x210) (bytesOf 4 phase)) (bankKey 0 .data 0x204) (bytesOf 2 expa)
def ringUnit (op : PortOp) : PortUnit := { unit0 op 0x100 with also := [(0, 0x200), (0, 0x210)] }
def ringState (acq done phase expa : Nat) (op : PortOp) : State :=
  { state0 (regs [(2, 0x100)]) with mem := ringMem acq done phase expa, portUnits := [ringUnit op] }

theorem wit_Rings : (let s := { ringState 0 0 0 0 (.ringInit 8) with portUnits := [] }
     Issues s 3 (group0 (regs [(2, 0x100)])) ∧ UniReads (group0 (regs [(2, 0x100)])) [2] ∧
     UniWrites (group0 (regs [(2, 0x100)])) ((List.range 3).map (8 + ·)) ∧ block0.checkAt .scr 32 32 0x100 = .ok (bankKey 0 .data 0x100) ∧
     block0.checkAt .scr 32 32 0x40000 = .error .detached ∧
     (let d := ringDesc (s.loadBytes 0 (some 3) none (bankKey 0 .data 0x100) 32).1
      (d.2 && block0.ringOk d.1) = true ∧ block0.bankAt .scr d.1.free = some 0 ∧ block0.bankAt .scr d.1.fill = some 0 ∧
        wbits d.1.free 17 0 = 0x200 ∧ wbits d.1.fill 17 0 = 0x210) ∧
     (let d := ringDesc (s.loadBytes 0 (some 3) none (bankKey 0 .data 0x200) 32).1
      (d.2 && block0.ringOk d.1) = false)) ∧
    -- EMPTY, a filled slot; nothing to return, refused, last, not last; in use, idle
    (∀ c ∈ [(0, 0, 0, 0, PortOp.ringAcquire 8), (0, 0, 1, 0, .ringAcquire 8), (1, 1, 1, 0, .ringDone 8), (1, 0, 1, 0, .ringDone 8),
        (1, 0, 1, 1, .ringDone 8), (1, 0, 1, 2, .ringDone 8), (1, 0, 1, 0, .ringInit 8), (1, 1, 1, 0, .ringInit 8)],
      let s := ringState c.1 c.2.1 c.2.2.1 c.2.2.2.1 c.2.2.2.2
      let d := (ringDesc (s.readHome (bankKey 0 .data 0x100) 32)).1
      s.portUnits[0]? = some (ringUnit c.2.2.2.2) ∧ ((s.portUnits.take 0).any fun v => v.precedes (ringUnit c.2.2.2.2)) = false ∧
        s.ord.wb = [] ∧ s.groups.all (fun p => p.2.waiting.isEmpty) = true ∧ d.head = c.1 ∧ d.acq = c.1 ∧ d.done = c.2.1 ∧
        (s.bar 0 0x210).phase = c.2.2.1 ∧ s.bar 0 0x200 = { phase := 0, expa := c.2.2.2.1, arr := 0, expb := 0, landed := 0 } ∧ s.copies = []) ∧
    bankKey 0 .data 0x100 + 28 ≤ bankKey 0 .data 0x200 ∧ bankKey 0 .data 0x200 + 16 ≤ bankKey 0 .data 0x210 :=
  ⟨⟨issues_of (by decide), reads_of (by decide), writes_of (by decide), ok_of (by decide), err_of (by decide), by decide, by decide⟩, by decide,
    by decide, by decide⟩

/-! ### The copy engine's commands -/

/-- v4 to v7 the buffer, v8 to v11 a transfer of 64 bytes from its element 0 to the bank, without a barrier. -/
def copyRegs : Sparse Word := regs ([(8, 0), (9, 0), (10, 64), (11, 0x80000000)] ++ buffer)

def copy0 (ring fill : Option Nat) (w3 : Word) (phase : CopyPhase) : CopyCmd :=
  { org := org0, slot := 0, fn := .cpy, pc := 0x1000, word := 0, t := [0, 0, 64, w3], record := [0x100000, 0x200000, 0, 16], vc := 0, c := 3
    root := 0x10000, seq := 0, fill := fill, phase := phase, next := 0, stale := 0, waiting := 0, space := 0, slots := 4, bankSlot := 0
    bankOff := 0, bank := 0, area := 0
    listBank := 0, banks := [0], barBank := 0, barOff := 0x210, ring := ring, migrating := none, service := none }

/-! ### The bank switch -/

def drain0 (give : Option (Nat × Space × Nat)) : Drain :=
  { bank := 0, give := give, bar := 0x200, barBank := 1, barGen := 0, org := org0, pc := 0x1000, word := 0, slotAddr := 0, before := 0 }

/-- A ring is in use while a fill of it is left. -/
theorem wit_Rings_copies : ∃ c ∈ ({ ringState 1 1 1 0 (.ringInit 8) with copies := [(7, copy0 (some (bankKey 0 .data 0x100)) (some 0) 0 .queued)] } : State).copies,
    c.2.ring = some (bankKey 0 .data 0x100) := ⟨_, List.mem_singleton.mpr rfl, rfl⟩

def reservedBlock (acc c : Bool) : Block := block0.setSlot .scr 1 (.reserved 5 0x200 1 0 acc c)

/-- Slot names that are none; a mapped, an empty and a reserved slot; a full pool and one that is not; a ticket that is
good; a drain that is over, for a release and for a give; and a bank being cleared. -/
theorem wit_BankSwitching : Issues (state0 []) 3 (group0 []) ∧ (state0 []).blockOf (group0 []) = some block0 ∧ UniReads (group0 []) [2, 3] ∧
    UniWrites (group0 []) [8, 9] ∧ 64 ≤ (64 : Word).toNat ∧ block0.slot? (spaceOf 3) 15 = none ∧
    (block0.slot? .scr 0).map Slot.st = some (.mapped 0) ∧ (block0.slot? .scr 1).map Slot.st = some .empty ∧
    (state0 []).freeBanks block0.cluster ≠ [] ∧
    ({ state0 [] with bankState := (List.range 96).map fun k => (k, .held) } : State).freeBanks block0.cluster = [] ∧
    block0.checkAt .scr 16 16 0 = .ok (bankKey 0 .data 0) ∧ ((state0 []).entry block0.cluster 0).owner = none ∧
    ((reservedBlock true false).slot? .scr 1).map Slot.st = some (.reserved 5 0x200 1 0 true false) ∧
    (let s := { state0 [] with blocks := [(2, reservedBlock false false)]
                               resTable := [(5, { seq := 7, owner := some (2, .scr, 1) })] }
     let r := s.entry (reservedBlock false false).cluster 5
     5 ≤ 191 ∧ r.seq.toNat = (0x705 : Word).toNat / 256 ∧ r.owner = some (2, .scr, 1) ∧ s.block? 2 = some (reservedBlock false false) ∧
       ((reservedBlock false false).slot? .scr 0).map Slot.bank? = some (some 0)) ∧
    (let s := { state0 [] with drains := [drain0 none] }
     s.drains[0]? = some (drain0 none) ∧ s.drained (drain0 none) = true ∧ s.ord.wb = [] ∧ s.portUnits = [] ∧ s.sliceOps = [] ∧ s.ord.writes = [] ∧ s.rays = []) ∧
    (let b := { reservedBlock true false with phase := .saved }
     let s := { state0 [] with drains := [drain0 (some (2, .scr, 1))], blocks := [(2, b)] }
     s.drains[0]? = some (drain0 (some (2, .scr, 1))) ∧ s.drained (drain0 (some (2, .scr, 1))) = true ∧ s.block? 2 = some b ∧ b.phase = .saved) ∧
    (∀ c, let s := { state0 [] with drains := [drain0 (some (2, .scr, 1))], blocks := [(2, reservedBlock true c)] }
      s.drains[0]? = some (drain0 (some (2, .scr, 1))) ∧ s.drained (drain0 (some (2, .scr, 1))) = true ∧ s.block? 2 = some (reservedBlock true c) ∧
        (reservedBlock true c).phase ≠ .saved ∧ ((reservedBlock true c).slot? .scr 1).map Slot.st = some (.reserved 5 0x200 1 0 true c)) ∧
    (let s := { state0 [] with copies := [(7, copy0 none none 0x80000000 .queued)] }
     s.drained (drain0 none) = false) ∧
    ({ state0 [] with bankState := [(4, .clearing)] } : State).bankSt 4 = .clearing :=
  ⟨issues_of (by decide), by decide, reads_of (by decide), writes_of (by decide), by decide, by decide, by decide, by decide, by decide, by decide,
    ok_of (by decide), by decide, by decide, by decide, by decide, by decide, by decide, by decide, by decide⟩

/-! ### The copy engine -/

theorem wit_CopyEngine : Issues (state0 copyRegs) 3 (group0 copyRegs) ∧ (state0 copyRegs).blockOf (group0 copyRegs) = some block0 ∧
    UniReads (group0 copyRegs) ((List.range 4).map (4 + ·) ++ (List.range 4).map (8 + ·) ++ [3]) ∧ UniWrites (group0 copyRegs) [3] ∧
    (let r := (group0 copyRegs).record 4
     let t := (List.range 4).map fun j => (group0 copyRegs).uni (8 + j)
     r.2 = true ∧ 2 * (xfer t).len % r.1.u2 = 0 ∧ r.1.esz ≠ 5 ∧ r.1.ro = false ∧ xferOk .cpy r.1 t 0 = true ∧ (xfer t).ring = false ∧
       ∃ side, bankSide block0 .cpy r.1 (xfer t) = .ok side) ∧
    (group0 copyRegs).allHelpers = false ∧ ((state0 copyRegs).commandsOf (group0 copyRegs).core).length < 16 ∧
    (let s := { state0 [] with copies := (List.range 16).map fun k => (k, { copy0 none none 0x80000000 .queued with slot := k }) }
     16 ≤ (s.commandsOf 0).length) ∧
    (let c := copy0 none none 0x80000000 .queued
     let s := { state0 [] with copies := [(7, c)] }
     Tab.get s.copies 7 = some c ∧ s.rays = [] ∧ s.earlierWrites 7 c = ([], []) ∧ (xfer c.t).nobar = true ∧ (bufRec c.record).1.u2 = 8 ∧
       (xfer c.t).start.toNat + 2 * (xfer c.t).len / 8 ≤ (bufRec c.record).1.ext ∧ 0 < 2 * (xfer c.t).len / 8 ∧
       ∀ k, k < 16 → s.FindsWith (fun _ => False) c.root (0x100000 + 4 * k) .read (page0 (0x100000 + 4 * k))) ∧
    (let c := { copy0 (some (bankKey 0 .data 0x100)) (some 0) 0x40000000 .queued with bankOff := 0x1000 }
     let s := { ringState 0 0 0 0 (.ringInit 8) with portUnits := [], copies := [(7, c)] }
     let d := (ringDesc (s.readHome (bankKey 0 .data 0x100) 32)).1
     Tab.get s.copies 7 = some c ∧ (0 + 2 ^ 32 - d.done) % 2 ^ 32 < c.slots ∧ s.earlierWrites 7 c = ([], [])) ∧
    (let c := copy0 (some (bankKey 0 .data 0x100)) (some 0) 0x40000000 .filled
     let s := { state0 [] with copies := [(7, c)], mem := Memory.writeBytes mem0 (bankKey 0 .data 0x210) (bytesOfWords [0, 1, 0, 0]) }
     Tab.get s.copies 7 = some c ∧ s.bar c.barBank c.barOff = { phase := 0, expa := 1, arr := 0, expb := 0, landed := 0 } ∧ 0 < (xfer c.t).len) :=
  ⟨issues_of (by decide), by decide, reads_of (by decide), writes_of (by decide), ⟨by decide, by decide, by decide, by decide, by decide, by decide,
    _, rfl⟩, by decide, by decide, by decide,
    ⟨by decide, rfl, by decide, by decide, by decide, by decide, by decide, fun k hk => findsWith_of (by decide) (fun _ h => h) (by
      revert k; unfold State.Finds; decide)⟩, by decide, by decide⟩

/-! ### The matrix engine -/

/-- Registers v4 to v7: four rows of 8-bit integers from bank 1 times B into bank 3, without an object. -/
def matWords : List Word := [0, 0, 0x90000000, 0]
def matGroup : Sparse Word := regs ((matWords.zipIdx 4).map fun p => (p.2, p.1))

/-- A set of 8 signers, and the same signed and closed. -/
def set0 : CvSet := openSet .core 8
def signed0 (g : Nat) (closed : Option Nat) : CvSet :=
  { set0 with first := some (org0, 0x1000, 0), params := matWords, regions := [(3, 0, 4096)], aBank := 1, closed := closed
              sigs := [{ group := g, lane := 0, pos := 0, reg := 8, regs := 2 }] }
def withSet (c : CvSet) (b : Block) : Block := b.putSet 0 0 c
def setState (c : CvSet) : State := { state0 matGroup with blocks := [(2, withSet c block0)] }

/-- Lanes at entries of their own, and a control word in v5: the whole entry, cleared as it is read. -/
def entries : Sparse Word := (regs [(5, 0x640)]).foldl (fun t p => Tab.put t p.1 p.2) apart
def entryWords : Sparse Word := (regs [(5, 1)]).foldl (fun t p => Tab.put t p.1 p.2) apart

theorem entries_keys (b : Sparse Word) (hb : b = entries ∨ b = entryWords) : ∀ l, (group0 b).active.getLsbD l = true →
    block0.checkAt .acc 8 8 ((group0 b).reg l 2 + (group0 b).uni 4) = .ok (bankKey 3 .data (16 * l)) := by
  rcases hb with rfl | rfl <;> exact keys_of (by decide)

theorem entries_apart (l k : Nat) (h : l ≠ k) : bankKey 3 .data (16 * l) + 8 * 1 ≤ bankKey 3 .data (16 * k) ∨
    bankKey 3 .data (16 * k) + 8 * 1 ≤ bankKey 3 .data (16 * l) := by
  simp only [bankKey]; omega

theorem wit_MatrixWords :
    (∀ c ∈ [set0, openSet .group 4, signed0 4 (some 0)], Issues (setState c) 3 (group0 matGroup) ∧
      (setState c).blockOf (group0 matGroup) = some (withSet c block0) ∧ (withSet c block0).hasCv 0 0 = true ∧
      Tab.get (withSet c block0).cvs 0 = some c ∧ UniReads (group0 matGroup) ((List.range 4).map (4 + ·))) ∧
    (signed0 4 (some 0)).closed.isSome = true ∧ (group0 matGroup).current = some { mask := 0xF, wait := .none, since := 0, count := 0 } ∧
    block0.hasCv 0 7 = false ∧ block0.hasCv 0 1 = true ∧ Tab.get block0.cvs 1 = none ∧
    (let x := group0 matGroup
     let b := withSet set0 block0
     let p := matParams ((List.range 4).map fun j => x.uni (4 + j))
     p.ok = true ∧ 8 + matRegs .core p.fmt ≤ x.wsize ∧ p.rows ≤ maxRows .core ∧ checkA b p = .ok (bankKey 1 .data 0) ∧
       (∃ rs, checkC b p (matCols .core p.fmt) = .ok rs) ∧ checkBar b p = .ok none ∧
       ((lanesOf x.active).map (signPos .core x)).Nodup ∧ 0 + ((lanesOf x.active).map (signPos .core x)).length ≤ set0.count) ∧
    (let s := state0 entries
     let x := group0 entries
     Issues s 3 x ∧ s.blockOf x = some block0 ∧ LaneReady x (2 :: (List.range 2).map (8 + ·)) ∧ UniReads x [4, 5] ∧ cvaOk (x.uni 5) = true ∧
       (∀ l, x.active.getLsbD l = true → block0.checkAt .acc 8 8 (x.reg l 2 + x.uni 4) = .ok (bankKey 3 .data (16 * l))) ∧
       (∀ l, x.active.getLsbD l = true → s.busyAt 0 (bankKey 3 .data (16 * l)) = false) ∧ s.ord.wb = [] ∧ s.ord.writes = [] ∧ s.errors = []) ∧
    (let s := state0 entryWords
     let x := group0 entryWords
     Issues s 3 x ∧ s.blockOf x = some block0 ∧ LaneReady x (2 :: (List.range 1).map (8 + ·)) ∧ UniReads x [4, 5] ∧ (x.uni 5).toNat ≤ 2 ∧
       (∀ l, x.active.getLsbD l = true → block0.checkAt .acc 8 8 (x.reg l 2 + x.uni 4) = .ok (bankKey 3 .data (16 * l))) ∧
       ∀ l, x.active.getLsbD l = true → s.busyAt 0 (bankKey 3 .data (16 * l)) = false) := by
  refine ⟨?_, by decide, by decide, by decide, by decide, by decide, ?_, ?_, ?_⟩
  · intro c hc
    simp only [List.mem_cons, List.not_mem_nil, or_false] at hc
    rcases hc with rfl | rfl | rfl <;> exact ⟨issues_of (by decide), by decide, by decide, by decide, reads_of (by decide)⟩
  · exact ⟨by decide, by decide, by decide, ok_of (by decide), ⟨_, rfl⟩, rfl, by decide, by decide⟩
  · exact ⟨issues_of (by decide), by decide, ready_of (by decide), reads_of (by decide), by decide, entries_keys _ (.inl rfl),
      lanes_of (by decide), by decide, by decide, by decide⟩
  · exact ⟨issues_of (by decide), by decide, ready_of (by decide), reads_of (by decide), by decide, entries_keys _ (.inr rfl),
      lanes_of (by decide)⟩

def matOp0 : MatOp :=
  { org := org0, cv := 0, scope := .group, count := 64, word := 0, params := matWords, pc := 0x1000, regions := [(3, 0, 1024)], aBank := 1
    quarters := [0], captured := [], signers := [3], seq := 1, closed := 0 }

/-- An entry that a started operation holds. -/
theorem wit_busy : (∃ k ∈ ((lanesOf (group0 entries).active).flatMap fun l => (List.range 1).map fun j => bankKey 3 .data (16 * l) + 8 * j),
    ({ state0 entries with matOps := [matOp0] } : State).busyAt 0 k = true) ∧
    (group0 entries).current = some { mask := 0xF, wait := .none, since := 0, count := 0 } := by decide

/-- Control words for every target, of an entry in acc40 and of an integer; entries that are NaN, infinite, zero and neither. -/
theorem wit_conversions : (∀ t, t < 7 → cvaOk (BitVec.ofNat 32 (256 * t)) = true ∧ wbits (BitVec.ofNat 32 (256 * t)) 11 8 = t ∧
      wbit (BitVec.ofNat 32 (256 * t)) 12 = false) ∧
    (∀ t, t < 7 → cvaOk (BitVec.ofNat 32 (4096 + 256 * t)) = true ∧ wbit (BitVec.ofNat 32 (4096 + 256 * t)) 12 = true) ∧
    [RMode.rn, .rz, .rd, .ru, .rs][wbits (0 : Word) 2 0]? = some .rn ∧ (acc40.decode acc40.nanCode).isNan = true ∧
    acc40.decode (acc40.signed true acc40.infCode) = .inf true ∧ (acc40.decode 0).isZero = true ∧ (acc40.decode 0).isFin = true ∧ (acc40.decode 1).isFin = true ∧
    (match acc40.decode 1 with
      | .fin _ k _ => k != 0
      | _ => false) = true := by decide

/-- Every entry of the operation's C, four rows of 32 columns. -/
theorem matOp0_keys (i : Nat) (h : i < 128) : matOp0.entryKey i = bankKey 3 .data (8 * i) := by
  have h8 : 8 * i < 1024 := by omega
  simp [MatOp.entryKey, matOp0, h8]

/-- The set with a barrier object: its start is an acquire of its signers. -/
def fenced0 : CvSet := { signed0 3 (some 0) with params := [0, 0, 0x10000020, 1], barBank := some 0 }

/-- A set that lost its bank of A, one that is not closed, and one that may start, with and without a fence; an operation that
waits for a copy, for a promotion or for nothing, and one whose A has an error. -/
theorem wit_MatrixEvents :
    (let c := { signed0 3 (some 0) with lost := true }
     let b := withSet c { block0 with slots := [] }
     let s := { state0 [] with blocks := [(2, b)] }
     s.block? 2 = some b ∧ Tab.get b.cvs 0 = some c ∧ b.hasCv 0 0 = true ∧ c.lost = true ∧ c.first = some (org0, 0x1000, 0)) ∧
    (∀ c ∈ [signed0 3 none, signed0 3 (some 0), fenced0], (setState c).block? 2 = some (withSet c block0) ∧
      Tab.get (withSet c block0).cvs 0 = some c ∧ c.first = some (org0, 0x1000, 0) ∧ c.lost = false ∧ (withSet c block0).hasCv 0 0 = true ∧
      (setState c).mayStart 0 (matParams c.params) c 0 = true) ∧
    (matParams fenced0.params).nobar = false ∧ (∃ q ∈ fenced0.sigs, (setState fenced0).group? q.group = some (group0 matGroup)) ∧
    (let s := { state0 [] with matOps := [matOp0], copies := [(7, { copy0 none none 0x80000000 .queued with bank := 1 })] }
     s.copyPending matOp0 (matParams matWords) = true) ∧
    (let s := { state0 [] with matOps := [matOp0], ord := { (state0 []).ord with promotions := [promotion0] } }
     s.startWaits matOp0 = true) ∧
    (∀ e ∈ [[], [bankKey 1 .data 0 / 8]], let s := { state0 [] with matOps := [matOp0], errors := e }
     s.matOps[0]? = some matOp0 ∧ s.copyPending matOp0 (matParams matWords) = false ∧ s.startWaits matOp0 = false ∧ s.ord.wb = [] ∧
       s.ord.writes = [] ∧ s.portUnits = [] ∧ s.sliceOps = [] ∧ s.rays = [] ∧
       matOp0.badReads s (matParams matWords) = !e.isEmpty ∧ (matParams matWords).rows * matCols .group (matParams matWords).fmt = 128) ∧
    ∀ i j, i < j → j < 128 → matOp0.entryKey i + 8 ≤ matOp0.entryKey j ∨ matOp0.entryKey j + 8 ≤ matOp0.entryKey i := by
  refine ⟨by decide, by decide, by decide, ⟨_, List.mem_singleton.mpr rfl, by decide⟩, by decide, by decide, by decide +kernel, ?_⟩
  intro i j h k
  rw [matOp0_keys i (by omega), matOp0_keys j k]
  left; simp only [bankKey]; omega

/-- Factors of mk8 whose products are none, finite, NaN, and of binary16 whose product is an infinity. -/
theorem wit_products : (markDecode 7 0).isZero = true ∧ (markDecode 7 1).isZero = false ∧ (markDecode 7 1).isFin = true ∧
    (markDecode 7 128).isNan = true ∧ (markDecode 7 128).isZero = false ∧ (f16.decode 0x7C00).isInf = true ∧
    (f16.decode 0x3C00).isZero = false ∧ (f16.decode 0x3C00).neg? = false ∧ (acc40.decode 0).isFin = true := by decide

end Sys2Proof.Tests
end

