-- ==== Sys2Proof/Tests/Witness3.lean ====
section
/-!
SUPPORT. Witnesses for the statements about queues, messages, the fabric and compositing.
-/
namespace Sys2Proof.Tests
open Sys2Proof.Machine

/-! ### Queues -/

/-- Queue 1: four records at 0x100000 in the address space of the block, with this many enqueued. -/
def queue0 (tail : Word) : Queue :=
  { base := 0x100000, root := 0x10000, binding := 0, log2cap := 2, batch := 0, tail := tail, head := 0, free := 0, armed := none, launched := 0
    claims := [] }
def qregs : Sparse Word := regs [(2, 1)]
def queueState (q : Queue) : State := { state0 qregs with queues := [(1, q)] }
def onlyHelpers : Group := { group0 qregs with fibres := (List.range 4).map fun l => (l, { fibre0 with flags := 2 }) }

theorem queue_finds (tail n : Word) (h : tail = 0 ∨ tail = 4 ∨ tail = 1) (hn : n = 0 ∨ n = 1) :
    (queueState (queue0 tail)).Finds 0x10000 ((queue0 tail).recordVa n) .write (page0 ((queue0 tail).recordVa n)) := by
  rcases h with rfl | rfl | rfl <;> rcases hn with rfl | rfl <;> (unfold State.Finds; decide)

/-- An empty, a partly filled and a full queue, met by `enq`, `deq`, `qarm` and `qstat` of v4 with v2 and v3. -/
theorem wit_QueueWords :
    (∀ q ∈ [queue0 0, queue0 1, queue0 4], Issues (queueState q) 3 (group0 qregs) ∧ (queueState q).blockOf (group0 qregs) = some block0 ∧
      UniReads (group0 qregs) [2] ∧ UniWrites (group0 qregs) [3] ∧ Tab.get (queueState q).queues (wbits ((group0 qregs).uni 2) 8 0) = some q ∧
      q.root = (queueState q).rootOfBlock block0 ∧ wbits ((group0 qregs).uni 2) 31 9 = 0 ∧ (group0 qregs).allHelpers = false ∧
      UniReads (group0 qregs) ((List.range 16).map (0 + ·)) ∧ UniWrites (group0 qregs) ((List.range 16).map (0 + ·)) ∧
      UniWrites (group0 qregs) ((List.range 8).map (4 + ·)) ∧ (queueState q).Quiet ∧ (group0 qregs).tags = [] ∧ q.armed = none) ∧
    (queue0 4).full = true ∧ (queue0 1).full = false ∧ (queue0 0).full = false ∧
    (queueState (queue0 1)).Finds 0x10000 ((queue0 1).recordVa (queue0 1).tail) .write (page0 ((queue0 1).recordVa (queue0 1).tail)) ∧
    (queueState (queue0 1)).Finds 0x10000 ((queue0 1).recordVa (queue0 1).head) .write (page0 ((queue0 1).recordVa (queue0 1).head)) ∧
    (queueState (queue0 1)).anyError (page0 ((queue0 1).recordVa (queue0 1).head)).key 64 = false ∧
    block0.checkAt .scr 16 16 ((group0 qregs).uni 4) = .ok (bankKey 0 .data 0) ∧ Tab.get (state0 qregs).queues 1 = none ∧
    (∀ q ∈ [queue0 0, queue0 1], Issues (updating (queueState q)) 3 (group0 qregs) ∧
      (updating (queueState q)).releaseWaits 3 (group0 qregs).core (updating (queueState q)).ord.seq = true) ∧
    onlyHelpers.allHelpers = true ∧ Issues { state0 qregs with groups := [(3, onlyHelpers)] } 3 onlyHelpers ∧ wbits (0x800 : Word) 31 11 ≠ 0 ∧
    wbits (0x200 : Word) 10 9 ≠ 0 := by
  refine ⟨?_, by decide, by decide, by decide, queue_finds 1 1 (by decide) (by decide), queue_finds 1 0 (by decide) (by decide),
    by decide, ok_of (by decide), by decide, ?_, by decide, issues_of (by decide), by decide, by decide⟩
  case refine_2 =>
    intro q hq
    simp only [List.mem_cons, List.not_mem_nil, or_false] at hq
    rcases hq with rfl | rfl <;> exact ⟨issues_of (by decide), by decide⟩
  intro q hq
  simp only [List.mem_cons, List.not_mem_nil, or_false] at hq
  rcases hq with rfl | rfl | rfl <;>
    exact ⟨issues_of (by decide), by decide, reads_of (by decide), writes_of (by decide), by decide, by decide, by decide, by decide,
      reads_of (by decide), writes_of (by decide), writes_of (by decide), ⟨rfl, rfl, rfl, rfl, by decide⟩, by decide, by decide⟩

/-! ### Messages -/

def mregs (w0 : Word) : Sparse Word := regs [(4, w0), (5, 9), (6, 0x100), (7, 16), (2, 0x200)]
def msg0 : Message :=
  { org := org0, pc := 0x1000, c := 3, words := [0, 9, 0x100, 16], dest := 0, tag := 9, data := List.replicate 16 5, root := 0x10000, flying := true }
def recv0 : Receive :=
  { block := 2, cluster := 0, any := true, scl := 0, tag := 9, cap := 16, slot := 0, bank := 0, gen := 0, off := 0x100, bar := (0, 0x200, 0) }
def over0 : Overflow := { cluster := 0, root := 0x10000, source := 0, tag := 9, data := List.replicate 16 5 }
def fabState (r : Sparse Word) (f : Fabric → Fabric) : State := { state0 r with fabric := f (state0 r).fabric }
def landing0 (gen : BitVec 8) : Delivery :=
  { of := .message 7, block := 2, space := .scr, slot := 0, bank := 0, gen := gen, off := 0x100, data := List.replicate 16 5, side := []
    ready := true, bar := none, count := 16 }
def landState (gen : BitVec 8) (ds : List Drain) : State :=
  { fabState [] (fun f => { f with messages := [(7, { msg0 with flying := false })] }) with deliveries := [landing0 gen], drains := ds }

theorem wit_Messages :
    (∀ w0 ∈ [(0 : Word), 0x10, 0x20], ∀ n ∈ [0, 16], let x := group0 (mregs w0)
      let s := fabState (mregs w0) fun f => { f with messages := (List.range n).map fun k => (k, msg0) }
      Issues s 3 x ∧ s.blockOf x = some block0 ∧ UniReads x (2 :: (List.range 4).map (4 + ·)) ∧ UniWrites x (3 :: (List.range 4).map (4 + ·)) ∧
        block0.checkAt .scr 16 (wbits (x.uni 7) 12 0) (x.uni 6) = .ok (bankKey 0 .data 0x100) ∧
        block0.checkAt .scr 16 16 (x.uni 2) = .ok (bankKey 0 .data 0x200) ∧ x.allHelpers = false ∧ s.messageSlots x.core = n ∧ s.Quiet ∧
        s.errors = [] ∧ s.portUnits = [] ∧ wbits (x.uni 7) 31 13 = 0 ∧ 16 ≤ wbits (x.uni 7) 12 0 ∧ wbits (x.uni 7) 12 0 ≤ 4096 ∧
        wbits (x.uni 7) 12 0 % 16 = 0 ∧ wbits (x.uni 4) 31 6 = 0 ∧ (w0 = 0 → wbits (x.uni 4) 31 4 = 0)) ∧
    block0.checkAt .scr 16 16 0x40000 = .error .detached ∧
    (let s := fabState [] fun f => { f with messages := [(7, msg0)], receives := [recv0] }
     Tab.get s.fabric.messages 7 = some msg0 ∧ Tab.sorted s.fabric.messages = true ∧ s.fabric.receives.find? (fun r => r.takes s msg0) = some recv0 ∧
       ∀ p ∈ s.fabric.messages, p.1 < 7 → p.2.flying = true → ¬(p.2.org.core = msg0.org.core ∧ p.2.dest = msg0.dest)) ∧
    (∀ n ∈ [0, 64], let s := fabState [] fun f => { f with messages := [(7, msg0)], overflow := List.replicate n over0 }
      s.fabric.receives.find? (fun r => r.takes s msg0) = none ∧ (s.fabric.overflow.filter fun q => q.cluster == msg0.dest).length = n) ∧
    (∀ gen ∈ [(0 : BitVec 8), 1], ∀ ds ∈ [[], [drain0 none]], let s := landState gen ds
      s.deliveries[0]? = some (landing0 gen) ∧ (landing0 gen).ready = true ∧ Tab.get s.fabric.messages 7 = some { msg0 with flying := false } ∧
        (s.gen 0 = gen ↔ gen = 0) ∧ ((∃ q ∈ s.drains, q.bank = 0) ↔ ds ≠ []) ∧ s.block? 2 = some block0 ∧ block0.bank? .scr 0 = some 0) := by
  refine ⟨?_, ?_, by decide, by decide, by decide⟩
  · intro w0 hw n hn
    simp only [List.mem_cons, List.not_mem_nil, or_false] at hw hn
    rcases hw with rfl | rfl | rfl <;> rcases hn with rfl | rfl <;>
      exact ⟨issues_of (by decide), by decide, reads_of (by decide), writes_of (by decide), ok_of (by decide), ok_of (by decide), by decide,
        by decide, ⟨rfl, rfl, rfl, rfl, by decide⟩, by decide, by decide, by decide, by decide, by decide, by decide, by decide, by decide⟩
  · exact err_of (by decide)

/-- A `send` of a group whose `gupd` has not ended, with a free slot. -/
theorem wit_Messages_held : let s := updating (fabState (mregs 0) id)
    Issues s 3 (group0 (mregs 0)) ∧ s.messageSlots (group0 (mregs 0)).core < 16 ∧ s.releaseWaits 3 (group0 (mregs 0)).core s.ord.seq = true :=
  ⟨issues_of (by decide), by decide, by decide⟩

/-- A block that receives a message of the overflow queue, with an object that expects nothing (REFUSED), and one that
expects more bytes. -/
def spillState (mem : Memory) : State :=
  { fabState (mregs 0x10) fun f => { f with overflow := [over0] } with mem := mem }

theorem wit_Messages_overflow : ∀ expb ∈ [(0 : Byte), 32],
    let s := spillState (Memory.write mem0 (bankKey 0 .data 0x200 + 8) expb)
    let x := group0 (mregs 0x10)
    Issues s 3 x ∧ s.blockOf x = some block0 ∧ s.messageSlots x.core < 16 ∧
      (s.fabric.overflow.find? fun q => q.cluster == block0.cluster && q.root == s.rootOfBlock block0 &&
        (wbit (x.uni 4) 4 || q.source == wbits (x.uni 4) 3 0) && q.tag == x.uni 5 &&
        decide (q.data.length ≤ wbits (x.uni 7) 12 0)) = some over0 ∧
      s.groups.all (fun p => p.2.waiting.isEmpty) = true ∧ s.portUnits = [] ∧ s.ord.wb = [] ∧
      bankKey 0 .data 0x100 + over0.data.length ≤ bankKey 0 .data 0x200 ∧
      (let old := s.bar 0 0x200
       (old.arr = old.expa ∧ old.expb < old.landed + over0.data.length) ↔ expb = 0) := by
  intro e he
  simp only [List.mem_cons, List.not_mem_nil, or_false] at he
  rcases he with rfl | rfl <;>
    exact ⟨issues_of (by decide), by decide, by decide, by decide, by decide, by decide, by decide, by decide, by decide⟩

/-! ### The fabric -/

/-- Entry 5 of the group table: member 0 of 1 of group 0; a command in flight. -/
def group5 : GroupEntry := { valid := true, myrank := 0, gid := 0, nrank := 1, late := 0, seq := 0 }
def fcmd (w : FabricWork) : FabricCmd := { org := org0, pc := 0x1000, c := 3, words := [], plane := 0, work := w, flying := true }
def fregs : Sparse Word := regs [(4, 0), (5, 0x1000), (6, 0x10000010), (7, 0x85000000)]
def wordState (n : Nat) (ready : Bool) : State :=
  { fabState fregs (fun f => { f with table := [(5, group5)], commands := (List.range n).map fun k => (k, fcmd (.refused (some 5))) }) with
    status := { (state0 []).status with ports := if ready then 0x3FFFF else 0 } }

/-- A contribution of 16 bytes to group 5 without an object, and a packet of zeros, with a free slot or none and with
ports that are ready or not. -/
theorem wit_FabricWords : ∀ n ∈ [0, 8], ∀ ready ∈ [true, false],
    let s := wordState n ready
    let x := group0 fregs
    Issues s 3 x ∧ s.blockOf x = some block0 ∧ UniReads x ((List.range 4).map (4 + ·)) ∧ UniWrites x [3] ∧ wbits (x.uni 6) 31 28 ≤ 8 ∧
      wbits (x.uni 6) 27 20 = 0 ∧ wbits (x.uni 6) 19 0 = 16 ∧ (s.groupEntry (wbits (x.uni 7) 30 24)) = group5 ∧ addrArea (x.uni 4) = 0 ∧
      addrArea (x.uni 5) = 0 ∧ block0.checkAt .act 16 16 (x.uni 4) = .ok (bankKey 1 .data 0) ∧
      block0.checkAt .act 16 16 (x.uni 5) = .ok (bankKey 1 .data 0x1000) ∧ wbit (x.uni 7) 31 = true ∧ x.allHelpers = false ∧
      s.fabricSlots x.core = n ∧ s.Quiet ∧ s.errors = [] ∧ block0.checkAt .act 64 3104 (x.uni 4) = .ok (bankKey 1 .data 0) ∧
      s.readHome (bankKey 1 .data 0) 32 = List.replicate 32 0 ∧ s.portReady 0 = ready ∧ s.entryOf 0 = some 5 := by
  intro n hn r hr
  simp only [List.mem_cons, List.not_mem_nil, or_false] at hn hr
  rcases hn with rfl | rfl <;> rcases hr with rfl | rfl <;>
    exact ⟨issues_of (by decide), by decide, reads_of (by decide), writes_of (by decide), by decide, by decide, by decide, by decide, by decide,
      by decide, ok_of (by decide), ok_of (by decide), by decide, by decide, by decide, ⟨rfl, rfl, rfl, rfl, by decide⟩, by decide, ok_of (by decide),
      by decide, by decide, by decide⟩

/-- A `coll` or `comp` of a group whose `gupd` has not ended, with a free slot. -/
theorem wit_FabricWords_held : let s := updating (wordState 0 true)
    Issues s 3 (group0 fregs) ∧ s.fabricSlots (group0 fregs).core < 8 ∧ s.releaseWaits 3 (group0 fregs).core s.ord.seq = true :=
  ⟨issues_of (by decide), by decide, by decide⟩

/-- The headers that the clauses tell apart: one that is good, one with a reserved bit, one of a group that no entry
holds, one of a rank beyond its group. -/
theorem wit_packets : (tileHeader (List.replicate 32 0)).reserved = false ∧ (tileHeader (List.replicate 31 0 ++ [1])).reserved = true ∧
    (tileHeader (List.replicate 18 0 ++ [1] ++ List.replicate 13 0)).key.group = 1 ∧ (wordState 0 true).entryOf 1 = none ∧
    (tileHeader (List.replicate 16 0 ++ [1] ++ List.replicate 15 0)).rank = 1 ∧ group5.nrank = 1 := by decide

def eventState (w : FabricWork) (nrank : BitVec 10) (ports : BitVec 18) (trip : Bool) : State :=
  let s := fabState [] fun f => { f with table := [(5, { group5 with nrank := nrank })], commands := [(7, fcmd w)], fabid := some 4 }
  { s with status := { s.status with ports := ports }, power := { s.power with trip := trip } }

/-- A collective of two members that agree, that disagree or one of which is down; the switches' number of members of
the group is the device's own, whatever it is. -/
theorem wit_FabricEvents :
    (let s := eventState (.coll 5 0 1 [1, 2, 3, 4]) 2 0x3FFFF false
     s.fabric.commands.find? (fun p => p.2.flying && (match p.2.work with
       | .coll k _ _ _ => k == 5
       | _ => false)) = some (7, fcmd (.coll 5 0 1 [1, 2, 3, 4])) ∧ (s.groupEntry 5).nrank.toNat = 2 ∧
     (let mine : CollPart := { rank := 0, op := 1, len := 4, data := [1, 2, 3, 4], down := false }
      ∀ q ∈ [({ rank := 1, op := 1, len := 4, data := [5, 0, 0, 255], down := false } : CollPart),
          { rank := 1, op := 2, len := 4, data := [5, 0, 0, 255], down := false }, { rank := 1, op := 1, len := 8, data := [], down := false }],
        [mine, q].length = 2 ∧ [q].find? (fun p => p.rank == 1) = some q ∧ q.down = false ∧
        ((q.op ≠ mine.op ∨ q.len ≠ mine.len) ↔ ¬(q.op = 1 ∧ q.len = 4 ∧ q.data.length = q.len)))) ∧
    (∀ n, Config.switchGroup 0 = some n → n < 2 ^ 10 →
      ((eventState (.coll 5 0 1 [1, 2, 3, 4]) (BitVec.ofNat 10 n) 0 false).groupEntry 5).nrank.toNat = n) ∧
    (∀ p ∈ (eventState (.coll 5 0 1 []) 2 0 false).fabric.commands, p.2.work.entry? ≠ some 6) ∧
    (∃ p ∈ (eventState (.coll 5 0 1 []) 2 0 false).fabric.commands, p.2.work.entry? = some 5) ∧
    Tab.sorted (eventState (.coll 5 0 1 []) 2 0x3FFFF false).fabric.commands = true ∧
    (∀ trip ∈ [true, false], (eventState (.refused (some 5)) 2 0 trip).power.trip = trip) ∧ (eventState (.refused (some 5)) 2 0 false).fabric.fabid = some 4 ∧
    (5 : Nat) ≠ 4 ∧ (17 : Nat) < 18 ∧ (575 : Nat) < 576 := by
  refine ⟨by decide, ?_, by decide, by decide, by decide, by decide, by decide, by decide, by decide, by decide⟩
  intro n _ h
  simpa [eventState, fabState, State.groupEntry, Tab.getD, Tab.get] using h

/-! ### Compositing -/

def key0 : TileKey := { group := 0, frame := 0, tx := 0, ty := 0 }
def tile0 (deadline mode : Nat) (rank : Nat) : OpenTile :=
  { key := key0, deadline := deadline, mode := mode, dkind := 0, ddev := 0, dhead := 0, dpa := 0, parts := [(rank, [])] }
/-- A packet of tile 0 of frame 0 that is due at 9. -/
def packet0 : List Byte := [9] ++ List.replicate 31 0
def shut0 (dkind : Nat) (tx : Nat) : ClosedTile :=
  { key := { key0 with tx := tx }, dkind := dkind, ddev := 4, dhead := 1, dpa := 0x200000, missing := 0, closedAt := 0, data := List.replicate 3072 0
    pixels := none, sig := none }
def compState (tiles : List OpenTile) (closed : List TileKey) : State :=
  let s := fabState [] fun f => { f with table := [(5, group5)], commands := [(7, fcmd (.comp 5 packet0))], open_ := tiles, closed := closed
                                         fabid := some 4, shut := [shut0 0 0, shut0 1 0] }
  { s with status := { s.status with ports := 0x3FFFF }, heads := [(1, { (s.head 1) with image := some (0x100000, 0x10000, 16, 16, false) })] }

def pixel0 (va : Nat) : PixelWrite := { root := 0x10000, va := va, data := [1, 2, 3, 4] }
def pixelState (l : List PixelWrite) : State := fabState [] fun f => { f with shut := [{ shut0 1 0 with pixels := some l }] }
def pageB (d : Except Cause Page × State) : Bool := match d with
  | (.ok q, _) => q.comp.isNone
  | _ => false

/-- A contribution that is early or late, to a tile that is not open, agrees, has this rank already, does not agree, or
has been closed; moments that are too late, and before the last one; tiles that are due and that are not; tiles that land in
memory, and beyond a head's image; pixels whose page is there and is not, the last among them. -/
theorem wit_Compositing :
    (∀ c ∈ [([], []), ([tile0 9 0 1], []), ([tile0 9 0 0], []), ([tile0 8 0 1], []), ([], [key0])],
      let s := compState c.1 c.2
      Tab.get s.fabric.commands 7 = some (fcmd (.comp 5 packet0)) ∧ s.portReady 0 = true ∧ s.tsc.toNat ≤ (0 : DWord).toNat + 2 ∧
        (0 : DWord).toNat ≤ s.tsc.toNat + 2 ∧ s.clockOf (fcmd (.comp 5 packet0)).plane ≤ (0 : DWord).toNat ∧
        s.clockOf ((key0.tx + key0.ty) % 18) ≤ (0 : DWord).toNat) ∧
    (let s := (compState [tile0 0 0 1] []).modFabric fun f => { f with clocks := [(0, 5)] }
     ¬s.clockOf 0 ≤ (0 : DWord).toNat ∧ ¬(9 : DWord).toNat ≤ s.tsc.toNat + 2) ∧
    (let h := tileHeader packet0
     h.key = key0 ∧ h.deadline = 9 ∧ h.mode = 0 ∧ h.dkind = 0 ∧ h.ddev = 0 ∧ h.dpa = 0 ∧ h.rank = 0) ∧
    (∀ d ∈ [0, 9], (compState [tile0 d 0 1] []).fabric.open_[0]? = some (tile0 d 0 1)) ∧
    (∀ k ∈ [0, 1], let s := compState [] []
      s.fabric.shut[k]? = some (shut0 k 0) ∧ s.portReady (((shut0 k 0).key.tx + (shut0 k 0).key.ty) % 18) = true ∧
        s.fabric.fabid = some 4 ∧ (4 : BitVec 10).toNat = (shut0 k 0).ddev ∧ (shut0 k 0).dkind = k ∧ (shut0 k 0).pixels = none ∧
        s.compPages = [] ∧ (shut0 k 0).dpa + 3104 ≤ 0x6000000000 ∧ s.stacksReady (shut0 k 0).dpa 3104 = false ∧
        { s with status := { s.status with hbm := 0xFF } }.stacksReady (shut0 k 0).dpa 3104 = true) ∧
    (let s := fabState [] fun f => { f with shut := [shut0 1 1], fabid := some 4 }
     s.fabric.shut[0]? = some (shut0 1 1) ∧ 16 ≤ 16 * (shut0 1 1).key.tx) ∧
    (∀ l ∈ [[pixel0 0x100000, pixel0 0x100004], [pixel0 0x100000]], (pixelState l).fabric.shut[0]? = some { shut0 1 0 with pixels := some l } ∧
      l ≠ [] ∧ ∀ w ∈ l, pageB ((pixelState l).plainPage w.root w.va .write) = true) ∧
    pageB ((pixelState [pixel0 0x200000000]).plainPage 0x10000 0x200000000 .write) = false ∧ (shut0 1 0).sig = none ∧
    (∀ k tx, (shut0 k tx).data.length = 3072) ∧ ((compState [] []).head 1).image = some (0x100000, 0x10000, 16, 16, false) := by
  refine ⟨by decide, by decide, by decide, by decide, ?_, ⟨rfl, by decide⟩, by decide +kernel, by decide +kernel, rfl, fun _ _ => List.length_replicate, by decide⟩
  intro k hk
  simp only [List.mem_cons, List.not_mem_nil, or_false] at hk
  rcases hk with rfl | rfl <;> exact ⟨rfl, by decide, by decide, by decide, by decide, rfl, by decide, by decide, by decide, by decide⟩

/-- Whatever number of members the switches hold of group 0, an entry can have it, and name the group of the packet. -/
theorem wit_Compositing_group : ∀ n, Config.switchGroup 0 = some n → n < 2 ^ 10 →
    let s := (compState [] []).modFabric fun f => { f with table := [(5, { group5 with nrank := BitVec.ofNat 10 n })] }
    Config.switchGroup (s.groupEntry 5).gid.toNat = some (s.groupEntry 5).nrank.toNat ∧
      Config.switchGroup (tileHeader packet0).key.group = some n ∧ (tileHeader packet0).rank = 0 := by
  intro n h hn
  refine ⟨?_, h, by decide⟩
  show Config.switchGroup 0 = some (BitVec.ofNat 10 n).toNat
  rw [h, BitVec.toNat_ofNat, Nat.mod_eq_of_lt hn]

end Sys2Proof.Tests
end

