-- ==== Sys2Proof/Tests/Witness4.lean ====
section
/-!
SUPPORT. Witnesses for the statements about traversal, images and the raster pipeline.
-/
namespace Sys2Proof.Tests
open Sys2Proof.Machine

/-! ### Traversal -/

/-- A ray from the origin along x, in v4 to v15, with its root record at 0x100000 and its state record at 0 of slot 0. -/
def rayWords (w4 : Word) : List Word := [0, 0, 0, 0, w4, 0x186, 0, 0, 0, 0x3F800000, 0x100000, 0]
def rayRegs (w4 : Word) : Sparse Word := regs ((rayWords w4).zipIdx 4 |>.map fun p => (p.2, p.1))
/-- A handle of depth 1 (or 0) in v4 to v6, vertex 0 at the origin in v7 to v10, and its root pair in v12 and v13. -/
def handleRegs (depth : Word) : Sparse Word := regs [(6, depth), (12, 0x100000)]

theorem wit_TraversalWords :
    (Issues (state0 (rayRegs 0)) 3 (group0 (rayRegs 0)) ∧ (state0 (rayRegs 0)).blockOf (group0 (rayRegs 0)) = some block0 ∧
      (group0 (rayRegs 0)).wsize ≤ 128 ∧ LaneReady (group0 (rayRegs 0)) (3 :: (List.range 12).map (4 + ·) ++ (List.range 16).map (0 + ·)) ∧
      (∀ l, (group0 (rayRegs 0)).active.getLsbD l = true → (rayRec ((group0 (rayRegs 0)).regList l 4 12)).2 = true ∧
        ∃ k, block0.checkAt .scr 64 64 (rayRec ((group0 (rayRegs 0)).regList l 4 12)).1.addr = .ok k) ∧
      (state0 (rayRegs 0)).raysOf 0 + ((lanesOf (group0 (rayRegs 0)).active).filter fun l => !(group0 (rayRegs 0)).isHelper l).length ≤ 256) ∧
    (group0 []).active.getLsbD 0 = true ∧ (∀ k, ¬k < 0) ∧ (rayRec ((group0 (rayRegs 0x80000)).regList 0 4 12)).2 = false ∧
    (rayRec ((group0 (rayRegs 0x10000000)).regList 0 4 12)).2 = true ∧
    block0.checkAt .scr 64 64 (rayRec ((group0 (rayRegs 0x10000000)).regList 0 4 12)).1.addr = .error .detached ∧
    (∀ depth ∈ [(0x100 : Word), 0], Issues (state0 (handleRegs depth)) 3 (group0 (handleRegs depth)) ∧
      ((∀ l, (group0 (handleRegs depth)).active.getLsbD l = true →
        let h := fun j => (group0 (handleRegs depth)).reg l (4 + j)
        wbits (h 2) 31 13 = 0 ∧ 1 ≤ wbits (h 2) 12 8 ∧ wbits (h 2) 12 8 ≤ 24 ∧
          ((h 0).toNat + (h 1).toNat * 2 ^ 32 + wbits (h 2) 7 0 * 2 ^ 64) / 8 ^ wbits (h 2) 12 8 = 0 ∧ wbits (h 3) 31 4 = 0 ∧
          wbits ((group0 (handleRegs depth)).reg l 12) 5 0 = 0) ↔ depth = 0x100) ∧
      LaneReady (group0 (handleRegs depth)) ((List.range 7).map (4 + ·) ++ [12, 13] ++ (List.range 8).map (0 + ·))) := by
  refine ⟨⟨issues_of (by decide), by decide, by decide, ready_of (by decide), lanes_of ?_, by decide⟩, by decide, Nat.not_lt_zero, by decide, by decide,
    err_of (by decide), ?_⟩
  · intro l hl _
    refine ⟨?_, bankKey 0 .data 0, ok_of ?_⟩ <;> revert l <;> decide
  · intro depth hd
    simp only [List.mem_cons, List.not_mem_nil, or_false] at hd
    rcases hd with rfl | rfl
    · exact ⟨issues_of (by decide), ⟨fun _ => rfl, fun _ => lanes_of (by decide)⟩, ready_of (by decide)⟩
    · exact ⟨issues_of (by decide), ⟨fun h => absurd (h 0 (by decide)).2.1 (by decide), fun h => absurd h (by decide)⟩, ready_of (by decide)⟩

/-- A root record at 0x100000, its node at 0x100040 with one child, a leaf at 0x100080 with one vertex. -/
def treeMem : Memory :=
  Memory.writeBytes (Memory.writeBytes (Memory.writeBytes mem0 0x100000 (bytesOf 64 (2 ^ 104))) 0x100040
    (bytesOf 64 (8 + (1 + 2 ^ 8 + 2 ^ 16 + 2 ^ 36) * 2 ^ 32))) 0x100080 (bytesOf 128 32)

def treeState (r : Ray) : State := { state0 [] with mem := treeMem, rays := [(7, r)] }

/-- `gframe` of the leaf. -/
def frameWords0 : List Word := [0, 0, 0x100, 0x100000, 0]

/-- The leaf that a handle leads to, with a writable page. -/
def leafB (d : Found2) (ok : Leaf → Page → Nat → Place → State → Bool) : Bool := match d with
  | .leaf l page va p s1 => page.w && page.cmp == 0 && ok l page va p s1
  | _ => false
theorem leaf_of {d : Found2} {ok : Leaf → Page → Nat → Place → State → Bool} (h : leafB d ok = true) :
    ∃ l page va p s1, d = .leaf l page va p s1 ∧ page.w = true ∧ page.cmp = 0 ∧ ok l page va p s1 = true := by
  cases d with
  | leaf l page va p s1 =>
    simp only [leafB, Bool.and_eq_true, beq_iff_eq] at h
    exact ⟨l, page, va, p, s1, rfl, h.1.1, h.1.2, h.2⟩
  | fault => simp [leafB] at h

/-- A second walk finds the same leaf. -/
def againB (d : Found2) (l : Leaf) (page : Page) (va : Nat) (p : Place) : Bool := match d with
  | .leaf l' page' va' p' _ => decide (l' = l) && decide (page' = page) && va' == va && decide (p' = p)
  | _ => false
theorem again_of {d : Found2} {l : Leaf} {page : Page} {va : Nat} {p : Place} (h : againB d l page va p = true) :
    ∃ s2, d = .leaf l page va p s2 := by
  cases d with
  | leaf l' page' va' p' s2 =>
    simp only [againB, Bool.and_eq_true, decide_eq_true_eq, beq_iff_eq] at h
    obtain ⟨⟨⟨rfl, rfl⟩, rfl⟩, rfl⟩ := h
    exact ⟨s2, rfl⟩
  | fault => simp [againB] at h

/-- What the clauses of `gupd` ask of the leaf: the vertex exists or does not; it would lie inside or outside the frame;
it is exact or not. -/
def updOk (v at_ : Word) (proc inside exact : Bool) (l : Leaf) (p : Place) : Bool :=
  let r := fun (i : Nat) => (((nth (updWords v at_) (4 + i) 0).toNat : Int) * 2 ^ 176 - ((nth p.org i (0 : Nat) : Nat) : Int)) * 2 ^ nth p.sh i 0
  (l.proc || decide (l.nv ≤ v.toNat)) == proc &&
    ((List.range 3).all fun i => decide (0 ≤ r i) && decide (r i < 65536 * 2 ^ 192)) == inside &&
    ((List.range 3).all fun i => r i % (16 * 2 ^ 192) == 0) == exact

def fresh0 : Ray := ray0 .ray (rayWords 0) .fresh
def walker0 (j : Nat) : Walker :=
  { s := { treeState fresh0 with free := 1 }, t := freshTrail (rayRec (rayWords 0)).1, offer := none, left := if j = 0 then none else some j }

/-- The root node is read, and the ray passes none of its children. -/
def emptyB (root : Nat) (r : RayRec) (s : State) : Bool := match s.readRecord root r.root 64 with
  | .ok v _ s1 => match rootNode r.root v with
    | some a => match s1.readRecord root a 64 with
      | .ok v2 _ _ => match nodeKids a v2 with
        | some kids => (nodeList r r.frame kids).isEmpty
        | none => false
      | .fault _ _ => false
    | none => false
  | .fault _ _ => false

theorem walk_ends {root : Nat} {r : RayRec} {s : State} (h : emptyB root r s = true) (t : Trail) (left : Option Nat) (hl : left ≠ some 0) :
    ∃ w, walkRay root r none { s := s, t := t, offer := none, left := left } = .next w := by
  unfold emptyB at h
  split at h <;> try contradiction
  rename_i v p s1 h1
  split at h <;> try contradiction
  rename_i a h2
  split at h <;> try contradiction
  rename_i v2 p2 s2 h3
  split at h <;> try contradiction
  rename_i kids h4
  have h5 : nodeList r r.frame kids = [] := by simpa using h
  unfold walkRay
  rw [h1]
  simp only [h2]
  rw [visit]
  simp [h3, h4, h5, hl, walkKids]

theorem wit_ray_ends : ∀ j, ∃ w, walkRay 0x10000 (rayRec (rayWords 0)).1 none (walker0 j) = .next w := by
  have h : emptyB 0x10000 (rayRec (rayWords 0)).1 { treeState fresh0 with free := 1 } = true := by decide +kernel
  intro j
  refine walk_ends h _ _ ?_
  split <;> simp_all

theorem wit_frame_leaf : ∃ leaf page va p s1,
    walkHandle 0x10000 frameWords0 (treeState (ray0 .gframe frameWords0 .fresh)) = .leaf leaf page va p s1 := by
  have h : leafB (walkHandle 0x10000 frameWords0 (treeState (ray0 .gframe frameWords0 .fresh))) (fun _ _ _ _ _ => true) = true := by
    decide +kernel
  obtain ⟨l, page, va, p, s1, e, -⟩ := leaf_of h
  exact ⟨l, page, va, p, s1, e⟩

/-- `gupd` of a vertex that is absent, outside, inexact, and right. -/
theorem wit_upd_leaf : ∀ c ∈ [((1 : Word), (0 : Word), true, false, true), (0, 0, false, false, true), (0, 0x1000001, false, true, false),
      (0, 0x1000000, false, true, true)],
    ∃ leaf page va p s1, walkHandle 0x10000 (updWords c.1 c.2.1) (treeState (ray0 .gupd (updWords c.1 c.2.1) .fresh)) = .leaf leaf page va p s1 ∧
      page.w = true ∧ page.cmp = 0 ∧ updOk c.1 c.2.1 c.2.2.1 c.2.2.2.1 c.2.2.2.2 leaf p = true ∧
      ∃ s2, walkHandle 0x10000 (updWords c.1 c.2.1) s1 = .leaf leaf page va p s2 := by
  have h : ([((1 : Word), (0 : Word), true, false, true), (0, 0, false, false, true), (0, 0x1000001, false, true, false),
      (0, 0x1000000, false, true, true)].all fun c =>
      leafB (walkHandle 0x10000 (updWords c.1 c.2.1) (treeState (ray0 .gupd (updWords c.1 c.2.1) .fresh)))
        fun l page va p s1 => updOk c.1 c.2.1 c.2.2.1 c.2.2.2.1 c.2.2.2.2 l p &&
          againB (walkHandle 0x10000 (updWords c.1 c.2.1) s1) l page va p) = true := by decide +kernel
  intro c hc
  obtain ⟨l, page, va, p, s1, e, hw, hm, ho⟩ := leaf_of (List.all_eq_true.mp h c hc)
  simp only [Bool.and_eq_true] at ho
  exact ⟨l, page, va, p, s1, e, hw, hm, ho.1, again_of ho.2⟩

theorem wit_TraversalEvents :
    (let s := treeState (ray0 .ray (rayWords 0) (.tres 0))
     Tab.sorted s.rays = true ∧ Tab.get s.rays 7 = some (ray0 .ray (rayWords 0) (.tres 0)) ∧ s.isSaved 3 = false ∧ s.ord.wb = [] ∧
       s.ord.writes = [] ∧ s.sliceOps = [] ∧ s.portUnits = [] ∧ (∀ e ∈ s.rays, e.1 ≠ 7 → e.2.updates = false) ∧ s.errors = [] ∧
       (trailOf (ofBytes (s.readHome (bankKey 0 .data 0) 64))).kind ≠ 2) ∧
    Tab.get (treeState fresh0).rays 7 = some fresh0 ∧ (treeState fresh0).free = 0 ∧
    (let s := treeState (ray0 .gupd (updWords 0 0x1000000) .fresh)
     Tab.sorted s.rays = true ∧ ∀ e ∈ s.rays, e.1 ≠ 7 → e.2.updates = false) := by
  refine ⟨⟨rfl, rfl, ?_, rfl, rfl, rfl, rfl, ?_, rfl, ?_⟩, rfl, rfl, rfl, ?_⟩ <;> decide +kernel

/-! ### Images -/

/-- An image of 4 by 4 texels of 4 bytes at 0x100000 in v4 to v7, and a sampler of zeros. -/
def imgRegs (w5 : Word) : Sparse Word := regs [(4, 0x100000), (5, w5), (6, 0x40004)]
/-- The same image with the texel of every lane in v12: four in its first row, but lane 3 beyond it. -/
def texelRegs (w5 : Word) : Sparse Word :=
  Tab.put (Tab.put (Tab.put (imgRegs w5) (regKey 1 12) 1) (regKey 2 12) 2) (regKey 3 12) 4

def tapsB (s : State) (x : Group) (ts : Nat → List Tap) (ok : Nat → Bool) : Bool := (lanesOf x.active).all fun l => (ts l).all fun t => match t.va with
  | none => true
  | some va => ok va && (walkChoices s (s.rootOf x) va).all fun w => w.outcome va .read == .page (page0 va)

theorem taps_of {s : State} {x : Group} {ts : Nat → List Tap} {ok : Nat → Bool} (hc : s.compPages = []) (h : tapsB s x ts ok = true) :
    ∀ l ∈ lanesOf x.active, ∀ t ∈ ts l, ∀ va, t.va = some va →
      s.FindsWith (fun _ => False) (s.rootOf x) va .read (page0 va) ∧ ok va = true := by
  intro l hl t ht va hv
  have h1 := List.all_eq_true.mp (List.all_eq_true.mp h l hl) t ht
  simp only [hv, Bool.and_eq_true, List.all_eq_true, beq_iff_eq] at h1
  exact ⟨findsWith_of hc (fun _ h => h) h1.2, h1.1⟩

theorem wit_ImageWords :
    (let s := state0 (imgRegs 0x20000000)
     let x := group0 (imgRegs 0x20000000)
     let img := imgRec ((List.range 4).map fun j => x.uni (4 + j))
     let smp := smpRec ((List.range 4).map fun j => x.uni (8 + j))
     Issues s 3 x ∧ x.wsize ≤ 128 ∧ LaneReady x ((List.range 6).map (8 + ·) ++ (List.range 4).map (0 + ·)) ∧
       UniReads x ((List.range 8).map (4 + ·)) ∧ img.2 = true ∧ smp.2 = true ∧ smp.1.minLod ≤ min smp.1.maxLod (256 * img.1.lvl) ∧
       s.errors = [] ∧ s.sliceOps = [] ∧ s.rays = [] ∧
       ∀ form ∈ [SmpForm.quad, .deriv, .level], ∀ l ∈ lanesOf x.active,
         ∀ t ∈ tapsOf img.1 smp.1 (x.reg l 8) (x.reg l 9) (lodFor s x form img.1 smp.1 8 l), ∀ va, t.va = some va →
           s.FindsWith (fun _ => False) (s.rootOf x) va .read (page0 va) ∧ ((page0 va).fmt == 0 && (page0 va).cmp == 0) = true) ∧
    (imgRec [0x100000, 0x20000000, 0, 0]).2 = false ∧
    (let s := state0 (texelRegs 0x20000000)
     let x := group0 (texelRegs 0x20000000)
     let img := imgRec ((List.range 4).map fun j => x.uni (4 + j))
     Issues s 3 x ∧ LaneReady x (12 :: 13 :: (List.range 1).map (0 + ·)) ∧ UniReads x ((List.range 4).map (4 + ·)) ∧ img.2 = true ∧
       4 * 1 = img.1.bpp ∧ 4 * 2 ≠ img.1.bpp ∧ s.errors = [] ∧ s.sliceOps = [] ∧ s.rays = [] ∧
       (∀ l, l < 3 → wbits (x.reg l 12) 15 0 < img.1.width 0 ∧ wbits (x.reg l 12) 31 16 < img.1.height 0) ∧
       ¬wbits (x.reg 3 12) 15 0 < img.1.width 0 ∧
       ∀ l, l < 3 → ∀ k ∈ [AccessKind.read, .write],
         s.FindsWith (fun _ => False) (s.rootOf x) (img.1.texelVa 0 l 0) k (page0 (img.1.texelVa 0 l 0)) ∧
           (page0 (img.1.texelVa 0 l 0)).fmt = 0 ∧ (page0 (img.1.texelVa 0 l 0)).cmp = 0) := by
  refine ⟨⟨issues_of (by decide), by decide, ready_of (by decide), reads_of (by decide), by decide, by decide, by decide, rfl, rfl, rfl, ?_⟩,
    by decide, issues_of (by decide), ready_of (by decide), reads_of (by decide), by decide, by decide, by decide, rfl, rfl, rfl, by decide,
    by decide, ?_⟩
  · intro form hf
    refine taps_of (ok := fun va => (page0 va).fmt == 0 && (page0 va).cmp == 0) rfl ?_
    revert form; decide +kernel
  · have h : ∀ l, l < 3 → ∀ k ∈ [AccessKind.read, .write],
        let va := (imgRec ((List.range 4).map fun j => (group0 (texelRegs 0x20000000)).uni (4 + j))).1.texelVa 0 l 0
        (∀ w ∈ walkChoices (state0 (texelRegs 0x20000000)) ((state0 (texelRegs 0x20000000)).rootOf (group0 (texelRegs 0x20000000))) va,
          w.outcome va k = .page (page0 va)) ∧ (page0 va).fmt = 0 ∧ (page0 va).cmp = 0 := by decide +kernel
    exact fun l hl k hk => ⟨findsWith_of rfl (fun _ h => h) (h l hl k hk).1, (h l hl k hk).2⟩

/-! ### The raster pipeline -/

/-- A pass of 16 by 16 pixels of one batch, with one vertex and one primitive slot, and software queue 0. -/
def passWords : List Word :=
  [0, 0, 0, 0, 0, 0, 0, 0, 1, 1, 0, 0, 0, 1, 0, 0, 0, 0x3F800000, 0x100010, 0, 0x100, 1, 0, 0, 0x200000, 0, 0x300000] ++ List.replicate 37 0
def passMem : Memory := Memory.writeBytes mem0 0x100000 (bytesOfWords passWords)
def pass0 : Pass := newPass 0x100000 0x10000 1 passWords
def passState (r : Sparse Word) (m : Memory) (ps : Sparse Pass) (qs : Sparse Queue) : State :=
  { state0 r with mem := m, passes := ps, queues := qs }
/-- An emit of v0 with v8, its pass at v9 and v10. -/
def emitRegs (w4 lo hi : Word) : Sparse Word := regs [(4, w4), (9, lo), (10, hi)]
def pixelGroup (mine : Bool) : Group :=
  { group0 [] with pixels := if mine then (List.range 4).map fun k =>
      { index := k, x := k, y := 0, mask := 1, helper := false, seq := k, regs := [], shown := none } else [] }

theorem wit_RasterWords :
    (∀ r ∈ [emitRegs 0 0x100000 0, emitRegs 0x10000 0x100000 0, emitRegs 0 0x100000 0x100000, emitRegs 0 0x100040 0], ∀ ps ∈ [[], [(7, pass0)]],
      Issues (passState r passMem ps []) 3 (group0 r) ∧ LaneReady (group0 r) (8 :: (List.range 8).map (0 + ·)) ∧ UniReads (group0 r) [9, 10]) ∧
    (let x := group0 (emitRegs 0 0x100000 0)
     let s := passState (emitRegs 0 0x100000 0) passMem [(7, pass0)] []
     (∀ l ∈ (lanesOf x.active).filter fun l => !x.isHelper l, wbits (x.reg l 4) 31 16 = 0 ∧ wbits (x.reg l 0) 31 24 = 0) ∧
       wbits (x.uni 10) 31 20 = 0 ∧ s.passAt (s.rootOf x) 0x100000 = some (7, pass0) ∧ pass0.launch = s.launchOf x ∧ x.rasterPass = none ∧
       s.batchNumber x < (passRec pass0.record).1.nbatch ∧ pass0.counts.length = 5 ∧ ∀ k, k < 5 → nth pass0.counts k 0 < 2 ^ 32) ∧
    (let x := group0 (emitRegs 0x10000 0 0)
     0 ∈ (lanesOf x.active).filter (fun l => !x.isHelper l) ∧ wbits (x.reg 0 4) 31 16 ≠ 0) ∧
    wbits ((group0 (emitRegs 0 0x100000 0x100000)).uni 10) 31 20 ≠ 0 ∧ 0x100040 % 256 ≠ 0 ∧
    (let s := passState (emitRegs 0 0x100000 0) passMem [(7, { pass0 with launch := 5 })] []
     ({ pass0 with launch := 5 } : Pass).launch ≠ s.launchOf (group0 (emitRegs 0 0x100000 0))) ∧
    (let s := passState (emitRegs 0 0x100000 0) passMem [] []
     let x := group0 (emitRegs 0 0x100000 0)
     let ws := wordsOfBytes (s.loadBytes x.core (some 3) none (page0 0x100000).key 256).1
     s.passAt (s.rootOf x) 0x100000 = none ∧ 0x100000 % 256 = 0 ∧ s.passes.length < 64 ∧
       s.Finds (s.rootOf x) 0x100000 .read (page0 0x100000) ∧ (page0 0x100000).fmt = 0 ∧ (page0 0x100000).cmp = 0 ∧ s.errors = [] ∧
       s.sliceOps = [] ∧ s.rays = [] ∧ (passRec ws).2 = true ∧ nth ws 32 0 = 0 ∧ nth ws 33 0 = 0 ∧ s.batchNumber x < (passRec ws).1.nbatch) ∧
    (let s := passState (emitRegs 0 0x100000 0) mem0 [] []
     (passRec (wordsOfBytes (s.loadBytes 0 (some 3) none (page0 0x100000).key 256).1)).2 = false) ∧
    (∀ mine ∈ [true, false], let x := pixelGroup mine
      Issues { state0 [] with groups := [(3, x)] } 3 x ∧ LaneReady x (8 :: (List.range 4).map (0 + ·)) ∧
        ((∀ l, x.active.getLsbD l = true → ∃ q ∈ x.pixels, q.index = x.width * x.num + l) ↔ mine = true)) := by
  refine ⟨?_, ⟨by decide, by decide, by decide, by decide, rfl, by decide +kernel, by decide, by decide⟩, by decide, by decide, by decide,
    by decide, ⟨by decide, by decide, by decide, by unfold State.Finds; decide +kernel, by decide, by decide, rfl, rfl, rfl, by decide +kernel,
    by decide +kernel, by decide +kernel, by decide +kernel⟩, by decide +kernel, ?_⟩
  · intro r hr ps hp
    simp only [List.mem_cons, List.not_mem_nil, or_false] at hr hp
    rcases hr with rfl | rfl | rfl | rfl <;> rcases hp with rfl | rfl <;>
      exact ⟨issues_of (by decide), ready_of (by decide), reads_of (by decide)⟩
  · intro mine hm
    simp only [List.mem_cons, List.not_mem_nil, or_false] at hm
    rcases hm with rfl | rfl
    · exact ⟨issues_of (by decide), ready_of (by decide), fun _ => rfl, fun _ => lanes_of (by decide)⟩
    · exact ⟨issues_of (by decide), ready_of (by decide), fun h => absurd (h 0 (by decide)) (by decide), fun h => absurd h (by decide)⟩

/-- A pass whose batches are closed and whose pixel launch is known; the tile that was read; and the pass without its tile. -/
def closed0 : Pass := { pass0 with closed := 1, pix := some launch0.record }
def tile1 (finished : Bool) : PassTile := { bytes := List.replicate 2048 7, launch := none, finished := finished }
def tiled0 (finished : Bool) : Pass := { closed0 with tiles := [(0, tile1 finished)] }
/-- The pass with its software queue enabled: one of its records waits, or its last batch has closed. -/
def soft0 : Pass := { newPass 0x100000 0x10000 1 (passWords.set 23 0x80000000) with soft := [List.replicate 64 1], softUsed := true }
def last0 (flushed : Bool) (closed : Nat) : Pass := { soft0 with soft := [], flushed := flushed, closed := closed }

def piecesB (d : Except (Cause × Nat) (List (Page × Nat)) × State) (ok : List (Page × Nat) → State → Bool) : Bool := match d with
  | (.ok l, s) => ok l s
  | _ => false
theorem pieces_of {d : Except (Cause × Nat) (List (Page × Nat)) × State} {ok : List (Page × Nat) → State → Bool} (h : piecesB d ok = true) :
    ∃ l s, d = (.ok l, s) ∧ ok l s = true := by
  rcases d with ⟨_ | l, s⟩
  · simp [piecesB] at h
  · exact ⟨l, s, rfl, h⟩

theorem wit_tile_pieces : ∃ vis s1 tgt s2,
    findPieces 0x10000 .write (pieces 0x300000 2048) (passState [] mem0 [(7, closed0)] []) = (.ok vis, s1) ∧
    findPieces 0x10000 .read (pieces 0x200000 2048) s1 = (.ok tgt, s2) ∧ (s2.readPieces vis).isSome = true ∧ (s2.readPieces tgt).isSome = true ∧
    (vis.all fun q => q.1.cmp == 0) = true := by
  have h : piecesB (findPieces 0x10000 .write (pieces 0x300000 2048) (passState [] mem0 [(7, closed0)] [])) (fun vis s1 =>
      piecesB (findPieces 0x10000 .read (pieces 0x200000 2048) s1) (fun tgt s2 =>
        (s2.readPieces vis).isSome && ((s2.readPieces tgt).isSome && vis.all fun q => q.1.cmp == 0))) = true := by decide +kernel
  obtain ⟨vis, s1, e1, h1⟩ := pieces_of h
  obtain ⟨tgt, s2, e2, h2⟩ := pieces_of h1
  simp only [Bool.and_eq_true] at h2
  exact ⟨vis, s1, tgt, s2, e1, e2, h2.1, h2.2.1, h2.2.2⟩

theorem wit_finish_pieces : ∃ q s1, findPieces 0x10000 .write (pieces 0x200000 2048) (passState [] mem0 [(7, tiled0 false)] []) =
    (.ok [(q, 2048)], s1) ∧ q.cmp = 0 := by
  have h : piecesB (findPieces 0x10000 .write (pieces 0x200000 2048) (passState [] mem0 [(7, tiled0 false)] [])) (fun l _ =>
      l == [(page0 0x200000, 2048)] && (page0 0x200000).cmp == 0) = true := by decide +kernel
  obtain ⟨l, s1, e, h1⟩ := pieces_of h
  simp only [Bool.and_eq_true, beq_iff_eq] at h1
  exact ⟨page0 0x200000, s1, h1.1 ▸ e, h1.2⟩

theorem wit_RasterEvents :
    (let r := (passRec passWords).1
     r.vis = 0x300000 ∧ r.tgt = 0x200000 ∧ r.bpp = 8 ∧ r.samples = 1 ∧ r.tiles = 1 ∧ r.tileBytes r.bpp = 2048 ∧ r.siga = 0 ∧ r.swq = 0) ∧
    soft0.soft = [List.replicate 64 1] ∧ soft0.status = 0 ∧
    (passState [] mem0 [(7, soft0)] []).softQueue soft0 = false ∧
    (∀ f ∈ [(true, 1), (false, 0), (false, 1)], let s := passState [] mem0 [(7, last0 f.1 f.2)] [(0, { queue0 0 with binding := 1 })]
      s.softQueue (last0 f.1 f.2) = true ∧ Tab.get s.queues 0 = some { queue0 0 with binding := 1 } ∧
        (passRec (last0 f.1 f.2).record).1.nbatch = 1 ∧ (queue0 0).head = (queue0 0).tail) ∧
    (∀ c ∈ [(0, 8, false), (1, 8, false), (4, 8, true)], let q : Queue := { queue0 c.1 with batch := c.2.1, binding := 1 }
      let s := passState [] mem0 [(7, soft0)] [(0, q)]
      s.softQueue soft0 = true ∧ Tab.get s.passes 7 = some soft0 ∧ Tab.get s.queues 0 = some q ∧ q.full = c.2.2 ∧ q.armed = none ∧
        (q.tail + 1 - q.head).toNat < q.batch ∧ (c.2.2 = false → ∀ w ∈ walkChoices s q.root (q.recordVa q.tail),
          w.outcome (q.recordVa q.tail) .write = .page (page0 (q.recordVa q.tail)) ∧ (page0 (q.recordVa q.tail)).cmp = 0)) ∧
    (passState [] mem0 [(7, closed0)] []).passReady 7 closed0 = true ∧ (passState [] mem0 [(7, pass0)] []).passReady 7 pass0 = false ∧
    Tab.get closed0.tiles 0 = none ∧ closed0.pix = some launch0.record ∧
    (passState [] mem0 [(7, tiled0 false)] []).tileEnded (tile1 false) = true ∧ (tile1 true).finished = true ∧ (tiled0 false).stop = none ∧
    (tiled0 false).status = 0 ∧ (∀ f, (tile1 f).bytes.length = 2048) ∧
    (let s := passState [] mem0 [(7, tiled0 true)] []
     (tiled0 true).stop = none ∧ (tiled0 true).closed = 1 ∧ (∀ t ∈ (tiled0 true).tiles, t.2.finished = true) ∧ (tiled0 true).tiles.length = 1 ∧
       s.sliceOps = [] ∧ (∀ l ∈ s.launches, l.2.pass.map Prod.fst ≠ some 7) ∧ s.Finds 0x10000 0x100000 .write (page0 0x100000) ∧
       (tiled0 true).counts.length = 5 ∧ s.Quiet) ∧
    (∃ t ∈ (tiled0 false).tiles, t.2.finished = false) := by
  refine ⟨by decide +kernel, rfl, rfl, by decide +kernel, by decide +kernel, by decide +kernel, by decide +kernel, by decide +kernel, rfl, rfl, rfl,
    rfl, rfl, rfl, fun _ => List.length_replicate, ⟨rfl, rfl, ?_, rfl, rfl, by decide +kernel, ?_, by decide +kernel, rfl, rfl, rfl, rfl, by decide⟩, _, List.mem_singleton.mpr rfl, rfl⟩
  · intro t ht
    rw [List.mem_singleton.mp ht]; rfl
  · unfold State.Finds; decide +kernel

end Sys2Proof.Tests
end

