-- ==== Sys2Proof/Tests/Witness5.lean ====
section
/-!
SUPPORT. Witnesses for the statements about command rings, launches, migrations, moves and pre-emption.
-/
namespace Sys2Proof.Tests
open Sys2Proof.Machine

/-! ### Command rings -/

/-- Ring 3 at 0x400000 with one command; the launch record at 0x500000. -/
def ring3 : Ring :=
  { base := 0x400000, host := false, baseH := 0, en := true, err := false, log2n := 4, wptr := 1, rptr := 0, done := 0, late := 0 }
/-- A record of eight fibres with 16 registers, at CODE, with its map of zeros at 0x600000. -/
def recordBytes (code : Nat) : List Byte := bytesOf 32 (code + 0x600000 * 2 ^ 64 + 2 ^ 128 + 4 * 2 ^ 192) ++ bytesOf 32 8 ++ bytesOf 32 0
def command (ws : List Nat) : Nat := ws.zipIdx.foldl (fun v p => v + p.1 * 2 ^ (64 * p.2)) 0
def cmdState (code : Nat) (ws : List Nat) : State :=
  { state0 [] with
    mem := Memory.writeBytes (Memory.writeBytes mem0 0x400000 (bytesOf 64 (command ws))) 0x500000 (recordBytes code)
    rings := [(3, ring3)], status := { (state0 []).status with fe := true } }

def commandsB (s : State) (ring op v : Nat) : Bool :=
  decide (ring < 64) && s.ringServed (s.ringAt ring) && (match s.commandBytes (s.ringAt ring) with
    | some bs => v == ofBytes bs
    | none => false) && field v 7 0 == op && !commandBad v && !s.ringWaits ring (s.ringAt ring) v

theorem commands_of {s : State} {ring op v : Nat} (h : commandsB s ring op v = true) : s.Commands ring op v := by
  simp only [commandsB, Bool.and_eq_true, decide_eq_true_eq, beq_iff_eq, Bool.not_eq_true'] at h
  obtain ⟨⟨⟨⟨⟨h1, h2⟩, h3⟩, h4⟩, h5⟩, h6⟩ := h
  refine ⟨h1, h2, ?_, h4, h5, h6⟩
  split at h3
  · exact ⟨_, by assumption, by simpa using h3⟩
  · simp at h3

def nopC : List Nat := [7]
def signalC (host : Nat) : List Nat := [6, 0x700000 + host * 2 ^ 63, 5]
def invalC : List Nat := [4, 1, 0x100000, 0x10000]
def qcfgC (lg : Nat) : List Nat := [2, 1, 0x100000, 1, 0, lg + 2 ^ 16]
def qflushC : List Nat := [3, 1]
def launchC : List Nat := [1, 0x500000, 0, 0]
def migrateC (root : Nat) : List Nat := [5, root, 0x100000, 0x100000000]
def moveC (rec e : Nat) : List Nat := [8, rec, 0, e]

/-- A command of each kind is served. -/
theorem wit_commands : ∀ c ∈ [(7, nopC), (6, signalC 0), (6, signalC 1), (4, invalC), (2, qcfgC 4), (2, qcfgC 3), (3, qflushC), (1, launchC),
    (5, migrateC 1), (5, migrateC 8), (8, moveC 0 1), (8, moveC 1 1), (8, moveC 0 0x400)],
    (cmdState 0x1000 c.2).Commands 3 c.1 (command c.2) ∧ (cmdState 0x1000 c.2).passes = [] ∧ (cmdState 0x1000 c.2).compPages = [] := by
  have h : ∀ c ∈ [(7, nopC), (6, signalC 0), (6, signalC 1), (4, invalC), (2, qcfgC 4), (2, qcfgC 3), (3, qflushC), (1, launchC),
      (5, migrateC 1), (5, migrateC 8), (8, moveC 0 1), (8, moveC 1 1), (8, moveC 0 0x400)],
      commandsB (cmdState 0x1000 c.2) 3 c.1 (command c.2) = true := by decide +kernel
  exact fun c hc => ⟨commands_of (h c hc), rfl, rfl⟩

def boundQueue : Queue := { queue0 1 with binding := 0x500000, batch := 8 }

theorem wit_RingCommands :
    (3 : Nat) < 64 ∧ (∀ trip ∈ [true, false], ({ state0 [] with power := { (state0 []).power with trip := trip } } : State).power.trip = trip) ∧ (∀ e ∈ [true, false], ({ ring3 with err := e } : Ring).err = e) ∧
    (let s := cmdState 0x1000 [7 + 2 ^ 9]
     s.ringServed (s.ringAt 3) = true ∧ s.commandBytes (s.ringAt 3) = some (bytesOf 64 (7 + 2 ^ 9)) ∧
       field (ofBytes (bytesOf 64 (7 + 2 ^ 9))) 7 0 = 7 ∧ s.ringWaits 3 (s.ringAt 3) (7 + 2 ^ 9) = false ∧ commandBad (7 + 2 ^ 9) = true ∧
       (7 + 2 ^ 9).testBit 9 = true) ∧
    (let s := { cmdState 0x1000 [7 + 2 ^ 8] with rings := [(3, { ring3 with late := 1 })] }
     s.ringServed (s.ringAt 3) = true ∧ s.commandBytes (s.ringAt 3) = some (bytesOf 64 (7 + 2 ^ 8)) ∧
       s.ringWaits 3 (s.ringAt 3) (ofBytes (bytesOf 64 (7 + 2 ^ 8))) = true) ∧
    (state0 []).status.fe = false ∧ ¬0x6000000000 < 0x700000 + 8 ∧ 0x6000000000 < 0x5FFFFFFFF9 + 8 ∧
    cmdWord (command (qcfgC 4)) 4 = 0 ∧ field (cmdWord (command (qcfgC 4)) 5) 4 0 = 4 ∧ field (cmdWord (command (qcfgC 3)) 5) 4 0 = 3 ∧
    Tab.get (cmdState 0x1000 (qcfgC 4)).queues 1 = none ∧
    (let s := { cmdState 0x1000 qflushC with queues := [(1, boundQueue)] }
     s.Commands 3 3 (command qflushC) ∧ Tab.get s.queues 1 = some boundQueue ∧ boundQueue.binding ≠ 0 ∧ boundQueue.head ≠ boundQueue.tail ∧
       (boundQueue.tail - boundQueue.head).toNat < boundQueue.batch) := by
  refine ⟨by decide, by decide, by decide, by decide +kernel, by decide +kernel, by decide, by decide, by decide, by decide +kernel,
    by decide +kernel, by decide +kernel, by decide +kernel, commands_of (by decide +kernel), rfl, by decide, by decide, by decide⟩

/-! ### Launches, migrations, moves -/

/-- The record is read; at 0x1001 its CODE is not aligned, and at 0x1000 the map is read and every block has its place. -/
theorem wit_record : ∀ code ∈ [0x1000, 0x1001], (cmdState code launchC).readPhys false 0x500000 96 = some (recordBytes code) := by
  decide +kernel

def mapB (d : Option (List Word) × State) : Bool := match d with
  | (some m, _) => m == [0]
  | _ => false

theorem wit_checked : (∃ c s1, (cmdState 0x1001 launchC).checkLaunch 0x500000 0 false = (c, s1) ∧ c.reason ≠ 0) ∧
    ∃ c s1, (cmdState 0x1000 launchC).checkLaunch 0x500000 0 false = (c, s1) ∧ c.reason = 0 ∧ c.map = [0] := by
  have bad : recordOk (recordBytes 0x1001) = false := by decide +kernel
  have good : recordOk (recordBytes 0x1000) = true := by decide +kernel
  have levels : levelsOk (launchRec (recordBytes 0x1000)) 0 = true := by decide +kernel
  have fits : mapReason (launchRec (recordBytes 0x1000)) [0] = (0, 0) := by decide +kernel
  have map : mapB (readMap (launchRec (recordBytes 0x1000)).root (launchRec (recordBytes 0x1000)).map
      (launchRec (recordBytes 0x1000)).blockCount 0 (cmdState 0x1000 launchC)) = true := by decide +kernel
  constructor
  · have e : (cmdState 0x1001 launchC).checkLaunch 0x500000 0 false =
        ({ record := launchRec (recordBytes 0x1001), map := [], reason := 1, place := 0, lost := none }, cmdState 0x1001 launchC) := by
      unfold State.checkLaunch
      rw [wit_record 0x1001 (by decide)]
      simp only [bad]
      rfl
    exact ⟨_, _, e, Nat.one_ne_zero⟩
  · cases h : readMap (launchRec (recordBytes 0x1000)).root (launchRec (recordBytes 0x1000)).map
        (launchRec (recordBytes 0x1000)).blockCount 0 (cmdState 0x1000 launchC) with
    | mk m s1 =>
      rw [h] at map
      cases m with
      | none => simp [mapB] at map
      | some m =>
        simp only [mapB, beq_iff_eq] at map
        subst map
        have e : (cmdState 0x1000 launchC).checkLaunch 0x500000 0 false =
            ({ record := launchRec (recordBytes 0x1000), map := [0], reason := 0, place := 0, lost := none }, s1) := by
          unfold State.checkLaunch
          rw [wit_record 0x1000 (by decide)]
          simp only [good, levels, h, fits]
          rfl
        exact ⟨_, _, e, rfl, rfl⟩

def migration0 : Migration := { ring := 3, root := 0x10000, va := 0x100000, pa := 0x100000000, host := false }

theorem wit_LaunchMigrateMove :
    cmdWord (command launchC) 1 = 0x500000 ∧ field (cmdWord (command launchC) 3) 15 0 = 0 ∧
    (cmdState 0x1001 launchC).Commands 3 1 (command launchC) ∧ (cmdState 0x1000 (migrateC 1)).migrations = [] ∧
    leafAt (cmdState 0x1000 (migrateC 1)) (cmdWord (command (migrateC 1)) 2 % 2 ^ 52) 4 0 (rootOperand (cmdWord (command (migrateC 1)) 1)) =
      some (1, 0x20000) ∧
    leafAt (cmdState 0x1000 (migrateC 8)) (cmdWord (command (migrateC 8)) 2 % 2 ^ 52) 4 0 (rootOperand (cmdWord (command (migrateC 8)) 1)) = none ∧
    (let s := { cmdState 0x1000 nopC with migrations := [migration0] }
     s.migrations.find? (fun m => m.ring == 3) = some migration0 ∧ Tab.get s.rings 3 = some ring3 ∧ leafAt s 0x100000 4 0 0x10000 = some (1, 0x20000) ∧
       s.memOk = true ∧ s.Quiet ∧ s.compPages = [] ∧ s.passes = [] ∧
       (let src := physKey ((ofBytes (s.readHome 0x20000 8)).testBit 16) (entryPa (ofBytes (s.readHome 0x20000 8)))
        let dst := physKey false 0x100000000
        0x100000000 + levelSize 1 ≤ 0x6000000000 ∧ src + levelSize 1 ≤ dst ∧ 0x20000 + 8 ≤ dst)) ∧
    (let s := { cmdState 0x1000 nopC with
       mem := Memory.writeBytes mem0 0x20000 (bytesOf 8 (7 + 2 ^ 12)), migrations := [{ migration0 with host := true }] }
     leafAt s 0x100000 4 0 0x10000 = some (1, 0x20000) ∧ s.memOk = true ∧ s.Quiet ∧ s.compPages = [] ∧ s.passes = [] ∧
       field (ofBytes (s.readHome 0x20000 8)) 14 12 ≠ 0 ∧
       physKey ((ofBytes (s.readHome 0x20000 8)).testBit 16) (entryPa (ofBytes (s.readHome 0x20000 8))) + levelSize 1 ≤
         physKey true 0x100000000 ∧ 0x20000 + 8 ≤ physKey true 0x100000000) ∧
    (let s := { cmdState 0x1000 (moveC 0 1) with launches := [(1, { launch0 with ring := some 3 })] }
     s.Commands 3 8 (command (moveC 0 1)) ∧
       s.launches.find? (fun l => l.2.ring.isSome && l.2.recPa == 0 && decide (0 < l.2.left)) = some (1, { launch0 with ring := some 3 }) ∧
       s.launches.find? (fun l => l.2.ring.isSome && l.2.recPa == 1 && decide (0 < l.2.left)) = none ∧
       s.blocks.find? (fun b => b.2.launch == 1 && b.2.num == field (cmdWord (command (moveC 0 1)) 2) 31 0) = some (2, block0) ∧
       Tab.get s.blocks 2 = some block0 ∧ moveEntryOk launch0.record launch0.map 0 1 = true ∧ fitsEmpty launch0.record 1 = true ∧
       moveEntryOk launch0.record launch0.map 0 0x400 = false ∧ block0.moveTo = none ∧ block0.moveRing = none) ∧
    ({ block0 with moveTo := some (1, 3) } : Block).moveTo.isSome = true := by
  refine ⟨by decide +kernel, by decide +kernel, commands_of (by decide +kernel), rfl, by decide +kernel, by decide +kernel,
    ⟨rfl, rfl, by decide +kernel, by decide +kernel, ⟨rfl, rfl, rfl, rfl, by decide⟩, rfl, rfl, by decide +kernel, by decide +kernel, by decide +kernel⟩,
    ⟨by decide +kernel, by decide +kernel, ⟨rfl, rfl, rfl, rfl, by decide⟩, rfl, rfl, by decide +kernel, by decide +kernel, by decide +kernel⟩,
    ⟨commands_of (by decide +kernel), rfl, rfl, by decide +kernel, rfl, by decide +kernel, by decide +kernel, by decide +kernel, rfl, rfl⟩, rfl⟩

/-! ### Blocks start, launches end -/

/-- A launch of that record. -/
def launch8 : Launch := { launch0 with record := { launchRec (recordBytes 0x1000) with ra := 1 } }


/-- Launch 1 with its block 2 on the wait list of core 0; a pool of 16 MiB at 0x10000000, or a cluster that is not ready. -/
def waitState (l : Launch) (ready : Bool) : State :=
  { state0 [] with
    launches := [(1, { l with first := 2 })], blocks := [(2, waitingBlock 1 0 0)], groups := [], bankState := []
    status := { (state0 []).status with clusters := if ready then 1 else 0 }
    log := { (state0 []).log with saveBase := 0x10000000, saveBaseH := 0, saveLen := 0x100 } }
def gang0 (nowait : Bool) : Launch := { launch8 with gang := true, record := { launch8.record with nowait := nowait } }
def ended0 (comp : Nat) (lost : Option Cause) : Launch := { launch8 with left := 0, comp := comp, noRoot := lost }

theorem wit_LaunchEvents :
    (∀ ready ∈ [true, false], let s := waitState launch8 ready
      s.block? 2 = some (waitingBlock 1 0 0) ∧ Tab.get s.launches 1 = some { launch8 with first := 2 } ∧ launch8.gang = false ∧
        (s.reserve 2 (waitingBlock 1 0 0) (s.firstOn 2 (waitingBlock 1 0 0))).isSome = ready ∧ s.groups = []) ∧
    (∀ c ∈ [(true, true), (false, true), (false, false)], let l := { gang0 c.2 with first := 2 }
      let s := waitState (gang0 c.2) c.1
      Tab.get s.launches 1 = some l ∧ l.gang = true ∧ s.earlierGangs 1 l = [] ∧ (reserveAll l.blockIds s).isSome = c.1 ∧ l.record.nowait = c.2) ∧
    (∀ c ∈ [(0, none), (0x100000, some Cause.protect), (0x100000, none)], let l := { ended0 c.1 c.2 with first := 2 }
      let s := { waitState (ended0 c.1 c.2) true with blocks := [] }
      Tab.get s.launches 1 = some l ∧ l.left = 0 ∧ l.word = .due ∧ s.launchBusy l = false ∧ l.flush = [] ∧ l.comp = c.1 ∧ l.noRoot = c.2 ∧
        ∀ w ∈ walkChoices s l.record.root 0x100000, w.outcome 0x100000 .write = .page (page0 0x100000)) := by
  refine ⟨?_, ?_, ?_⟩ <;> decide +kernel

/-! ### Pre-emption -/

/-- Block 2 of launch 1 (class 2) runs on core 0; block 4 of launch 5 (class 0) waits for it, its head due soon, with
all banks or none of them free. -/
def preState (deadline : DWord) : State :=
  let l : Launch := { launch8 with record := { launch8.record with cls := 2 } }
  let w : Launch := { launch8 with record := { launch8.record with nscr := 1 } }
  { state0 [] with
    launches := [(1, l), (5, w)], blocks := [(2, block0), (4, waitingBlock 5 0 0)]
    heads := [(0, { (state0 []).head 0 with en := true, deadline := deadline })] }
def stopping0 : Block := { block0 with phase := .stopping }
def saveState0 (b : Block) : State := { state0 [] with launches := [(1, launch8)], blocks := [(2, b)] }
def saved0 : Block := { block0 with phase := .saved, seats := [], groups := [3], saved := [(3, group0 [])] }
/-- The saved block and its area, whose group has the right CRC or a wrong one. -/
def restoreState (good : Bool) : State :=
  let s := { state0 [] with launches := [(1, launch8)], blocks := [(2, saved0)], groups := [], status := { (state0 []).status with clusters := 1 } }
  let k := privateArea saved0 (group0 []) + 504
  { s with mem := Memory.writeBytes s.mem k (bytesOf 8
      ((crc64 (s.readHome (privateArea saved0 (group0 [])) 504)).toNat ^^^ (if good then 0 else 1))) }

/-- The area of the saved group holds the right CRC, or a wrong one. -/
theorem wit_crc (good : Bool) : (restoreState good).crcOk saved0 (group0 []) = good := by
  let k := privateArea saved0 (group0 [])
  let m := (state0 []).mem
  let c := crc64 (Memory.readBytes m k 504)
  let v := c.toNat ^^^ (if good then 0 else 1)
  have hv : v < 2 ^ (8 * 8) := Nat.xor_lt_two_pow c.isLt (by cases good <;> decide)
  have h1 : Memory.readBytes (Memory.writeBytes m (k + 504) (bytesOf 8 v)) (k + 504) 8 = bytesOf 8 v := by
    have := Memory.readBytes_writeBytes m (k + 504) (bytesOf 8 v)
    rwa [bytesOf_length] at this
  have h2 : Memory.readBytes (Memory.writeBytes m (k + 504) (bytesOf 8 v)) k 504 = Memory.readBytes m k 504 :=
    Memory.readBytes_writeBytes_apart _ _ _ (Or.inl (Nat.le_refl _))
  show (ofBytes (Memory.readBytes (Memory.writeBytes m (k + 504) (bytesOf 8 v)) (k + 504) 8) ==
    (crc64 (Memory.readBytes (Memory.writeBytes m (k + 504) (bytesOf 8 v)) k 504)).toNat) = good
  rw [h1, h2, ofBytes_bytesOf 8 hv]
  show ((c.toNat ^^^ (if good then 0 else 1)) == c.toNat) = good
  generalize c.toNat = n
  cases good
  · have : n ^^^ 1 ≠ n := fun e => by
      have := congrArg (fun j => n ^^^ j) e
      simp [← Nat.xor_assoc] at this
    simp [this]
  · simp

theorem wit_Preemption :
    (let s := preState 100
     s.block? 4 = some (waitingBlock 5 0 0) ∧ s.block? 2 = some block0 ∧ (waitingBlock 5 0 0).phase = .waiting ∧
       (s.head 0).en = true ∧ (s.head 0).deadline.toNat ≤ s.tsc.toNat + 300000 ∧ s.tsc.toNat < (s.head 0).deadline.toNat ∧
       s.victims (waitingBlock 5 0 0) = [(2, block0)] ∧ s.yieldsBefore block0 block0 = false ∧ s.willFit 4 (waitingBlock 5 0 0) = false) ∧
    ¬(preState 0).tsc.toNat < ((preState 0).head 0).deadline.toNat ∧
    (let s := saveState0 stopping0
     s.block? 2 = some stopping0 ∧ Tab.get s.launches 1 = some launch8 ∧ s.blockStopped 2 = true ∧ s.savedFirst 2 stopping0 = false ∧
       stopping0.reserved = [] ∧ stopping0.cvs = [] ∧ s.banksNeeded stopping0 = 0 ∧ s.compPages = [] ∧ s.rays = [] ∧ s.copies = [] ∧
       ((s.groups.filter fun p => p.2.block == 2).map fun p => (p.1, p.2.atBwait)) = [(3, group0 [])] ∧ (group0 []).num < launch8.record.blockGroups ∧
       Tab.sorted (group0 []).fibres = true) ∧ (saveState0 stopping0).Quiet ∧
    (∀ good ∈ [true, false], let s := restoreState good
      s.block? 2 = some saved0 ∧ Tab.get s.launches 1 = some launch8 ∧ saved0.images = [] ∧ saved0.moveTo = none ∧ saved0.newBanks = [] ∧
        saved0.arrivals = [] ∧ s.compPages = [] ∧ s.copies = [] ∧ saved0.saved = [(3, group0 [])] ∧
        ∃ fit ∈ (s.restorePlaces 2 saved0 launch8).toList, s.slotsForReissue 2 fit = true) := by
  refine ⟨?_, ?_, ?_, ⟨rfl, rfl, rfl, rfl, by decide⟩, ?_⟩ <;> decide +kernel

end Sys2Proof.Tests
end

