-- ==== Sys2Proof/Tests/Witness6.lean ====
section
/-!
SUPPORT. Witnesses for the statements about harts, the host, heads, power and boot, and results and faults on their way.
-/
namespace Sys2Proof.Tests
open Sys2Proof.Machine

/-! ### Harts -/

/-- Hart 0 with a ring of one command, with everything ready or nothing. -/
def fetchState (r : Ring) (ready : Bool) : State :=
  { hartState 3 0 with
    rings := [(3, r)]
    status := { (hartState 3 0).status with fe := ready, cxl := ready, hbm := if ready then BitVec.allOnes 8 else 0 } }

/-- The operands that the clauses of the harts' instructions tell apart, in x11 and x12. -/
theorem wit_HartWords : (∀ c ∈ [(0, 0x80), (0xABCD, 0x804), (64, 0), (3, 8), (3, 0), (0, 0), (2, 0), (16, 0), (1, 8), (15, 32)],
      let v := (BitVec.ofNat 64 c.1, BitVec.ofNat 64 c.2)
      ∃ h, (hartState v.1 v.2).hart = some 0 ∧ Tab.get (hartState v.1 v.2).harts 0 = some h ∧ h.reg 11 = v.1 ∧ h.reg 12 = v.2) ∧
    (0x80 : DWord) &&& ~~~(0x7F3F : DWord) ≠ 0 ∧ (0x804 : DWord) &&& ~~~(0x7F3F : DWord) = 0 ∧ 64 ≤ (64 : DWord).toNat ∧
    (3 : DWord).toNat < 64 ∧ (8 : DWord).toNat % 64 ≠ 0 ∧ (0 : DWord).toNat % 64 = 0 ∧ 16 ≤ (16 : DWord).toNat ∧ (8 : DWord).toNat % 32 ≠ 0 ∧
    (32 : DWord).toNat % 32 = 0 ∧ (15 : DWord).toNat < 16 ∧
    ((hartState 3 0).ringAt 3).rptr = ((hartState 3 0).ringAt 3).wptr ∧
    (∀ host ∈ [true, false], let s := fetchState { ring3 with host := host } true
     (s.ringAt 3).rptr ≠ (s.ringAt 3).wptr ∧ s.commandReady (s.ringAt 3) = true ∧ (s.ringAt 3).host = host ∧
       (s.commandBytes (s.ringAt 3)).isSome = true) ∧
    (let s := fetchState { ring3 with baseH := 0xFFFFFF } true
     (s.ringAt 3).rptr ≠ (s.ringAt 3).wptr ∧ s.commandReady (s.ringAt 3) = true ∧ s.commandBytes (s.ringAt 3) = none) ∧
    (let s := fetchState ring3 false
     (s.ringAt 3).rptr ≠ (s.ringAt 3).wptr ∧ s.commandReady (s.ringAt 3) = false) ∧
    ({ hartState 2 0 with signals := 2 } : State).signals &&& 2 ≠ 0 ∧ (hartState 2 0).signals &&& 2 = 0 ∧
    (∀ n ∈ [0, 64], let s := { hartState 15 32 with clusterInputs := [(15, List.replicate n [])] }
      (Tab.getD s.clusterInputs 15 []).length = n) ∧
    (∃ h, Tab.get (hartState 2 0).harts 0 = some h ∧ h.waiting = none) ∧
    (let h := { startHart [] with waiting := some (10, 2) }
     let s := { hartState 2 0 with harts := [(0, h)] }
     Tab.get s.harts 0 = some h ∧ h.waiting = some (10, 2)) ∧ (63 : Nat) < 64 := by
  refine ⟨?_, by decide, by decide, by decide, by decide, by decide, by decide, by decide, by decide, by decide, by decide, by decide,
    by decide +kernel, by decide +kernel, by decide +kernel, by decide, by decide, by decide, ⟨_, rfl, rfl⟩, ⟨rfl, rfl⟩, by decide⟩
  intro c hc
  refine ⟨((startHart []).setReg 11 (BitVec.ofNat 64 c.1)).setReg 12 (BitVec.ofNat 64 c.2), rfl, rfl, ?_⟩
  revert c; decide +kernel

/-! ### The host, heads, power -/

def hostState : State :=
  { State.reset with status := { State.reset.status with cxl := true, hbm := BitVec.allOnes 8, heads := 15, ports := 1, sinceAdjust := 1023 } }

theorem wit_HostAccesses : State.reset.compPages = [] ∧
    (let s := hostState
     s.status.cxl = true ∧ 0x1000 + ([1, 2] : List Byte).length ≤ 0x6000000000 ∧ ([1, 2] : List Byte).length ≠ 0 ∧
       0x1000 / 128 = (0x1000 + ([1, 2] : List Byte).length - 1) / 128 ∧ s.status.hbm.getLsbD (stackOf 0x1000) = true) ∧
    State.reset.status.cxl = false ∧ 0x107F / 128 ≠ (0x107F + 2 - 1) / 128 ∧ ([1, 2] : List Byte) ≠ [] ∧ 0x1000 + 2 ≤ 2 ^ 56 ∧
    (191 < 192 ∧ 15 < 16) ∧ (250 % 50 = 0 ∧ 200 ≤ 250 ∧ 250 ≤ 600) ∧ State.reset.power.trip = false ∧
    ({ State.reset.power with trip := true } : Power).trip = true ∧ 0x15 % 4 ≠ 0 ∧ wbit (0x80000004 : Word) 30 = false ∧ 63 < 64 ∧ 3 < 4 ∧ 127 < 128 := by
  decide +kernel

/-- A head that is enabled and due, one that is not due, one whose settings are reserved, and a line of its image. -/
def head0 (deadline : DWord) (lanes : BitVec 2) : Head :=
  { State.reset.head 0 with en := true, deadline := deadline, lanes := lanes, linkUp := true, under := true
                            image := some (0x100000, 0x10000, 4, 2, true) }
def lineHead (line : Option (Nat × List (Option (Nat × Nat × Nat)))) (lines : List Nat) : Head :=
  { head0 0 0 with line := line, lines := lines }
theorem wit_DisplayHeads :
    (∀ c ∈ [(0, 0), (9, 0), (0, 3)], let h := head0 (BitVec.ofNat 64 c.1) (BitVec.ofNat 2 c.2)
      let s := { hostState with heads := [(1, h)] }
      s.head 1 = h ∧ s.status.heads.getLsbD 1 = true ∧ (s.head 1).en = true ∧ ((s.head 1).deadline.toNat ≤ s.tsc.toNat ↔ c.1 = 0) ∧
        ((s.head 1).lanes ≠ 3 ↔ c.2 ≠ 3) ∧ (s.head 1).rate ≠ 7 ∧ (s.head 1).line = none ∧ 1 ∉ (s.head 1).lines ∧ (s.head 1).image = some (0x100000, 0x10000, 4, 2, true) ∧ (s.head 1).linkUp = true) ∧
    (∀ y ∈ [0, 1], ∀ n ∈ [3, 4], (({ hostState with heads := [(1, lineHead (some (y, List.replicate n none)) [])] } : State).head 1).line =
      some (y, List.replicate n none)) ∧
    (({ hostState with heads := [(1, lineHead none [1])] } : State).head 1 = lineHead none [1]) ∧
    ([none, none, none] : List (Option (Nat × Nat × Nat))).length < 4 ∧ (State.reset.head 1).en = false ∧ 1 < 2 ∧ ¬2 < 2 := by
  refine ⟨?_, fun _ _ _ _ => rfl, rfl, ?_, ?_, ?_, ?_⟩ <;> decide +kernel

theorem wit_PowerBootAttestation :
    (hostState.power.trip = false ∧ hostState.status.cxl = true ∧ hostState.status.hbm = BitVec.allOnes 8 ∧ State.reset.status.boot ≠ 1 ∧
      ({ hostState.status with boot := 1 } : Status).boot = 1) ∧
    (hostState.status.ports.getLsbD 0 = true ∧ 1023 ≤ hostState.status.sinceAdjust ∧ ¬State.reset.status.ports.getLsbD 0 = true) ∧
    (let p := { State.reset.power with overPower := true }
     (p.overPower = true ∧ 200 < p.mhz.toNat ∧ p.trip = false)) ∧
    (let p := { State.reset.power with low := true, cool := true, mhz := 500 }
     p.low = true ∧ p.cool = true ∧ p.mhz.toNat < p.cap.toNat ∧ p.trip = false ∧ p.cap.toNat ≤ 600) ∧
    (State.reset.status.boot = 0 ∧ State.reset.power.trip = false ∧ 0 < State.reset.status.measures.length) := by
  decide +kernel

/-! ### Results, faults, reports -/

def fault0 (c : Cause) (time : DWord) : FaultRec :=
  { cause := c, async := true, lane := 0, src := 1, pc := 0x1000, time := time, ops := [], xops := 0 }
def result0 : Result := { group := 3, lane := some 1, reg := 8, vals := [5], spec := false }
def pending0 : Group := { group0 [] with pend := [(regKey 1 8, .load)], waiting := [{ mask := 2, wait := .park, since := 0, count := 0 }] }
def held0 (g : Nat) : HeldFault := { org := { org0 with group := g }, f := fault0 .ecc 5, result := none, command := none }
def ahead0 (c : Cause) (stop : Bool) : RunAhead :=
  { regs := [], pend := [], bad := [], fibres := [], current := none, waiting := [], tags := [], fault := fault0 c 5, batch := [], count := 0, stop := stop }
def aheadGroup (c : Cause) (stop : Bool) : Group := { group0 [] with runAhead := some (ahead0 c stop) }
def report0 (index : Option Nat) : Report :=
  { kind := .pageService, f := fault0 .xlate 5, core := 0, resident := 0, group := 0, block := 2, of := .group 3, words := [], index := index }
/-- A log of 16 entries at 0x800000, with the host's answer to entry 0. -/
def logState (ack wptr : Word) (rs : List Report) : State :=
  { state0 [] with
    reports := rs, mem := Memory.writeBytes mem0 0x80003C (bytesOf 4 (ack.toNat * 2 ^ 30))
    log := { (state0 []).log with base := 0x800000, baseH := 0, host := false, en := true, log2n := 4, wptr := wptr, rptr := 0 } }

theorem wit_ResultsAndFaults :
    (let s := { state0 [] with results := [result0], groups := [(3, pending0)] }
     s.results[0]? = some result0 ∧ s.isSaved 3 = false ∧ s.group? 3 = some pending0 ∧ pending0.runAhead = none ∧ 8 + 1 ≤ 128) ∧
    (let s := { state0 [] with results := [result0], groups := [], blocks := [(2, saved0)] }
     s.isSaved 3 = true) ∧
    (∀ g ∈ [3, 9], let s := { state0 [] with held := [held0 g] }
      s.held[0]? = some (held0 g) ∧ s.isSaved g = false ∧ s.liveGroup g = (if g = 9 then none else some (group0 [])) ∧
        (held0 g).result = none ∧ (held0 g).command = none ∧ s.rays = []) ∧
    ((group0 []).faults.length < 64 ∧ (group0 []).current.isSome = true ∧
      64 ≤ ({ group0 [] with faults := List.replicate 64 (fault0 .ecc 0) } : Group).faults.length) ∧
    (∀ c ∈ [Cause.xlate, .migrate], ∀ stop ∈ [true, false], ∀ ph ∈ [BlockPhase.running, .stopping], let b := { block0 with phase := ph }
      let s := { state0 [] with groups := [(3, aheadGroup c stop)], blocks := [(2, b)] }
      s.group? 3 = some (aheadGroup c stop) ∧ s.blockOf (aheadGroup c stop) = some b ∧ (aheadGroup c stop).runAhead = some (ahead0 c stop) ∧
        (ahead0 c stop).stop = stop ∧ (ahead0 c stop).fault.cause = c ∧ b.phase = ph) ∧
    (∀ c ∈ [((0 : Word), none), (16, none), (1, some 0)], let s := logState 0 c.1 [report0 c.2]
      s.reports[0]? = some (report0 c.2) ∧ s.log.en = true ∧ s.compPages = [] ∧ (report0 c.2).kind ≠ .blockEnded ∧
        ((s.log.wptr - s.log.rptr).toNat < 2 ^ s.log.log2n.toNat ↔ c.1 ≠ 16)) ∧
    (∀ ack ∈ [0, 1, 2], let s := logState (BitVec.ofNat 32 ack) 1 [report0 (some 0)]
      s.reports.find? (fun r => r.kind == .pageService && r.index == some (0 : Word).toNat) = some (report0 (some 0)) ∧ s.compPages = [] ∧
        physKey s.log.host (s.log.base.toNat + s.log.baseH.toNat * 2 ^ 32 + 64 * 0) + 60 = 0x80003C ∧
        field (ofBytes (Memory.readBytes s.mem 0x80003C 4)) 31 30 = ack ∧
        (report0 (some 0)).of = .group 3 ∧ s.group? 3 = some (group0 []) ∧ s.isSaved 3 = false ∧ s.blockOf (group0 []) = some block0 ∧
        block0.tvec.getLsbD 0 = false) ∧
    (∀ r ∈ (logState 0 1 [report0 (some 0)]).reports, ¬(r.kind = .pageService ∧ r.index = some (5 : Word).toNat)) := by
  refine ⟨?_, ?_, ?_, ?_, ?_, ?_, ?_, ?_⟩ <;> decide +kernel

/-- A core that runs, one that is gated and due, one without a block, and one whose group waits parked. -/
theorem wit_gates :
    (let s := { state0 [] with cores := [(0, { (state0 []).core 0 with gate := .clock, due := 1 })] }
     (s.core 0).gate ≠ .running ∧ (s.core 0).due ≠ 0) ∧ 0 < 192 ∧
    ((state0 []).core 0).due = 0 ∧ (∃ p ∈ (state0 []).blocks, ∃ e ∈ p.2.seats, e.core = 0) ∧
    (∀ p ∈ (state0 []).blocks, ∀ e ∈ p.2.seats, e.core ≠ 1) ∧ (∀ p ∈ (state0 []).groups, p.2.core ≠ 1) ∧
    (∃ p ∈ (state0 []).groups, p.2.core = 0 ∧ p.2.current.isSome = true) ∧
    (let x := { pending0 with current := none, pend := [(regKey 1 8, .copyEngine)] }
     let s := { state0 [] with groups := [(3, x)], cores := [(0, { (state0 []).core 0 with gate := .running })] }
     (∃ p ∈ s.groups, p.2.core = 0) ∧ (s.core 0).gate = .running ∧ s.ord.promotions = [] ∧
       ∀ p ∈ s.groups, p.2.core = 0 → p.2.current = none ∧ p.2.hold = none ∧ p.2.runAhead = none ∧
         ∀ u ∈ p.2.waiting, u.wait = .park ∧ ∀ q ∈ p.2.pend, u.mask.getLsbD (q.1 / 128) = true → q.2 = .copyEngine) := by
  decide +kernel

end Sys2Proof.Tests
end

section
/-!
SUPPORT. The host's accesses (O50): what a line of memory holds after the host has written it, which register an offset
names, and the word that each register reads as.
-/
namespace Sys2Proof.Machine

/-! ### The instructions of the host -/

@[simp] theorem exec_hostMemAccess (a : HostAccess) (s : State) : exec (.hostMemAccess a) s = execHostMemAccess a s := rfl
@[simp] theorem exec_hostWriteToHostLine (a : Nat) (bs : List Byte) (s : State) :
    exec (.hostWriteToHostLine a bs) s = execHostWriteToHostLine a bs s := rfl
@[simp] theorem exec_hostNotifyWrite (o : Nat) (v : Word) (s : State) : exec (.hostNotifyWrite o v) s = .next (s.hostNotify o v) := rfl
@[simp] theorem exec_capWrite (v : Word) (s : State) : exec (.capWrite v) s = execCapWrite v s := rfl
@[simp] theorem exec_registerWrite (o : Nat) (v : Word) (s : State) :
    exec (.registerWrite o v) s = .next (s.writeRegister o v) := rfl
@[simp] theorem exec_tslRead (s : State) : exec .tslRead s = execTslRead s := rfl
@[simp] theorem exec_correctedErrorCountRead (c : CeCounter) (s : State) :
    exec (.correctedErrorCountRead c) s = execCorrectedErrorCountRead c s := rfl
@[simp] theorem exec_ringDoorbell (i : Nat) (v : Word) (s : State) : exec (.ringDoorbell i v) s = .next (s.doorbell i v) := rfl
@[simp] theorem exec_flack (v : Word) (s : State) : exec (.flack v) s = .next (s.answered v.toNat) := rfl
@[simp] theorem exec_groupTableWrite (o : Nat) (v : Word) (s : State) :
    exec (.groupTableWrite o v) s = .next (s.groupTableWrite o v) := rfl

/-! ### Plain memory (07 R166, 12 R263) -/

theorem State.compAt_of_no_pages {s : State} (h : s.compPages = []) (key : Nat) : s.compAt key = none := by
  simp [State.compAt, h]

theorem isBankKey_eq_false {key : Nat} (h : key < 2 ^ 57) : isBankKey key = false := by
  simpa [isBankKey] using h

theorem physKey_device {pa : Nat} (h : pa < 2 ^ 56) : physKey false pa = pa := Nat.mod_eq_of_lt h

theorem physKey_host {pa : Nat} (h : pa < 2 ^ 56) : physKey true pa = 2 ^ 56 + pa :=
  congrArg (2 ^ 56 + ·) (Nat.mod_eq_of_lt h)

/-- An engine reads plain memory as it stands at home. -/
theorem State.engineRead_plain (s : State) (key n : Nat) : (s.engineRead none key n).1 = s.readHome key n := by
  refine List.ext_getElem (by simp [State.engineRead, State.readHome]) fun i h1 h2 => ?_
  have hi : i < n := by simpa [State.readHome] using h2
  simp [State.engineRead, State.homeRead, State.readHome, Memory.readBytes_getElem _ _ _ _ hi]

/-- An engine's write to plain memory, outside the banks, puts down its bytes and no others. -/
theorem State.engineWrite_plain_mem (s : State) {key : Nat} (bs : List Byte) (hk : key < 2 ^ 57) :
    (s.engineWrite none none key bs).mem = Memory.writeBytes s.mem key bs := by
  simp [State.engineWrite, isBankKey_eq_false hk, State.modOrd]

theorem State.frontWrite_plain {s : State} (host : Bool) {pa key : Nat} (bs : List Byte) (hc : s.compPages = [])
    (he : physKey host pa = key) (hk : key < 2 ^ 57) :
    (s.frontWrite host pa bs).readHome key bs.length = bs ∧ SameMemory s (s.frontWrite host pa bs) key bs.length := by
  have hm : (s.frontWrite host pa bs).mem = Memory.writeBytes s.mem key bs := by
    rw [State.frontWrite, State.compAt_of_no_pages hc, he, State.engineWrite_plain_mem s bs hk]
  constructor
  · rw [State.readHome, hm]
    exact Memory.readBytes_writeBytes ..
  · intro k hout
    rw [hm]
    exact Memory.read_writeBytes_outside _ _ _ (by omega)

theorem inLine_iff (pa n : Nat) : inLine pa n = true ↔ n ≠ 0 ∧ pa / 128 = (pa + n - 1) / 128 := by
  simp [inLine]

theorem State.hostReady_iff (s : State) (pa n : Nat) :
    s.hostReady pa n = true ↔ s.status.cxl = true ∧ pa + n ≤ 0x6000000000 ∧ n ≠ 0 ∧ pa / 128 = (pa + n - 1) / 128 ∧
      s.status.hbm.getLsbD (stackOf pa) = true := by
  simp only [State.hostReady, Bool.and_eq_true, decide_eq_true_eq, inLine_iff, and_assoc]
  rfl

/-- The host reads a ready line of plain device memory. -/
theorem exec_hostRead_plain {s : State} {pa n : Nat} (hc : s.compPages = []) (hr : s.hostReady pa n = true) :
    exec (.hostMemAccess (.read pa n)) s = .next { s with hostSaw := s.readHome pa n } := by
  have hpa : pa < 2 ^ 56 := by
    obtain ⟨-, hend, -⟩ := (s.hostReady_iff pa n).1 hr
    omega
  rw [exec_hostMemAccess, execHostMemAccess, if_pos hr, physKey_device hpa, State.compAt_of_no_pages hc, State.engineRead_plain]

/-- The host writes a ready line of plain device memory. -/
theorem exec_hostWrite_plain {s : State} {pa : Nat} {bs : List Byte} (hc : s.compPages = []) (hr : s.hostReady pa bs.length = true) :
    ∃ t, exec (.hostMemAccess (.write pa bs)) s = .next t ∧ t.readHome pa bs.length = bs ∧ SameMemory s t pa bs.length := by
  have hpa : pa < 2 ^ 56 := by
    obtain ⟨-, hend, -⟩ := (s.hostReady_iff pa bs.length).1 hr
    omega
  exact ⟨s.frontWrite false pa bs, by rw [exec_hostMemAccess, execHostMemAccess, if_pos hr],
    State.frontWrite_plain false bs hc (physKey_device hpa) (by omega)⟩

/-- The host writes a line of plain host memory. -/
theorem exec_hostWriteToHostLine_plain {s : State} {a : Nat} {bs : List Byte} (hc : s.compPages = []) (hbs : bs ≠ [])
    (hline : a / 128 = (a + bs.length - 1) / 128) (hend : a + bs.length ≤ 2 ^ 56) :
    ∃ t, exec (.hostWriteToHostLine a bs) s = .next t ∧ t.readHome (2 ^ 56 + a) bs.length = bs ∧
      SameMemory s t (2 ^ 56 + a) bs.length := by
  have hlen : bs.length ≠ 0 := by simpa using hbs
  have hin : inLine a bs.length = true := (inLine_iff ..).2 ⟨hlen, hline⟩
  have ha : a < 2 ^ 56 := by omega
  exact ⟨s.frontWrite true a bs, by rw [exec_hostWriteToHostLine, execHostWriteToHostLine, if_pos (by rw [hin, decide_eq_true hend]; rfl)],
    State.frontWrite_plain true bs hc (physKey_host ha) (by omega)⟩

/-! ### The notify aperture, CAP, and the reads that latch or clear (R381, R382, R385) -/

theorem State.noteWake_eq (s : State) (c : Nat) (bit : BitVec 4) : s.noteWake c bit = { s with cores := (s.noteWake c bit).cores } := by
  simp only [State.noteWake]
  split <;> rfl

/-- A notify write changes its notify register, and of the rest at most what cores are due. -/
theorem State.notifyOr_eq (s : State) (core reg : Nat) (v : Word) :
    s.notifyOr core reg v = { s with
      notify := Tab.store 0 s.notify (16 * core + reg) (Tab.getD s.notify (16 * core + reg) 0 ||| v)
      cores := (s.notifyOr core reg v).cores } := by
  simp only [State.notifyOr]
  split
  · rfl
  · exact State.noteWake_eq ..

theorem State.hostNotify_aperture {s : State} {core reg : Nat} (v : Word) (ht : s.power.trip = false) (hc : core < 192) (hr : reg < 16) :
    s.hostNotify (0x4000 + 64 * core + 4 * reg) v = s.notifyOr core reg v := by
  have hk : (0x4000 + 64 * core + 4 * reg - 0x4000) / 64 = core := by omega
  have hg : (0x4000 + 64 * core + 4 * reg) % 64 / 4 = reg := by omega
  have ha : (0x4000 + 64 * core + 4 * reg) % 4 = 0 := by omega
  simp only [State.hostNotify, hk, hg]
  rw [if_neg (by simp [ht, ha]; omega)]

/-- The host's notify write to register `reg` of `core` (R382). -/
theorem exec_hostNotifyWrite_aperture {s : State} {core reg : Nat} (v : Word) (ht : s.power.trip = false) (hc : core < 192)
    (hr : reg < 16) : ∃ t, exec (.hostNotifyWrite (0x4000 + 64 * core + 4 * reg) v) s = .next t ∧
      t = { s with notify := t.notify, cores := t.cores } ∧
      ∀ k, Tab.getD t.notify k 0 = if k = 16 * core + reg then Tab.getD s.notify k 0 ||| v else Tab.getD s.notify k 0 := by
  have hn : (s.notifyOr core reg v).notify = _ := congrArg State.notify (s.notifyOr_eq core reg v)
  refine ⟨s.notifyOr core reg v, by rw [exec_hostNotifyWrite, State.hostNotify_aperture v ht hc hr], ?_, fun k => ?_⟩
  · rw [hn]
    exact s.notifyOr_eq core reg v
  · rw [hn]
    split
    · next h =>
      subst h
      exact Tab.getD_store_same ..
    · next h => exact Tab.getD_store_other _ _ _ h

theorem State.hostNotify_tripped {s : State} (o : Nat) (v : Word) (ht : s.power.trip = true) : s.hostNotify o v = s := by
  simp [State.hostNotify, ht]

theorem execCapWrite_tripped {s : State} (v : Word) (ht : s.power.trip = true) : execCapWrite v s = .next s := by
  simp [execCapWrite, ht]

theorem execCapWrite_untripped {s : State} (v : Word) (ht : s.power.trip = false) :
    execCapWrite v s = .next { s with power := s.power.setCap v } := by
  simp [execCapWrite, ht]

/-- The two halves of the counter, one read and one latched, are the counter (R385). -/
theorem counter_halves (x : DWord) :
    ofBytes (bytesOf 4 (x.toNat % 2 ^ 32)) + ((x >>> 32).setWidth 32 : Word).toNat * 2 ^ 32 = x.toNat := by
  have hx := x.isLt
  rw [ofBytes_bytesOf 4 (Nat.mod_lt _ (by decide)), BitVec.toNat_setWidth, BitVec.toNat_ushiftRight, Nat.shiftRight_eq_div_pow]
  omega

@[simp] theorem Status.counter_setCounter_same (t : Status) (c : CeCounter) (v : Word) : (t.setCounter c v).counter c = v := by
  cases c <;> rfl

theorem Status.counter_setCounter_other (t : Status) {c d : CeCounter} (v : Word) (h : d ≠ c) :
    (t.setCounter c v).counter d = t.counter d := by
  cases c <;> cases d <;> simp_all [Status.counter, Status.setCounter]

/-! ### Writes of registers by their offset (R5) -/

theorem State.onlyRing_setRing (s : State) (i : Nat) (r : Ring) : OnlyRing s (s.setRing i r) i r :=
  ⟨Tab.getD_store_same .., fun _ h => Tab.getD_store_other _ _ _ h⟩

@[simp] theorem State.head_setHead_same (s : State) (h : Nat) (x : Head) : (s.setHead h x).head h = x := Tab.getD_store_same ..

theorem State.head_setHead_other (s : State) {h k : Nat} (x : Head) (hk : k ≠ h) : (s.setHead h x).head k = s.head k :=
  Tab.getD_store_other _ _ _ hk

theorem State.writeRegister_ignored {s : State} {o : Nat} (v : Word) (h : s.power.trip = true ∨ o % 4 ≠ 0) : s.writeRegister o v = s := by
  unfold State.writeRegister
  rw [if_pos (by simpa [or_comm] using h)]

section Writes
variable {s : State} (v : Word) (ht : s.power.trip = false)
include ht

theorem State.writeRegister_cap : s.writeRegister 0x14 v = { s with power := s.power.setCap v } := by
  simp [State.writeRegister, ht]

theorem State.writeRegister_flack : s.writeRegister 0x64 v = s.answered v.toNat := by
  simp [State.writeRegister, State.writeLog, ht]

/-- Offset `o` of the register block of ring `i`. -/
theorem State.writeRegister_ring {i o : Nat} (hi : i < 64) (ho : o < 32) (h4 : o % 4 = 0) :
    s.writeRegister (0x100 + 32 * i + o) v = s.writeRing i o v := by
  have hk : (0x100 + 32 * i + o - 0x100) / 32 = i := by omega
  have hr : (0x100 + 32 * i + o - 0x100) % 32 = o := by omega
  unfold State.writeRegister
  rw [if_neg (by simp [ht]; omega), if_neg (by omega), if_neg (by omega), if_pos (by omega), hk, hr]

/-- Offset `o` of the register block of head `h`. -/
theorem State.writeRegister_head {h o : Nat} (hh : h < 4) (ho : o < 64) (h4 : o % 4 = 0) :
    s.writeRegister (0x900 + 64 * h + o) v = s.writeHead h o v := by
  have hk : (0x900 + 64 * h + o - 0x900) / 64 = h := by omega
  have hr : (0x900 + 64 * h + o - 0x900) % 64 = o := by omega
  unfold State.writeRegister
  rw [if_neg (by simp [ht]; omega), if_neg (by omega), if_neg (by omega), if_neg (by omega), if_pos (by omega), hk, hr]

theorem State.writeRegister_groupTable {o : Nat} (hlo : 0xA00 ≤ o) (hhi : o < 0x4000) (h4 : o % 4 = 0) :
    s.writeRegister o v = s.groupTableWrite o v := by
  unfold State.writeRegister
  rw [if_neg (by simp [ht, h4]), if_neg (by omega), if_neg (by omega), if_neg (by omega), if_neg (by omega), if_pos hhi]

theorem State.writeRegister_notify {o : Nat} (hlo : 0x4000 ≤ o) (h4 : o % 4 = 0) : s.writeRegister o v = s.hostNotify o v := by
  unfold State.writeRegister
  rw [if_neg (by simp [ht, h4]), if_neg (by omega), if_neg (by omega), if_neg (by omega), if_neg (by omega), if_neg (by omega)]

/-- A register write that leaves ring `i` as `r`. -/
theorem exec_registerWrite_ring {i o : Nat} {r : Ring} (hi : i < 64) (hw : s.writeRing i o v = s.setRing i r)
    (ho : o < 32 := by decide) (h4 : o % 4 = 0 := by decide) :
    ∃ t, exec (.registerWrite (0x100 + 32 * i + o) v) s = .next t ∧ t = { s with rings := t.rings } ∧ OnlyRing s t i r :=
  ⟨s.setRing i r, by rw [exec_registerWrite, State.writeRegister_ring v ht hi ho h4, hw], rfl, s.onlyRing_setRing i r⟩

/-- A register write that leaves head `h` as `x`. -/
theorem exec_registerWrite_head {h o : Nat} {x : Head} (hh : h < 4) (hw : s.writeHead h o v = s.setHead h x)
    (ho : o < 64 := by decide) (h4 : o % 4 = 0 := by decide) :
    ∃ t, exec (.registerWrite (0x900 + 64 * h + o) v) s = .next t ∧ t = { s with heads := t.heads } ∧
      (∀ k, k ≠ h → t.head k = s.head k) ∧ t.head h = x :=
  ⟨s.setHead h x, by rw [exec_registerWrite, State.writeRegister_head v ht hh ho h4, hw], rfl,
    fun _ hk => s.head_setHead_other x hk, s.head_setHead_same h x⟩

end Writes

theorem ofNat_wbits_low (v : Word) (hi : Nat) : BitVec.ofNat (hi + 1) (wbits v hi 0) = v.setWidth (hi + 1) := by
  apply BitVec.eq_of_toNat_eq
  simp [wbits, field]

theorem ofNat_lanes (v : Word) : BitVec.ofNat 2 (wbits v 5 4) = (v >>> 4).setWidth 2 := by
  apply BitVec.eq_of_toNat_eq
  simp [wbits, field]

/-- A control write of a ring that does not clear ERR (11 R258). -/
theorem State.writeRing_control (s : State) (i : Nat) {v : Word} (h : wbit v 30 = false) :
    s.writeRing i 8 v = s.setRing i { s.ringAt i with
      en := wbit v 31
      log2n := if 4 ≤ wbits v 4 0 ∧ wbits v 4 0 ≤ 16 then BitVec.ofNat 5 (wbits v 4 0) else (s.ringAt i).log2n } := by
  simp [State.writeRing, h, log2nOf]

/-! ### What registers read as (R5, R6, R380) -/

@[simp] theorem bitOf_eq_toNat (b : Bool) : bitOf b = b.toNat := by cases b <;> rfl

/-! A word's fields are summed one by one: the kernel, asked for the whole sum at once, counts up to its powers of 2. -/

theorem fields_nil (n : Nat) : [].foldl (fun n (p : Nat × Nat) => n + p.1 * 2 ^ p.2) n = n := rfl

theorem fields_cons {n a i m : Nat} {fs : List (Nat × Nat)} (h : fs.foldl (fun n p => n + p.1 * 2 ^ p.2) (n + a * 2 ^ i) = m) :
    ((a, i) :: fs).foldl (fun n p => n + p.1 * 2 ^ p.2) n = m := h

/-- A word packed of fields that fit into it is their sum. -/
theorem packed_toNat {fields : List (Nat × Nat)} {m n : Nat} (hs : fields.foldl (fun n p => n + p.1 * 2 ^ p.2) 0 = m) (hm : m = n)
    (hn : n < 2 ^ 32) : (packed fields).toNat = n := by
  rw [packed, hs, hm, toWord, BitVec.toNat_ofNat]
  exact Nat.mod_eq_of_lt hn

/-- One field at bit 0. -/
theorem packed_one {w : Nat} (x : BitVec w) (hw : w ≤ 32) : (packed [(x.toNat, 0)]).toNat = x.toNat :=
  packed_toNat (fields_cons <| fields_nil _) (by simp) (Nat.lt_of_lt_of_le x.isLt (Nat.pow_le_pow_right (by decide) hw))

/-- A field below bit 31, and bit 31. -/
theorem packed_top {w : Nat} (x : BitVec w) (b : Bool) (hw : w ≤ 31) :
    (packed [(x.toNat, 0), (bitOf b, 31)]).toNat = x.toNat + b.toNat * 2 ^ 31 := by
  have hx : x.toNat < 2 ^ 31 := Nat.lt_of_lt_of_le x.isLt (Nat.pow_le_pow_right (by decide) hw)
  have hb := b.toNat_lt
  exact packed_toNat (fields_cons <| fields_cons <| fields_nil _) (by simp) (by omega)

/-- The two halves of a 64-bit register. -/
theorem lowWord_toNat (x : DWord) : (x.setWidth 32 : Word).toNat = x.toNat % 2 ^ 32 := BitVec.toNat_setWidth ..

theorem highWord_toNat (x : DWord) : ((x >>> 32).setWidth 32 : Word).toNat = x.toNat / 2 ^ 32 := by
  have hx := x.isLt
  rw [BitVec.toNat_setWidth, BitVec.toNat_ushiftRight, Nat.shiftRight_eq_div_pow]
  omega

/-- A read of the register at `offset` returns the word `n`, and changes nothing. -/
def State.Shows (s : State) (offset n : Nat) : Prop :=
  exec (.hostMemAccess (.register offset)) s = .next { s with hostSaw := bytesOf 4 n }

theorem State.afterRegisterRead_eq {s : State} {o : Nat} (h : o ≠ 0x08 ∧ o ≠ 0x18 ∧ o ≠ 0x1C ∧ o ≠ 0x20) :
    s.afterRegisterRead o = s := by
  obtain ⟨h08, h18, h1C, h20⟩ := h
  unfold State.afterRegisterRead
  split
  · exact absurd rfl h08
  · exact absurd rfl h18
  · exact absurd rfl h1C
  · exact absurd rfl h20
  · rfl

theorem State.shows_of_read {s : State} {o n : Nat} (h : o ≠ 0x08 ∧ o ≠ 0x18 ∧ o ≠ 0x1C ∧ o ≠ 0x20)
    (hn : (s.readRegister o).toNat = n) : s.Shows o n := by
  rw [State.Shows, exec_hostMemAccess, execHostMemAccess, State.afterRegisterRead_eq h, hn]

theorem State.readRegister_misaligned {s : State} {o : Nat} (h : o % 4 ≠ 0) : s.readRegister o = 0 := by
  simp [State.readRegister, h]

theorem State.readRegister_status {s : State} {o : Nat} (h : o < 0x40) (h4 : o % 4 = 0) : s.readRegister o = s.readStatus o := by
  simp [State.readRegister, h, h4]

theorem State.readRegister_log {s : State} {o : Nat} (hlo : 0x40 ≤ o) (hhi : o < 0x100) (h4 : o % 4 = 0) :
    s.readRegister o = s.log.read o := by
  unfold State.readRegister
  rw [if_neg (by simp [h4]), if_neg (by omega), if_pos hhi]

theorem State.readRegister_ring {s : State} {i o : Nat} (hi : i < 64) (ho : o < 32) (h4 : o % 4 = 0) :
    s.readRegister (0x100 + 32 * i + o) = (s.ringAt i).read o := by
  have hk : (0x100 + 32 * i + o - 0x100) / 32 = i := by omega
  have hr : (0x100 + 32 * i + o - 0x100) % 32 = o := by omega
  unfold State.readRegister
  rw [if_neg (by simp; omega), if_neg (by omega), if_neg (by omega), if_pos (by omega), hk, hr]

theorem State.readRegister_head {s : State} {h o : Nat} (hh : h < 4) (ho : o < 64) (h4 : o % 4 = 0) :
    s.readRegister (0x900 + 64 * h + o) = (s.head h).read o := by
  have hk : (0x900 + 64 * h + o - 0x900) / 64 = h := by omega
  have hr : (0x900 + 64 * h + o - 0x900) % 64 = o := by omega
  unfold State.readRegister
  rw [if_neg (by simp; omega), if_neg (by omega), if_neg (by omega), if_neg (by omega), if_pos (by omega), hk, hr]

theorem State.readRegister_fabric {s : State} {o : Nat} (hlo : 0xA00 ≤ o) (hhi : o < 0x4000) (h4 : o % 4 = 0) :
    s.readRegister o = s.readFabric o := by
  unfold State.readRegister
  rw [if_neg (by simp [h4]), if_neg (by omega), if_neg (by omega), if_neg (by omega), if_neg (by omega), if_pos hhi]

theorem State.readFabric_entry {s : State} {i o : Nat} (hi : i < 128) (ho : o < 16) :
    s.readFabric (0xA10 + 16 * i + o) = (s.groupEntry i).read o := by
  have hk : (0xA10 + 16 * i + o - 0xA10) / 16 = i := by omega
  have hr : (0xA10 + 16 * i + o - 0xA10) % 16 = o := by omega
  unfold State.readFabric
  rw [if_neg (by omega), if_neg (by simp; omega), hk, hr]

theorem State.shows_ring {s : State} {i o n : Nat} (hi : i < 64) (hn : ((s.ringAt i).read o).toNat = n)
    (ho : o < 32 := by decide) (h4 : o % 4 = 0 := by decide) :
    s.Shows (0x100 + 32 * i + o) n :=
  State.shows_of_read (by omega) (by rw [State.readRegister_ring hi ho h4, hn])

theorem State.shows_head {s : State} {h o n : Nat} (hh : h < 4) (hn : ((s.head h).read o).toNat = n)
    (ho : o < 64 := by decide) (h4 : o % 4 = 0 := by decide) :
    s.Shows (0x900 + 64 * h + o) n :=
  State.shows_of_read (by omega) (by rw [State.readRegister_head hh ho h4, hn])

theorem State.shows_groupEntry {s : State} {i o n : Nat} (hi : i < 128) (hn : ((s.groupEntry i).read o).toNat = n)
    (ho : o < 16 := by decide) (h4 : o % 4 = 0 := by decide) : s.Shows (0xA10 + 16 * i + o) n :=
  State.shows_of_read (by omega)
    (by rw [State.readRegister_fabric (by omega) (by omega) (by omega), State.readFabric_entry hi ho, hn])

theorem State.shows_log {s : State} {o n : Nat} (hn : (s.log.read o).toNat = n) (hlo : 0x40 ≤ o := by decide)
    (hhi : o < 0x100 := by decide) (h4 : o % 4 = 0 := by decide) :
    s.Shows o n :=
  State.shows_of_read (by omega) (by rw [State.readRegister_log hlo hhi h4, hn])

theorem State.shows_status {s : State} {o n : Nat} (hn : (s.readStatus o).toNat = n)
    (h : o ≠ 0x08 ∧ o ≠ 0x18 ∧ o ≠ 0x1C ∧ o ≠ 0x20 := by decide) (hhi : o < 0x40 := by decide) (h4 : o % 4 = 0 := by decide) : s.Shows o n :=
  State.shows_of_read h (by rw [State.readRegister_status hhi h4, hn])

/-! ### Words of several fields -/

/-- The readiness bits (R381). -/
theorem State.readStatus_ready (s : State) : let k := s.status
    (s.readStatus 0x00).toNat = k.hbm.toNat + k.clusters.toNat * 2 ^ 8 + k.heads.toNat * 2 ^ 24 + k.cxl.toNat * 2 ^ 28 + k.fe.toNat * 2 ^ 29 := by
  have hcxl := s.status.cxl.toNat_lt
  have hfe := s.status.fe.toNat_lt
  exact packed_toNat (fields_cons <| fields_cons <| fields_cons <| fields_cons <| fields_cons <| fields_nil _) (by simp) (by omega)

/-- A ring's control word (11 R258). -/
theorem Ring.read_control (r : Ring) : (r.read 0x08).toNat = r.log2n.toNat + r.err.toNat * 2 ^ 30 + r.en.toNat * 2 ^ 31 := by
  have herr := r.err.toNat_lt
  have hen := r.en.toNat_lt
  exact packed_toNat (fields_cons <| fields_cons <| fields_cons <| fields_nil _) (by simp) (by omega)

/-- A head's control word (18 R352). -/
theorem Head.read_control (x : Head) : (x.read 0x14).toNat =
    x.rate.toNat + x.lanes.toNat * 2 ^ 4 + x.bpc10.toNat * 2 ^ 29 + x.fmt.toNat * 2 ^ 30 + x.en.toNat * 2 ^ 31 := by
  have hbpc := x.bpc10.toNat_lt
  have hfmt := x.fmt.toNat_lt
  have hen := x.en.toNat_lt
  exact packed_toNat (fields_cons <| fields_cons <| fields_cons <| fields_cons <| fields_cons <| fields_nil _) (by simp) (by omega)

/-- A head's state word (18 R352, 20 R376). -/
theorem Head.read_state (x : Head) : (x.read 0x1C).toNat = x.under.toNat + x.drop.toNat * 2 + x.linkUp.toNat * 2 ^ 31 := by
  have hunder := x.under.toNat_lt
  have hdrop := x.drop.toNat_lt
  have hlink := x.linkUp.toNat_lt
  exact packed_toNat (fields_cons <| fields_cons <| fields_cons <| fields_nil _) (by simp) (by omega)

/-- Word 0 of an entry of the group table (20 R367). -/
theorem GroupEntry.read_word0 (e : GroupEntry) : (e.read 0x0).toNat = e.gid.toNat + e.myrank.toNat * 2 ^ 16 + e.valid.toNat * 2 ^ 31 := by
  have hvalid := e.valid.toNat_lt
  exact packed_toNat (fields_cons <| fields_cons <| fields_cons <| fields_nil _) (by simp) (by omega)

/-- The fabric number, where there is one (20 R367). -/
theorem State.readFabric_fabid {s : State} {n : BitVec 10} (h : s.fabric.fabid = some n) :
    (s.readFabric 0xA00).toNat = n.toNat + 2 ^ 31 := by
  have hn : n.toNat + 2 ^ 31 < 2 ^ 32 := by omega
  rw [State.readFabric, if_pos rfl, h]
  exact packed_toNat (fields_cons <| fields_cons <| fields_nil _) (by simp) hn

theorem State.readFabric_no_fabid {s : State} (h : s.fabric.fabid = none) : s.readFabric 0xA00 = 0 := by
  rw [State.readFabric, if_pos rfl, h]

/-- A register that nothing stands at, or that is only written, reads as zero: beside the registers of the status block, of
the fault log and of the fabric, in the aperture, and at an offset that is no multiple of 4 (R381, R382). -/
theorem State.shows_zero (s : State) {o : Nat}
    (h : (0x28 ≤ o ∧ o < 0x40) ∨ o = 0x4C ∨ (0x68 ≤ o ∧ o < 0x100) ∨ (0xA04 ≤ o ∧ o < 0xA10) ∨ 0x4000 ≤ o ∨ o % 4 ≠ 0) :
    s.Shows o 0 := by
  refine State.shows_of_read (by omega) (congrArg BitVec.toNat (?_ : s.readRegister o = 0))
  rcases Decidable.em (o % 4 = 0) with h4 | h4
  case inr => exact State.readRegister_misaligned h4
  obtain ⟨hlo, hhi⟩ | rfl | ⟨hlo, hhi⟩ | ⟨hlo, hhi⟩ | hlo | hne := h
  · rw [State.readRegister_status hhi h4]
    simp (disch := omega) [State.readStatus]
  · rfl
  · rw [State.readRegister_log (by omega) hhi h4]
    simp (disch := omega) [FaultLog.read]
  · rw [State.readRegister_fabric (by omega) (by omega) h4]
    unfold State.readFabric
    rw [if_neg (by omega), if_pos (by simp [hhi])]
  · unfold State.readRegister
    rw [if_neg (by simp [h4]), if_neg (by omega), if_neg (by omega), if_neg (by omega), if_neg (by omega), if_neg (by omega)]
  · exact absurd h4 hne

/-! ### The register blocks, each as a whole -/

/-- Writes of a ring's registers (11 R258). -/
theorem exec_registerWrite_ringBlock {s : State} (v : Word) (ht : s.power.trip = false) {i : Nat} (hi : i < 64) :
    exec (.registerWrite (0x100 + 32 * i + 0xC) v) s = exec (.ringDoorbell i v) s ∧
    (∃ t, exec (.registerWrite (0x100 + 32 * i) v) s = .next t ∧ t = { s with rings := t.rings } ∧
      OnlyRing s t i { s.ringAt i with base := v }) ∧
    (∃ t, exec (.registerWrite (0x100 + 32 * i + 4) v) s = .next t ∧ t = { s with rings := t.rings } ∧
      OnlyRing s t i { s.ringAt i with host := wbit v 31, baseH := BitVec.ofNat 24 (wbits v 23 0) }) ∧
    (wbit v 30 = false → ∃ t, exec (.registerWrite (0x100 + 32 * i + 8) v) s = .next t ∧ t = { s with rings := t.rings } ∧
      OnlyRing s t i { s.ringAt i with
        en := wbit v 31
        log2n := if 4 ≤ wbits v 4 0 ∧ wbits v 4 0 ≤ 16 then BitVec.ofNat 5 (wbits v 4 0) else (s.ringAt i).log2n }) := by
  refine ⟨?_, ?_, ?_, fun h30 => ?_⟩
  · rw [exec_registerWrite, State.writeRegister_ring v ht hi (by decide) (by decide), exec_ringDoorbell]
    rfl
  · exact exec_registerWrite_ring (o := 0) v ht hi rfl
  · rw [ofNat_wbits_low v 23]
    exact exec_registerWrite_ring v ht hi rfl
  · exact exec_registerWrite_ring v ht hi (s.writeRing_control i h30)

/-- Writes of a head's size, control and state registers (18 R352). -/
theorem exec_registerWrite_headBlock {s : State} (v : Word) (ht : s.power.trip = false) {h : Nat} (hh : h < 4) :
    (∃ t, exec (.registerWrite (0x900 + 64 * h + 0x10) v) s = .next t ∧ t = { s with heads := t.heads } ∧
      t.head h = { s.head h with size := v } ∧ ∀ k, k ≠ h → t.head k = s.head k) ∧
    (∃ t, exec (.registerWrite (0x900 + 64 * h + 0x14) v) s = .next t ∧ t = { s with heads := t.heads } ∧
      (∀ k, k ≠ h → t.head k = s.head k) ∧
      t.head h = { s.head h with
        en := wbit v 31, fmt := wbit v 30, bpc10 := wbit v 29, lanes := BitVec.ofNat 2 (wbits v 5 4)
        rate := BitVec.ofNat 3 (wbits v 2 0), linkUp := false
        deadline := if wbit v 31 && !(s.head h).en then s.tsc else (s.head h).deadline }) ∧
    (∃ t, exec (.registerWrite (0x900 + 64 * h + 0x1C) v) s = .next t ∧ t = { s with heads := t.heads } ∧
      (∀ k, k ≠ h → t.head k = s.head k) ∧
      t.head h = { s.head h with under := (s.head h).under && !wbit v 0, drop := (s.head h).drop && !wbit v 1 }) := by
  refine ⟨?_, ?_, ?_⟩
  · obtain ⟨t, hexec, hframe, hothers, hhead⟩ := exec_registerWrite_head (o := 0x10) v ht hh rfl
    exact ⟨t, hexec, hframe, hhead, hothers⟩
  · rw [ofNat_lanes, ofNat_wbits_low v 2]
    exact exec_registerWrite_head v ht hh rfl
  · exact exec_registerWrite_head v ht hh rfl

/-- Reads of the status block that change nothing (R381, R385, R388). -/
theorem State.shows_statusBlock (s : State) : let k := s.status
    s.Shows 0x00 (k.hbm.toNat + k.clusters.toNat * 2 ^ 8 + k.heads.toNat * 2 ^ 24 + k.cxl.toNat * 2 ^ 28 + k.fe.toNat * 2 ^ 29) ∧
    s.Shows 0x04 k.ports.toNat ∧ s.Shows 0x0C k.tsh.toNat ∧ s.Shows 0x10 s.power.word.toNat ∧
    s.Shows 0x14 s.power.cap.toNat ∧ s.Shows 0x24 k.boot.toNat :=
  ⟨State.shows_status s.readStatus_ready,
   State.shows_status (packed_one _ (by decide)),
   State.shows_status rfl,
   State.shows_status rfl,
   State.shows_status (packed_one _ (by decide)),
   State.shows_status (packed_one _ (by decide))⟩

/-- Reads of TSL and of the RC counters are the events that latch and clear (R381, R385). -/
theorem exec_registerRead_events (s : State) :
    exec (.hostMemAccess (.register 0x08)) s = exec .tslRead s ∧
    exec (.hostMemAccess (.register 0x18)) s = exec (.correctedErrorCountRead .bank) s ∧
    exec (.hostMemAccess (.register 0x1C)) s = exec (.correctedErrorCountRead .slice) s ∧
    exec (.hostMemAccess (.register 0x20)) s = exec (.correctedErrorCountRead .hbm) s := by
  refine ⟨?_, rfl, rfl, rfl⟩
  have hlow : (s.readRegister 0x08).toNat = s.tsc.toNat % 2 ^ 32 := lowWord_toNat s.tsc
  rw [exec_hostMemAccess, execHostMemAccess, hlow]
  rfl

/-- Reads of the fault log and save pool (13 R289). -/
theorem State.shows_faultLog (s : State) : let l := s.log
    s.Shows 0x40 l.saveBase.toNat ∧ s.Shows 0x44 l.saveBaseH.toNat ∧ s.Shows 0x48 l.saveLen.toNat ∧ s.Shows 0x50 l.base.toNat ∧
    s.Shows 0x54 (l.baseH.toNat + l.host.toNat * 2 ^ 31) ∧ s.Shows 0x58 (l.log2n.toNat + l.en.toNat * 2 ^ 31) ∧
    s.Shows 0x5C l.wptr.toNat ∧ s.Shows 0x60 l.rptr.toNat ∧ s.Shows 0x64 0 :=
  ⟨State.shows_log rfl,
   State.shows_log (packed_one _ (by decide)),
   State.shows_log rfl,
   State.shows_log rfl,
   State.shows_log (packed_top _ _ (by decide)),
   State.shows_log (packed_top _ _ (by decide)),
   State.shows_log rfl,
   State.shows_log rfl,
   State.shows_log rfl⟩

/-- Reads of a ring's registers (11 R258). -/
theorem State.shows_ringBlock (s : State) {i : Nat} (hi : i < 64) : let r := s.ringAt i
    let at_ := fun (o : Nat) => s.Shows (0x100 + 32 * i + o)
    at_ 0x00 r.base.toNat ∧ at_ 0x04 (r.baseH.toNat + r.host.toNat * 2 ^ 31) ∧
    at_ 0x08 (r.log2n.toNat + r.err.toNat * 2 ^ 30 + r.en.toNat * 2 ^ 31) ∧ at_ 0x0C r.wptr.toNat ∧
    at_ 0x10 r.rptr.toNat ∧ at_ 0x14 r.done.toNat ∧ at_ 0x18 0 ∧ at_ 0x1C 0 :=
  ⟨State.shows_ring hi rfl,
   State.shows_ring hi (packed_top _ _ (by decide)),
   State.shows_ring hi (Ring.read_control _),
   State.shows_ring hi rfl,
   State.shows_ring hi rfl,
   State.shows_ring hi rfl,
   State.shows_ring hi rfl,
   State.shows_ring hi rfl⟩

/-- Reads of a head's registers (18 R352, 20 R376, 21 R379). -/
theorem State.shows_headBlock (s : State) {h : Nat} (hh : h < 4) : let x := s.head h
    let at_ := fun (o : Nat) => s.Shows (0x900 + 64 * h + o)
    at_ 0x00 x.base.toNat ∧ at_ 0x04 x.baseH.toNat ∧ at_ 0x08 x.root.toNat ∧ at_ 0x0C x.rootH.toNat ∧ at_ 0x10 x.size.toNat ∧
    at_ 0x14 (x.rate.toNat + x.lanes.toNat * 2 ^ 4 + x.bpc10.toNat * 2 ^ 29 + x.fmt.toNat * 2 ^ 30 + x.en.toNat * 2 ^ 31) ∧
    at_ 0x18 x.period.toNat ∧ at_ 0x1C (x.under.toNat + x.drop.toNat * 2 + x.linkUp.toNat * 2 ^ 31) ∧
    at_ 0x20 (x.deadline.toNat % 2 ^ 32) ∧ at_ 0x24 (x.deadline.toNat / 2 ^ 32) ∧ at_ 0x28 x.frames.toNat ∧
    at_ 0x2C x.siga.toNat ∧ at_ 0x30 x.sigaH.toNat ∧ at_ 0x34 (x.missing.toNat % 2 ^ 32) ∧
    at_ 0x38 (x.missing.toNat / 2 ^ 32) ∧ at_ 0x3C x.lframe.toNat :=
  ⟨State.shows_head hh rfl,
   State.shows_head hh (packed_one _ (by decide)),
   State.shows_head hh rfl,
   State.shows_head hh (packed_one _ (by decide)),
   State.shows_head hh rfl,
   State.shows_head hh (Head.read_control _),
   State.shows_head hh rfl,
   State.shows_head hh (Head.read_state _),
   State.shows_head hh (lowWord_toNat _),
   State.shows_head hh (highWord_toNat _),
   State.shows_head hh rfl,
   State.shows_head hh rfl,
   State.shows_head hh (packed_one _ (by decide)),
   State.shows_head hh (lowWord_toNat _),
   State.shows_head hh (highWord_toNat _),
   State.shows_head hh rfl⟩

/-- Reads of an entry of the group table (20 R367). -/
theorem State.shows_groupTable (s : State) {i : Nat} (hi : i < 128) : let e := s.groupEntry i
    let at_ := fun (o : Nat) => s.Shows (0xA10 + 16 * i + o)
    at_ 0x0 (e.gid.toNat + e.myrank.toNat * 2 ^ 16 + e.valid.toNat * 2 ^ 31) ∧ at_ 0x4 e.nrank.toNat ∧
    at_ 0x8 e.late.toNat ∧ at_ 0xC e.seq.toNat :=
  ⟨State.shows_groupEntry hi (GroupEntry.read_word0 _),
   State.shows_groupEntry hi (packed_one _ (by decide)),
   State.shows_groupEntry hi rfl,
   State.shows_groupEntry hi rfl⟩

/-- Settles O50: each access goes to the line or to the register that its address names, by the laws of plain memory and of
the register blocks above. -/
theorem hostAccesses : Obligations.HostAccesses := by
  unfold Obligations.HostAccesses
  refine ⟨fun s pa bs hc => ⟨fun hn => ?_, fun hr => ?_⟩, fun s a bs => exec_hostWriteToHostLine_plain, fun s o v ht => ?_,
    fun s core reg v => exec_hostNotifyWrite_aperture v, fun s v ht => ?_, fun s => ?_, fun s c => ?_, fun s o v h => ?_,
    fun s v ht => ?_, fun s => ?_⟩
  · have hn : ¬s.hostReady pa bs.length = true := fun h => hn ((s.hostReady_iff pa bs.length).1 h)
    exact ⟨if_neg hn, if_neg hn⟩
  · have hr := (s.hostReady_iff pa bs.length).2 hr
    exact ⟨exec_hostWrite_plain hc hr, exec_hostRead_plain hc hr⟩
  · exact ⟨by rw [exec_hostNotifyWrite, State.hostNotify_tripped o v ht], execCapWrite_tripped v ht⟩
  · exact ⟨_, execCapWrite_untripped v ht, rfl, rfl⟩
  · exact ⟨_, rfl, rfl, counter_halves s.tsc, bytesOf_length ..⟩
  · exact ⟨_, rfl, rfl, Status.counter_setCounter_same .., fun d => Status.counter_setCounter_other _ _⟩
  · rw [exec_registerWrite, State.writeRegister_ignored v h]
  · refine ⟨?_, fun i => exec_registerWrite_ringBlock v ht, fun h => exec_registerWrite_headBlock v ht, ?_, fun k j hk hj => ?_,
      fun core reg hc hr => ?_⟩
    · rw [exec_registerWrite, State.writeRegister_cap v ht, exec_capWrite, execCapWrite_untripped v ht]
    · rw [exec_registerWrite, State.writeRegister_flack v ht, exec_flack]
    · rw [exec_registerWrite, State.writeRegister_groupTable v ht (by omega) (by omega) (by omega), exec_groupTableWrite]
    · rw [exec_registerWrite, State.writeRegister_notify v ht (by omega) (by omega), exec_hostNotifyWrite]
  · obtain ⟨hready, hports, htsh, hclk, hcap, hboot⟩ := s.shows_statusBlock
    refine ⟨⟨hready, hports, htsh, hclk, hcap, hboot, exec_registerRead_events s⟩, s.shows_faultLog, fun i => s.shows_ringBlock,
      fun h => s.shows_headBlock, ?_, fun i => s.shows_groupTable, fun o => s.shows_zero⟩
    refine State.shows_of_read (by decide) ((congrArg _ (State.readRegister_fabric (by decide) (by decide) rfl)).trans ?_)
    cases hf : s.fabric.fabid with
    | none => exact congrArg _ (State.readFabric_no_fabid hf)
    | some n => exact State.readFabric_fabid hf

end Sys2Proof.Machine
end
